-- ==== Sys2Proof/Word.lean ====
section
/-! DEFINITION. The word types of the Draton KDW-4 model and the plainest helpers on them (R14, R18, R19).
Bit fields are written `[hi:lo]` in the spec; `fieldAt lo n x` is the field of width `n` whose lowest bit is `lo`. -/

namespace Sys2Proof

/-- A general register, an address, a control register (R19). -/
abbrev Word := BitVec 64

/-- One byte of memory (R14). -/
abbrev Byte := BitVec 8

/-- A vector register, 2048 bits on this part (R8). -/
abbrev Row := BitVec 2048

/-- A predicate register: one bit for each byte of a vector register (R366). -/
abbrev Pred := BitVec 256

/-- The field of width `n` whose lowest bit is bit `lo` (R18). -/
def fieldAt (lo n : Nat) (x : BitVec w) : BitVec n := x.extractLsb' lo n

/-- The same field as a number. -/
def natAt (lo n : Nat) (x : BitVec w) : Nat := (x.extractLsb' lo n).toNat

/-- One bit of a word. -/
def bitAt (i : Nat) (x : BitVec w) : Bool := x.getLsbD i

/-- The number 1 or 0 of a truth value, as software reads it. -/
def boolWord (b : Bool) : Word := if b then 1#64 else 0#64

end Sys2Proof
end

