-- ==== Sys2Proof/Machine/Limits.lean ====
section
/-! DEFINITION. The limits on the fields of engine commands (R293, R397–R423): each check is a bit position, the one DETAIL reports
(R398), and whether it failed. Used by the decoder and by the meanings of the commands. -/

namespace Sys2Proof

/-- What a command is checked against beside its own bits: the EXTENT of its job, whether the peg handle it names was valid at its
push (R357), whether its context is the root of its gang, and the number of contexts of the gang. -/
structure CmdEnv where
  extent : Nat := 33554432
  pegOk : Bool := true
  root : Bool := false
  members : Nat := 1
deriving DecidableEq, Repr

/-- The lowest position of a failed check (R398). -/
def lowestFailed (checks : List (Nat × Bool)) : Option Nat :=
  match checks with
  | [] => none
  | (p, failed) :: t =>
    if failed then
      match lowestFailed t with
      | some q => some (Nat.min p q)
      | none => some p
    else lowestFailed t

/-- The queue a command opcode belongs to; `some none` for MARK and CNOP, which any command queue takes (R292). -/
def copHome (cop : Nat) : Option (Option Nat) :=
  if 0x01 ≤ cop ∧ cop ≤ 0x04 then some (some 0)
  else if 0x10 ≤ cop ∧ cop ≤ 0x16 then some (some 4)
  else if cop = 0x20 then some (some 5)
  else if 0x30 ≤ cop ∧ cop ≤ 0x33 then some (some 6)
  else if 0x40 ≤ cop ∧ cop ≤ 0x43 then some (some 8)
  else if cop = 0xF0 ∨ cop = 0xF1 then some none
  else none

/-- A command opcode is assigned and belongs to the queue (R292). -/
def copFits (cop q : Nat) : Bool :=
  match copHome cop with
  | some (some h) => h == q
  | some none => q == 0 || q == 4 || q == 5 || q == 6 || q == 8
  | none => false

/-- Kept elements per column of a weight format, KP (R400). -/
def mfcKept (m : Nat) : Nat :=
  match m with
  | 0 => 16
  | 1 => 64
  | 2 => 64
  | 7 => 256
  | 9 => 256
  | _ => 128

/-- Weight formats that allow sparsity (R400). -/
def mfcSparse (m : Nat) : Bool := m == 3 || m == 4 || m == 8 || m == 9

/-- MWLOAD (R401). K = 0 fails K itself; a multiple of 8 is a relation with SPARSE, and KP one with WFMT. -/
def mwloadLimits (wfmt sparse k : Nat) : List (Nat × Bool) :=
  [(64, decide (9 < wfmt)),
   (68, sparse == 3),
   (64, sparse != 0 && !mfcSparse wfmt),
   (80, k == 0),
   (68, sparse != 0 && k % 8 != 0),
   (64, decide ((if sparse = 0 then 1 else 2) * mfcKept wfmt < k))]

/-- MSTREAM (R402): ROWS from 1. The pairing of AFMT is checked at the start. -/
def mstreamLimits (rows : Nat) : List (Nat × Bool) := [(72, rows == 0)]

/-- Output formats of MDRAIN (R403). -/
def drainFormat (ofmt : Nat) : Bool := decide (ofmt ≤ 5) || (decide (8 ≤ ofmt) && decide (ofmt ≤ 11))

/-- MDRAIN (R403). DADDR and DSTRIDE being multiples of 8 is one relation. -/
def mdrainLimits (nrows mode ofmt dq daddr dstride : Nat) : List (Nat × Bool) :=
  [(73, nrows == 0 || decide (512 < nrows)),
   (88, !drainFormat ofmt),
   (84, mode == 2 && ofmt != 10),
   (128, dq == 1 && (daddr % 8 != 0 || dstride % 8 != 0))]

/-- MCLEAR (R404). -/
def mclearLimits (nrows : Nat) : List (Nat × Bool) := [(73, nrows == 0 || decide (512 < nrows))]

/-- CPY (R406). -/
def cpyLimits (len : Nat) : List (Nat × Bool) := [(192, len == 0)]

/-- CPY2 (R406). -/
def cpy2Limits (rowlen nrows : Nat) : List (Nat × Bool) := [(192, rowlen == 0), (208, nrows == 0)]

/-- CPYF (R406). -/
def cpyfLimits (dst len : Nat) : List (Nat × Bool) :=
  [(192, len == 0), (128, dst % 8 != 0 || len % 8 != 0)]

/-- CPYG and CPYS (R406). -/
def cpygLimits (e : CmdEnv) (idx esz n : Nat) : List (Nat × Bool) :=
  [(192, idx % 4 != 0), (220, decide (8 < esz)), (224, n == 0), (192, decide (e.extent < idx + 4 * n))]

/-- CFILL (R406). -/
def cfillLimits (dst len feop : Nat) : List (Nat × Bool) :=
  [(192, len == 0), (48, feop == 3), (48, feop != 0 && (dst % 8 != 0 || len % 8 != 0))]

/-- CPYI (R406). -/
def cpyiLimits (dst len feop : Nat) : List (Nat × Bool) :=
  [(48, len == 0 || decide (16 < len)), (53, feop == 3), (48, feop != 0 && (dst % 8 != 0 || len % 8 != 0))]

/-- Width in bytes of a format code of R371; 0 for lut4 and 7. -/
def fcBytes (f : Nat) : Nat :=
  match f with
  | 0 => 8
  | 1 => 4
  | 2 => 2
  | 3 => 2
  | 4 => 1
  | 5 => 1
  | 8 => 1
  | 9 => 2
  | 10 => 4
  | 11 => 8
  | 12 => 1
  | 13 => 2
  | 14 => 4
  | 15 => 8
  | _ => 0

/-- Element types of CHAIN (R411). -/
def chainFormat (f : Nat) : Bool := f != 0 && drainFormat f && f != 11

/-- The checks of a slot of CHAIN at position `p` (R412); `ended` once a slot before it, or it, is END. -/
def slotLimits (p op c rsv : Nat) (ended : Bool) : List (Nat × Bool) :=
  [(p, if ended then op != 0 else decide (12 < op)),
   (p, !ended && op == 4 && c == 7),
   (p + 5, (ended || op == 0) && c != 0),
   (p + 8, rsv != 0)]

/-- The checks of the eight slots of CHAIN from slot `i` on (R411, R412). -/
def slotsLimits (slots : BitVec 96) (i n : Nat) (ended : Bool) : List (Nat × Bool) :=
  match n with
  | 0 => []
  | n + 1 =>
    let op := natAt (12 * i) 5 slots
    slotLimits (64 + 12 * i) op (natAt (12 * i + 5) 3 slots) (natAt (12 * i + 8) 4 slots) ended
      ++ slotsLimits slots (i + 1) n (ended || op == 0)

/-- CHAIN (R411, R412); `src` and `dst` are byte offsets. -/
def chainLimits (e : CmdEnv) (slots : BitVec 96) (itype otype src dst n : Nat) : List (Nat × Bool) :=
  slotsLimits slots 0 8 false ++
  [(160, !chainFormat itype),
   (164, !chainFormat otype),
   (222, n == 0),
   (160, decide (e.extent < src + n * fcBytes itype)),
   (164, decide (e.extent < dst + n * fcBytes otype)),
   (160, decide (src < dst + n * fcBytes otype) && decide (dst < src + n * fcBytes itype)
          && !(src == dst && decide (fcBytes otype ≤ fcBytes itype)))]

/-- Element types of TRED (R414). -/
def tredFormat (f : Nat) : Bool := f == 0 || f == 1 || f == 10 || f == 11

/-- TRED (R414). -/
def tredLimits (e : CmdEnv) (type src dst n : Nat) : List (Nat × Bool) :=
  [(68, !tredFormat type), (80, src % 8 != 0), (128, dst % 8 != 0), (192, n == 0),
   (68, decide (e.extent < src + n * fcBytes type))]

/-- TBCAST and TGATH (R414). -/
def tmoveLimits (e : CmdEnv) (src dst len : Nat) : List (Nat × Bool) :=
  [(80, src % 8 != 0), (128, dst % 8 != 0), (192, len == 0 || len % 8 != 0),
   (80, decide (e.extent < src + len))]

/-- TSCAT (R414, R417): the root's data is a slice for each context of the gang. -/
def tscatLimits (e : CmdEnv) (src dst len : Nat) : List (Nat × Bool) :=
  tmoveLimits e src dst len ++ [(80, e.root && decide (e.extent < src + len * e.members))]

/-- Weight formats of the bank units (R419). -/
def bankFormat (f : Nat) : Bool := f == 1 || (decide (3 ≤ f) && decide (f ≤ 7))

/-- A dimension of a bank command (R419). -/
def bankDim (n : Nat) : Bool := decide (1 ≤ n) && decide (n ≤ 16384)

/-- BMV and BMVT (R419). -/
def bmvLimits (m k wfmt acc yq : Nat) : List (Nat × Bool) :=
  [(179, !bankDim m), (194, !bankDim k), (209, !bankFormat wfmt), (213, acc == 1 && yq == 1)]

/-- BREAD and BZERO (R419). -/
def breadLimits (n : Nat) : List (Nat × Bool) := [(179, !bankDim n)]

end Sys2Proof
end

