-- ==== Sys2Proof/Syntax.lean ====
section
/-! DEFINITION. The instructions of the part: one constructor for each row of spec/opcode_table.json.

The first 200 constructors are the strand instructions of 32 bits; their arguments are the fields of the row, under the
letters of the table (d, a, b registers; i immediate; l lookahead; o order; w width; t type; c condition, class or CSR number;
k predicate; s scope or shift; n level, slot or code; m mask; q queue; g guard; f function or format code; r relaxed; p predicate
destination; j low code bits). The engine commands carry their header (`CmdHdr`) and the fields of R401 to R421. The other
constructors are the events, requests and host records of the part; the values the outside world, the scheduler or the record
supplies with one stand in `State.input` while it is applied. -/

namespace Sys2Proof

/-- The header of an engine command as it stands in its queue (R290, R397), with the queue it was pushed to, the strand that
pushed it and its push number in the context (its place in the queue's order, R161). -/
structure CmdHdr where
  /-- CT = 1: the completion goes to a peg (R290). -/
  peg : Bool
  pegIdx : BitVec 5
  pegGen : BitVec 16
  tag : BitVec 16
  /-- ERRPOST, bit 63 of the word (R397). -/
  errpost : Bool
  cop : BitVec 8
  queue : BitVec 4
  issuer : BitVec 4
  seq : Nat
deriving DecidableEq, Repr

/-- The instructions of the part. -/
inductive Instr where
  /-- ADD (R305): Writes the sum of g(a) and g(b), modulo 2^64, to g(d). -/
  | add (d a b : BitVec 5)
  /-- SUB (R305): Writes g(a) minus g(b), modulo 2^64, to g(d). -/
  | sub (d a b : BitVec 5)
  /-- AND (R305): Writes the bitwise AND of g(a) and g(b) to g(d). -/
  | and (d a b : BitVec 5)
  /-- OR (R305): Writes the bitwise OR of g(a) and g(b) to g(d). -/
  | or (d a b : BitVec 5)
  /-- XOR (R305): Writes the bitwise XOR of g(a) and g(b) to g(d). -/
  | xor (d a b : BitVec 5)
  /-- ANDN (R305): Writes g(a) AND NOT g(b) to g(d). -/
  | andn (d a b : BitVec 5)
  /-- ORN (R305): Writes g(a) OR NOT g(b) to g(d). -/
  | orn (d a b : BitVec 5)
  /-- SLL (R305): Shifts g(a) left by g(b)[5:0], modulo 2^64. -/
  | sll (d a b : BitVec 5)
  /-- SRL (R305): Shifts g(a) right logically by g(b)[5:0]. -/
  | srl (d a b : BitVec 5)
  /-- SRA (R305): Shifts g(a) right arithmetically by g(b)[5:0]. -/
  | sra (d a b : BitVec 5)
  /-- ROR (R305): Rotates g(a) right by g(b)[5:0]. -/
  | ror (d a b : BitVec 5)
  /-- MIN (R305): Writes the signed minimum of g(a) and g(b) to g(d). -/
  | min (d a b : BitVec 5)
  /-- MAX (R305): Writes the signed maximum of g(a) and g(b) to g(d). -/
  | max (d a b : BitVec 5)
  /-- MINU (R305): Writes the unsigned minimum of g(a) and g(b) to g(d). -/
  | minu (d a b : BitVec 5)
  /-- MAXU (R305): Writes the unsigned maximum of g(a) and g(b) to g(d). -/
  | maxu (d a b : BitVec 5)
  /-- SEL (R305): Writes g(a) to g(d) if the old g(d) is non-zero, and g(b) otherwise. -/
  | sel (d a b : BitVec 5)
  /-- CLZ (R305): Counts the leading zero bits of g(a). -/
  | clz (d a : BitVec 5)
  /-- CTZ (R305): Counts the trailing zero bits of g(a). -/
  | ctz (d a : BitVec 5)
  /-- POPC (R305): Counts the one bits of g(a). -/
  | popc (d a : BitVec 5)
  /-- SEXT_I8 (R305): Sign-extends g(a)[7:0] into g(d). -/
  | sextI8 (d a : BitVec 5)
  /-- SEXT_I16 (R305): Sign-extends g(a)[15:0] into g(d). -/
  | sextI16 (d a : BitVec 5)
  /-- SEXT_I32 (R305): Sign-extends g(a)[31:0] into g(d). -/
  | sextI32 (d a : BitVec 5)
  /-- ZEXT_N8 (R305): Zero-extends g(a)[7:0] into g(d). -/
  | zextN8 (d a : BitVec 5)
  /-- ZEXT_N16 (R305): Zero-extends g(a)[15:0] into g(d). -/
  | zextN16 (d a : BitVec 5)
  /-- ZEXT_N32 (R305): Zero-extends g(a)[31:0] into g(d). -/
  | zextN32 (d a : BitVec 5)
  /-- MUL (R306): Writes the low 64 bits of the signed product to g(d), with a latency of 24 cc. -/
  | mul (d a b : BitVec 5) (l : BitVec 4)
  /-- MULH (R306): Writes the high 64 bits of the signed 128-bit product to g(d). -/
  | mulh (d a b : BitVec 5) (l : BitVec 4)
  /-- MULHU (R306): Writes the high 64 bits of the unsigned 128-bit product to g(d). -/
  | mulhu (d a b : BitVec 5) (l : BitVec 4)
  /-- DIV (R306): Signed division rounded toward zero; a zero divisor traps with cause 0x16. -/
  | div (d a b : BitVec 5) (l : BitVec 4)
  /-- DIVU (R306): Unsigned division; a zero divisor traps with cause 0x16. -/
  | divu (d a b : BitVec 5) (l : BitVec 4)
  /-- REM (R306): Signed remainder; a zero divisor traps with cause 0x16. -/
  | rem (d a b : BitVec 5) (l : BitVec 4)
  /-- REMU (R306): Unsigned remainder; a zero divisor traps with cause 0x16. -/
  | remu (d a b : BitVec 5) (l : BitVec 4)
  /-- CMP (R307): Writes 1 to g(d) if condition cc holds between g(a) and g(b), and 0 otherwise. -/
  | cmp (d a b : BitVec 5) (c : BitVec 4)
  /-- FADD (R310): Scalar floating-point add in fp64 or fp32, rounded under FRM. -/
  | fadd (d a b : BitVec 5) (t : BitVec 1) (l : BitVec 4)
  /-- FSUB (R310): Scalar floating-point subtract. -/
  | fsub (d a b : BitVec 5) (t : BitVec 1) (l : BitVec 4)
  /-- FMUL (R310): Scalar floating-point multiply. -/
  | fmul (d a b : BitVec 5) (t : BitVec 1) (l : BitVec 4)
  /-- FDIV (R310): Scalar floating-point divide, with a latency of 96 cc. -/
  | fdiv (d a b : BitVec 5) (t : BitVec 1) (l : BitVec 4)
  /-- FSQRT (R310): Scalar floating-point square root. -/
  | fsqrt (d a : BitVec 5) (t : BitVec 1) (l : BitVec 4)
  /-- FMA (R310): Fused multiply-add x × y + old g(d), rounded once. -/
  | fma (d a b : BitVec 5) (t : BitVec 1) (l : BitVec 4)
  /-- FMIN (R310): Scalar floating-point minimum. -/
  | fmin (d a b : BitVec 5) (t : BitVec 1) (l : BitVec 4)
  /-- FMAX (R310): Scalar floating-point maximum. -/
  | fmax (d a b : BitVec 5) (t : BitVec 1) (l : BitVec 4)
  /-- FCVT (R310): Converts between fp32 and fp64. -/
  | fcvt (d a : BitVec 5) (t : BitVec 1) (l : BitVec 4)
  /-- FCVTI (R310): Converts a floating-point value to i64 under FRM. -/
  | fcvti (d a : BitVec 5) (t : BitVec 1) (l : BitVec 4)
  /-- FCVTF (R310): Converts an i64 in g(a) to the floating-point type. -/
  | fcvtf (d a : BitVec 5) (t : BitVec 1) (l : BitVec 4)
  /-- FCMP (R310): Floating-point compare (.eq, .ne, .lt, .le) writing 0 or 1 to g(d). -/
  | fcmp (d a b : BitVec 5) (t : BitVec 1) (c : BitVec 3) (l : BitVec 4)
  /-- NOP (R308): Does nothing. -/
  | nop
  /-- ADDI (R308): Adds the sign-extended immediate to g(a). -/
  | addi (d a : BitVec 5) (i : BitVec 15)
  /-- ANDI (R308): ANDs g(a) with the sign-extended immediate. -/
  | andi (d a : BitVec 5) (i : BitVec 15)
  /-- ORI (R308): ORs g(a) with the zero-extended immediate. -/
  | ori (d a : BitVec 5) (i : BitVec 15)
  /-- XORI (R308): XORs g(a) with the zero-extended immediate. -/
  | xori (d a : BitVec 5) (i : BitVec 15)
  /-- SLLI (R308): Shifts g(a) left by imm[5:0]. -/
  | slli (d a : BitVec 5) (s : BitVec 6)
  /-- SRLI (R308): Shifts g(a) right logically by imm[5:0]. -/
  | srli (d a : BitVec 5) (s : BitVec 6)
  /-- SRAI (R308): Shifts g(a) right arithmetically by imm[5:0]. -/
  | srai (d a : BitVec 5) (s : BitVec 6)
  /-- LI (R308): Loads the sign-extended immediate into g(d). -/
  | li (d : BitVec 5) (i : BitVec 15)
  /-- LIH (R308): Writes (g(a) << 15) OR the immediate to g(d). -/
  | lih (d a : BitVec 5) (i : BitVec 15)
  /-- LAPC (R308): Writes to g(d) the address of LAPC plus 4 × sext(imm). -/
  | lapc (d : BitVec 5) (i : BitVec 15)
  /-- BEQ (R311): Branches if g(a) equals g(b). -/
  | beq (a b : BitVec 5) (i : BitVec 15)
  /-- BNE (R311): Branches if g(a) differs from g(b). -/
  | bne (a b : BitVec 5) (i : BitVec 15)
  /-- BLT (R311): Branches if g(a) < g(b), compared as signed. -/
  | blt (a b : BitVec 5) (i : BitVec 15)
  /-- BGE (R311): Branches if g(a) ≥ g(b), compared as signed. -/
  | bge (a b : BitVec 5) (i : BitVec 15)
  /-- BLTU (R311): Branches if g(a) < g(b), compared as unsigned. -/
  | bltu (a b : BitVec 5) (i : BitVec 15)
  /-- BGEU (R311): Branches if g(a) ≥ g(b), compared as unsigned. -/
  | bgeu (a b : BitVec 5) (i : BitVec 15)
  /-- BZ (R311): Branches if g(a) is zero. -/
  | bz (a : BitVec 5) (i : BitVec 15)
  /-- BNZ (R311): Branches if g(a) is non-zero. -/
  | bnz (a : BitVec 5) (i : BitVec 15)
  /-- B (R311): Branches always. -/
  | b (i : BitVec 25)
  /-- CALL (R311): Writes the return address to g1 and branches. -/
  | call (i : BitVec 25)
  /-- CALLR (R312): Calls the address in g(a), writing the return address to g1. -/
  | callr (a : BitVec 5)
  /-- RET (R312): Jumps to the address in g1. -/
  | ret
  /-- JR (R312): Jumps to the address in g(a). -/
  | jr (a : BitVec 5)
  /-- JTAB (R313): Branches through a bounded table in memory, falling through when the index is out of bounds. -/
  | jtab (a b : BitVec 5)
  /-- LCLR (R318): Clears the loop registers and active bits of the levels named in the mask. -/
  | lclr (m : BitVec 2)
  /-- LSET (R318): Activates the named loop levels after checking their registers; a failed check traps with cause 0x07. -/
  | lset (m : BitVec 2)
  /-- LOOP (R315): Sets up loop level n with body start, body end and count, and skips the body when the count is 0. -/
  | loop (a : BitVec 5) (n : BitVec 1) (i : BitVec 15)
  /-- LOOPX (R317): If g(a) is non-zero, clears the masked loop levels and branches. -/
  | loopx (a : BitVec 5) (m : BitVec 2) (i : BitVec 15)
  /-- LD (R338): Loads a sign-extended value of 1 to 8 bytes, unprefixed, relaxed or acquire. -/
  | ld (d a : BitVec 5) (o w : BitVec 2) (i : BitVec 7) (l : BitVec 4)
  /-- JLD (R209): Reads an 8-byte word into the open joint's word set. -/
  | jld (d a : BitVec 5) (i : BitVec 7)
  /-- LDU (R338): Loads a zero-extended value of 1 to 4 bytes. -/
  | ldu (d a : BitVec 5) (o w : BitVec 2) (i : BitVec 7) (l : BitVec 4)
  /-- ST (R338): Stores 1 to 8 bytes, unprefixed, relaxed or release. -/
  | st (d a : BitVec 5) (o w : BitVec 2) (i : BitVec 7) (l : BitVec 4)
  /-- JST (R209): Holds a write of an 8-byte word in the open joint. -/
  | jst (d a : BitVec 5) (i : BitVec 7)
  /-- LDX (R340): Sign-extending load at g(a) + g(b). -/
  | ldx (d a b : BitVec 5) (o w : BitVec 2) (l : BitVec 4)
  /-- LDUX (R340): Zero-extending load at g(a) + g(b). -/
  | ldux (d a b : BitVec 5) (o w : BitVec 2) (l : BitVec 4)
  /-- STX (R340): Store at g(a) + g(b). -/
  | stx (d a b : BitVec 5) (o w : BitVec 2) (l : BitVec 4)
  /-- LDEX (R340): LDE at g(a) + g(b). -/
  | ldex (d a b : BitVec 5)
  /-- STFX (R340): STF at g(a) + g(b). -/
  | stfx (d a b : BitVec 5)
  /-- LDE (R342): Waits until the word is full, reads it and sets it empty; an acquire at device scope. -/
  | lde (d a : BitVec 5) (i : BitVec 7)
  /-- LDF (R342): Waits until the word is full and reads it, leaving it full. -/
  | ldf (d a : BitVec 5) (i : BitVec 7)
  /-- STF (R342): Waits until the word is empty, writes it and sets it full. -/
  | stf (d a : BitVec 5) (i : BitVec 7)
  /-- STS (R342): Writes the word and sets it full without waiting. -/
  | sts (d a : BitVec 5) (i : BitVec 7)
  /-- FEQ (R342): Returns the word's full/empty bit. -/
  | feq (d a : BitVec 5) (i : BitVec 7)
  /-- FESET (R342): Sets the word's bit to full. -/
  | feset (a : BitVec 5) (i : BitVec 7)
  /-- FECLR (R342): Sets the word's bit to empty. -/
  | feclr (a : BitVec 5) (i : BitVec 7)
  /-- LDPC (R341): Performs an unprefixed 8-byte PC-relative load. -/
  | ldpc (d : BitVec 5) (i : BitVec 15)
  /-- AMO_SWAP (R343): Atomically swaps the word with y and returns the old value. -/
  | amoSwap (d a b : BitVec 5) (r w : BitVec 1) (l : BitVec 4)
  /-- AMO_ADD (R343): Atomic add. -/
  | amoAdd (d a b : BitVec 5) (r w : BitVec 1) (l : BitVec 4)
  /-- AMO_AND (R343): Atomic AND. -/
  | amoAnd (d a b : BitVec 5) (r w : BitVec 1) (l : BitVec 4)
  /-- AMO_OR (R343): Atomic OR. -/
  | amoOr (d a b : BitVec 5) (r w : BitVec 1) (l : BitVec 4)
  /-- AMO_XOR (R343): Atomic XOR. -/
  | amoXor (d a b : BitVec 5) (r w : BitVec 1) (l : BitVec 4)
  /-- AMO_MIN (R343): Atomic signed minimum. -/
  | amoMin (d a b : BitVec 5) (r w : BitVec 1) (l : BitVec 4)
  /-- AMO_MAX (R343): Atomic signed maximum. -/
  | amoMax (d a b : BitVec 5) (r w : BitVec 1) (l : BitVec 4)
  /-- AMO_MINU (R343): Atomic unsigned minimum. -/
  | amoMinu (d a b : BitVec 5) (r w : BitVec 1) (l : BitVec 4)
  /-- AMO_MAXU (R343): Atomic unsigned maximum. -/
  | amoMaxu (d a b : BitVec 5) (r w : BitVec 1) (l : BitVec 4)
  /-- CAS (R344): Compare-and-swap: writes y only if the word equals the old g(d), and returns the old value. -/
  | cas (d a b : BitVec 5) (r w : BitVec 1) (l : BitVec 4)
  /-- WAITEQ (R345): Waits until the word equals y, then returns it. -/
  | waiteq (d a b : BitVec 5) (r : BitVec 1) (l : BitVec 4)
  /-- WAITGE (R345): Waits until the word is at least y, as unsigned, then returns it. -/
  | waitge (d a b : BitVec 5) (r : BitVec 1) (l : BitVec 4)
  /-- WAITNE (R345): Waits until the word differs from y, then returns it. -/
  | waitne (d a b : BitVec 5) (r : BitVec 1) (l : BitVec 4)
  /-- ATOMAR (R343): The AMO, CAS and WAIT forms as an acquire and release at a scope. -/
  | atomar (d a b : BitVec 5) (w : BitVec 1) (f : BitVec 4) (s : BitVec 3)
  /-- FENCE (R346): Waits until every earlier access of the strand is performed. -/
  | fence (s : BitVec 3)
  /-- TFENCE (R191): Empties the translation caches within the scope after the strand's stores are performed. -/
  | tfence (s : BitVec 3)
  /-- BFENCE (R73): Makes the writes the strand sees to BT16 and BTMX pages readable by bank commands. -/
  | bfence (s : BitVec 3)
  /-- JOPEN (R209): Opens a joint and sets JSTAT.OPEN. -/
  | jopen
  /-- JCLOSE (R210): Locks, validates and commits the joint's writes at one point in M, or aborts. -/
  | jclose (d : BitVec 5)
  /-- JABORT (R211): Aborts the open joint with code EXPLICIT. -/
  | jabort
  /-- MSGH (R350): Opens a packet to a destination VTID and class. -/
  | msgh (a : BitVec 5)
  /-- MSGW (R351): Appends a payload word to the open packet, waiting while the path cannot take a word. -/
  | msgw (a : BitVec 5)
  /-- MSGE (R352): Ends the open packet as a release at device scope. -/
  | msge
  /-- RECV (R353): Pops the head word of a class inbox, acquiring if the word is a header. -/
  | recv (d : BitVec 5) (c : BitVec 3)
  /-- RECVH (R353): Skips the rest of the current packet and pops the next header. -/
  | recvh (d : BitVec 5) (c : BitVec 3)
  /-- MPROBE (R354): Returns the state of a class inbox without taking a word. -/
  | mprobe (d : BitVec 5) (c : BitVec 3)
  /-- ENQ (R357): Pushes a command or row into a queue register, waiting while the queue is full. -/
  | enq (q : BitVec 4) (a : BitVec 5) (g : BitVec 4)
  /-- DEQ (R358): Pops a row from a pop queue into a vector register, waiting while the queue is empty. -/
  | deq (q : BitVec 4) (a : BitVec 5)
  /-- QSTAT (R359): Returns the state of a queue without waiting. -/
  | qstat (q : BitVec 4) (a : BitVec 5)
  /-- LEASE (R360): Waits until the matrix lease is granted to the strand. -/
  | lease
  /-- LEASEF (R360): Takes the matrix lease if it is free (n = 0), or releases it (n = 1), without waiting. -/
  | leasef (d : BitVec 5) (n : BitVec 1)
  /-- GSET (R163): Resolves a guard slot true or false, which starts or discards the commands held on it. -/
  | gset (a : BitVec 5) (n : BitVec 3)
  /-- GCLR (R163): Returns a guard slot to unresolved. -/
  | gclr (n : BitVec 3)
  /-- PEGA (R362): Allocates a peg with the expected count E. -/
  | pega (d a : BitVec 5)
  /-- PEGV (R363): Arrives on a peg as a release at tile scope. -/
  | pegv (d a : BitVec 5)
  /-- PEGW (R364): Waits until the peg's phase differs from the handle's phase, then acquires. -/
  | pegw (d a : BitVec 5)
  /-- PEGF (R365): Lowers the peg's reference count and frees the entry at zero. -/
  | pegf (a : BitVec 5)
  /-- PEGQ (R365): Returns the state of a peg. -/
  | pegq (d a : BitVec 5)
  /-- TRAP (R321): Raises an A-class trap with cause 0x08 + n and TVAL g(a). -/
  | trap (a : BitVec 5) (n : BitVec 3)
  /-- ERET (R218): Returns from the handler, restoring PC, the loop registers and LSTAT, and clearing HA. -/
  | eret
  /-- EXIT (R323): Ends the strand after its outstanding accesses are performed. -/
  | exit
  /-- SPAWN (R324): Starts an inactive or exited strand at a PC. -/
  | spawn (a b : BitVec 5)
  /-- IDLE (R325): Waits for an inbox word bound to the strand or for a TIME deadline. -/
  | idle (d a : BitVec 5)
  /-- QCAP (R326): Returns a capability word. -/
  | qcap (d a : BitVec 5)
  /-- ILOCK (R327): Fills and locks the instruction-cache lines of a range, within the limits of R177. -/
  | ilock (d a b : BitVec 5)
  /-- IUNLOCK (R327): Unlocks the locked lines that overlap a range. -/
  | iunlock (a b : BitVec 5)
  /-- PUBLISH (R328): Checks a staged code object and seals a copy of it as a published object. -/
  | publish (d a b : BitVec 5)
  /-- LNCH (R329): Launches a child job from a launch record. -/
  | lnch (d a : BitVec 5)
  /-- STEP (R330): Marks the strand's next step and, with BUDDY set, waits for the mark. -/
  | step
  /-- BRK (R321): Raises a P-class breakpoint trap with cause 0x05. -/
  | brk (k j : BitVec 5)
  /-- TBLW (R331): Writes the whole lut4 table. -/
  | tblw (a b : BitVec 5)
  /-- HALT (R332): Privileged form that traps with cause 0x03 in every job strand. -/
  | halt
  /-- MGMT (R333): Returns a management reading. -/
  | mgmt (d a : BitVec 5)
  /-- CRD (R334): Reads a CSR into g(d). -/
  | crd (d : BitVec 5) (c : BitVec 12)
  /-- CWR (R334): Writes g(a) to a CSR field by field. -/
  | cwr (a : BitVec 5) (c : BitVec 12)
  /-- CINS (R334): Inserts g(a) into a CSR under the mask g(a+1) and returns the old value. -/
  | cins (d : BitVec 5) (a : BitVec 4) (c : BitVec 12)
  /-- CRDC (R334): Reads a CSR and writes 0 to its RW fields in one step. -/
  | crdc (d : BitVec 5) (c : BitVec 12)
  /-- VLD (R376): Contiguous 256-byte vector load governed by bytes. -/
  | vld (d a b : BitVec 4) (k : BitVec 3) (o : BitVec 1) (l : BitVec 4)
  /-- VLDS (R376): Strided vector load. -/
  | vlds (d a b : BitVec 4) (k t : BitVec 3) (o : BitVec 1) (l : BitVec 4)
  /-- VLDG (R376): Vector gather load. -/
  | vldg (d a b : BitVec 4) (k t : BitVec 3) (o : BitVec 1) (l : BitVec 4)
  /-- VST (R376): Contiguous vector store, as one access. -/
  | vst (d a b : BitVec 4) (k : BitVec 3) (o : BitVec 1) (l : BitVec 4)
  /-- VSTS (R376): Strided vector store. -/
  | vsts (d a b : BitVec 4) (k t : BitVec 3) (o : BitVec 1) (l : BitVec 4)
  /-- VSTX (R376): Vector scatter store. -/
  | vstx (d a b : BitVec 4) (k t : BitVec 3) (o : BitVec 1) (l : BitVec 4)
  /-- VADD (R380): Saturating element-wise integer add. -/
  | vadd (d a b : BitVec 4) (k t : BitVec 3) (l : BitVec 4)
  /-- VSUB (R380): Saturating element-wise integer subtract. -/
  | vsub (d a b : BitVec 4) (k t : BitVec 3) (l : BitVec 4)
  /-- VMUL (R380): Saturating element-wise integer multiply. -/
  | vmul (d a b : BitVec 4) (k t : BitVec 3) (l : BitVec 4)
  /-- VMIN (R380): Element-wise integer minimum. -/
  | vmin (d a b : BitVec 4) (k t : BitVec 3) (l : BitVec 4)
  /-- VMAX (R380): Element-wise integer maximum. -/
  | vmax (d a b : BitVec 4) (k t : BitVec 3) (l : BitVec 4)
  /-- VLOG_AND (R381): Byte-wise AND. -/
  | vlogAnd (d a b : BitVec 4) (k : BitVec 3) (l : BitVec 4)
  /-- VLOG_OR (R381): Byte-wise OR. -/
  | vlogOr (d a b : BitVec 4) (k : BitVec 3) (l : BitVec 4)
  /-- VLOG_XOR (R381): Byte-wise XOR. -/
  | vlogXor (d a b : BitVec 4) (k : BitVec 3) (l : BitVec 4)
  /-- VSHF_SLL (R381): 64-bit element left shift. -/
  | vshfSll (d a b : BitVec 4) (k : BitVec 3) (l : BitVec 4)
  /-- VSHF_SRL (R381): 64-bit element logical right shift. -/
  | vshfSrl (d a b : BitVec 4) (k : BitVec 3) (l : BitVec 4)
  /-- VSHF_SRA (R381): 64-bit element arithmetic right shift. -/
  | vshfSra (d a b : BitVec 4) (k : BitVec 3) (l : BitVec 4)
  /-- VFADD (R382): Element-wise floating-point add. -/
  | vfadd (d a b : BitVec 4) (k t : BitVec 3) (l : BitVec 4)
  /-- VFSUB (R382): Element-wise floating-point subtract. -/
  | vfsub (d a b : BitVec 4) (k t : BitVec 3) (l : BitVec 4)
  /-- VFMUL (R382): Element-wise floating-point multiply. -/
  | vfmul (d a b : BitVec 4) (k t : BitVec 3) (l : BitVec 4)
  /-- VFMA (R382): Element-wise fused multiply-add into v(d). -/
  | vfma (d a b : BitVec 4) (k t : BitVec 3) (l : BitVec 4)
  /-- VFMIN (R382): Element-wise floating-point minimum. -/
  | vfmin (d a b : BitVec 4) (k t : BitVec 3) (l : BitVec 4)
  /-- VFMAX (R382): Element-wise floating-point maximum. -/
  | vfmax (d a b : BitVec 4) (k t : BitVec 3) (l : BitVec 4)
  /-- VFDIV (R383): Element-wise floating-point divide. -/
  | vfdiv (d a b : BitVec 4) (k t : BitVec 3) (l : BitVec 4)
  /-- VFSQRT (R383): Element-wise floating-point square root. -/
  | vfsqrt (d a : BitVec 4) (k t : BitVec 3) (l : BitVec 4)
  /-- VFSF_EXP2 (R383): Element-wise fp32 2^x. -/
  | vfsfExp2 (d a : BitVec 4) (k : BitVec 3) (l : BitVec 4)
  /-- VFSF_LOG2 (R383): Element-wise fp32 log2 x. -/
  | vfsfLog2 (d a : BitVec 4) (k : BitVec 3) (l : BitVec 4)
  /-- VCMP (R384): Integer element compare into a predicate. -/
  | vcmp (p : BitVec 3) (a b : BitVec 4) (k t : BitVec 3) (c : BitVec 2) (l : BitVec 4)
  /-- VFCMP (R384): Floating-point element compare into a predicate. -/
  | vfcmp (p : BitVec 3) (a b : BitVec 4) (k t : BitVec 3) (c : BitVec 2) (l : BitVec 4)
  /-- VSEL (R385): Selects each byte from v(a) or v(b) under the predicate. -/
  | vsel (d a b : BitVec 4) (k : BitVec 3) (l : BitVec 4)
  /-- VCVT (R386): Converts elements between formats. -/
  | vcvt (d a f : BitVec 4) (k t : BitVec 3) (c : BitVec 2) (l : BitVec 4)
  /-- VQMX_Q (R388): Quantises fp32 elements into a packed MX register. -/
  | vqmxQ (d a : BitVec 4) (k t : BitVec 3) (l : BitVec 4)
  /-- VQMX_X (R389): Expands a packed MX register into fp32 elements. -/
  | vqmxX (d a : BitVec 4) (k t : BitVec 3) (l : BitVec 4)
  /-- VRED (R390): Reduces the active elements, with a present count. -/
  | vred (d a : BitVec 4) (k t : BitVec 3) (o : BitVec 2) (l : BitVec 4)
  /-- VSCAN (R391): fp32 inclusive prefix sum. -/
  | vscan (d a : BitVec 4) (k : BitVec 3) (l : BitVec 4)
  /-- VPRES (R392): Writes the presence mask of v(a) to a predicate. -/
  | vpres (p : BitVec 3) (a f : BitVec 4) (k : BitVec 3) (l : BitVec 4)
  /-- VFILL (R392): Fills absent elements of v(d) from v(a). -/
  | vfill (d a f : BitVec 4) (k : BitVec 3) (l : BitVec 4)
  /-- VMKA (R392): Copies active elements and makes inactive elements absent. -/
  | vmka (d a f : BitVec 4) (k : BitVec 3) (l : BitVec 4)
  /-- VPERM (R393): Byte permute by an index vector. -/
  | vperm (d a b : BitVec 4) (k : BitVec 3) (l : BitVec 4)
  /-- VSLIDE_DN (R394): Slides 64-bit elements down by one. -/
  | vslideDn (d a b : BitVec 4) (k : BitVec 3) (l : BitVec 4)
  /-- VSLIDE_UP (R394): Slides 64-bit elements up by one. -/
  | vslideUp (d a b : BitVec 4) (k : BitVec 3) (l : BitVec 4)
  /-- VLEN (R374): Returns the vector register width. -/
  | vlen (a l : BitVec 4)
  /-- VBND (R374): Builds a bounds predicate from g(I) and g(N). -/
  | vbnd (p : BitVec 3) (a b : BitVec 4) (t : BitVec 3) (l : BitVec 4)
  /-- VMOV_GV (R374): Broadcasts g(a) into the active 64-bit elements of v(d). -/
  | vmovGv (d a : BitVec 4) (k : BitVec 3) (l : BitVec 4)
  /-- VMOV_VG (R374): Moves one 64-bit element of v(d) to g(a). -/
  | vmovVg (d a b l : BitVec 4)
  /-- PAND (R395): Predicate AND. -/
  | pand (d a b : BitVec 3)
  /-- POR (R395): Predicate OR. -/
  | por (d a b : BitVec 3)
  /-- PXOR (R395): Predicate XOR. -/
  | pxor (d a b : BitVec 3)
  /-- PANDN (R395): Predicate AND NOT. -/
  | pandn (d a b : BitVec 3)
  /-- PNOT (R395): Predicate NOT. -/
  | pnot (d a : BitVec 3)
  /-- PMOV (R395): Predicate move under a governing predicate. -/
  | pmov (d a k : BitVec 3)
  /-- MWLOAD (R401): Loads a weight tile from q1 into the buffer that is not in use. -/
  | mwload (h : CmdHdr) (wfmt : BitVec 4) (sparse : BitVec 2) (k : BitVec 10)
  /-- MSTREAM (R402): Streams activation rows from q2 through the latched weights into accumulator rows. -/
  | mstream (h : CmdHdr) (afmt : BitVec 4) (rows : BitVec 16) (acc : BitVec 9) (ovr : BitVec 1)
  /-- MDRAIN (R403): Drains accumulator rows under a mode to q3 or to memory. -/
  | mdrain (h : CmdHdr) (row0 : BitVec 9) (nrows : BitVec 10) (mode : BitVec 2) (ofmt : BitVec 4) (dq clr : BitVec 1) (daddr : BitVec 64) (dstride : BitVec 32)
  /-- MCLEAR (R404): Clears accumulator rows and resets Kmax. -/
  | mclear (h : CmdHdr) (row0 : BitVec 9) (nrows : BitVec 10)
  /-- CPY (R407): Copies LEN bytes in chunks. -/
  | cpy (h : CmdHdr) (src dst : BitVec 64) (len : BitVec 40)
  /-- CPY2 (R406): Strided two-dimensional copy. -/
  | cpy2 (h : CmdHdr) (src dst : BitVec 64) (rowlen nrows sstr dstr : BitVec 16) (ssh dsh : BitVec 4)
  /-- CPYF (R408): Copy that sets each destination word full. -/
  | cpyf (h : CmdHdr) (src dst : BitVec 64) (len : BitVec 40)
  /-- CPYG (R406): Gather copy through an index list. -/
  | cpyg (h : CmdHdr) (src dst : BitVec 64) (idx : BitVec 25) (esz : BitVec 4) (n : BitVec 32)
  /-- CPYS (R406): Scatter copy through an index list. -/
  | cpys (h : CmdHdr) (src dst : BitVec 64) (idx : BitVec 25) (esz : BitVec 4) (n : BitVec 32)
  /-- CFILL (R406): Fills a destination with an 8-byte pattern. -/
  | cfill (h : CmdHdr) (pat dst : BitVec 64) (len : BitVec 40) (feop : BitVec 2)
  /-- CPYI (R409): Writes up to 16 immediate bytes after every earlier q4 command has completed. -/
  | cpyi (h : CmdHdr) (data : BitVec 128) (dst : BitVec 64) (len : BitVec 5) (feop : BitVec 2)
  /-- CHAIN (R413): Applies up to eight operations to a stream of scratchpad elements. -/
  | chain (h : CmdHdr) (slots : BitVec 96) (itype otype : BitVec 4) (src dst : BitVec 17) (const : BitVec 20) (n : BitVec 24)
  /-- TRED (R416): Reduces elements over the gang's truss tree. -/
  | tred (h : CmdHdr) (op : BitVec 2) (type : BitVec 4) (dq : BitVec 1) (src : BitVec 25) (dst : BitVec 64) (n : BitVec 24)
  /-- TBCAST (R417): Broadcasts the root's bytes to every context. -/
  | tbcast (h : CmdHdr) (src : BitVec 25) (dst : BitVec 64) (len : BitVec 24)
  /-- TGATH (R417): Gathers each context's bytes at the root. -/
  | tgath (h : CmdHdr) (dq : BitVec 1) (src : BitVec 25) (dst : BitVec 64) (len : BitVec 24)
  /-- TSCAT (R417): Scatters slices of the root's bytes to the contexts. -/
  | tscat (h : CmdHdr) (src : BitVec 25) (dst : BitVec 64) (len : BitVec 24)
  /-- BMV (R68): The bank units compute y := W·x or y += W·x. -/
  | bmv (h : CmdHdr) (waddr : BitVec 33) (xaddr yaddr : BitVec 41) (m k : BitVec 15) (wfmt : BitVec 4) (acc yq ycnt : BitVec 1)
  /-- BMVT (R68): The bank units compute y := Wᵀ·x or y += Wᵀ·x. -/
  | bmvt (h : CmdHdr) (waddr : BitVec 33) (xaddr yaddr : BitVec 41) (m k : BitVec 15) (wfmt : BitVec 4) (acc yq ycnt : BitVec 1)
  /-- BREAD (R421): Reads y through the bank units into q9. -/
  | bread (h : CmdHdr) (yaddr : BitVec 41) (n : BitVec 15) (ycnt : BitVec 1)
  /-- BZERO (R421): Writes absent codes and zero counts into y. -/
  | bzero (h : CmdHdr) (yaddr : BitVec 41) (n : BitVec 15) (ycnt : BitVec 1)
  /-- MARK (R423): Completes when every earlier command of its queue has completed, acquiring their writes. -/
  | mark (h : CmdHdr)
  /-- CNOP (R423): Completes on reaching the head of its queue. -/
  | cnop (h : CmdHdr)
  /-- ILLEGAL_OPCODE (R289): A fetched word whose major or selecting fields name no form traps with cause 0x01, and one with a non-zero reserved field traps with cause 0x02. -/
  | illegalOpcode (word : BitVec 32) (reserved : Bool)
  /-- BADCMD (R293): A command whose COP is unassigned or belongs to another queue completes at its queue head with status BADCMD and has no other effect. -/
  | badcmd (h : CmdHdr) (detail : BitVec 8)
  /-- FE_WAIT_REISSUE (R57): A synchronising request refused by a full wait list is reissued after 256 cc (HBM4E) or 64 cc (scratchpad). -/
  | feWaitReissue
  /-- PACKET_ADMIT (R156): A complete packet is admitted whole to its inbox once it fits, and the bound strand becomes ready. -/
  | packetAdmit
  /-- IDLE_DEADLINE (R325): TIME reaches the deadline of a strand waiting in IDLE, which becomes ready. -/
  | idleDeadline
  /-- ASHAPE_WRITE (R164): A waiting write to ASHAPE takes effect once q0 is empty and idle, changing which bands are selected. -/
  | ashapeWrite
  /-- VECTOR_ACCEPT (R169): The vector pipeline takes the next instruction from the acceptance queue, one per ac. -/
  | vectorAccept
  /-- MEMORY_RESPONSE (R54): The response or acknowledgement of an outstanding memory access arrives, and the waiting strand may continue. -/
  | memoryResponse
  /-- LONG_LATENCY_COMPLETE (R151): An outstanding long-latency operation completes and writes its result and flags. -/
  | longLatencyComplete
  /-- ICACHE_FILL (R176): An instruction-cache line fill completes, and the missing strand becomes ready. -/
  | icacheFill
  /-- HOST_WINDOW_TIMEOUT (R103): A host-page access that receives no completion within 50 ms traps with cause 0x2C. -/
  | hostWindowTimeout
  /-- STOP_AT_PREEMPTION (R219): A strand with a stop requested reaches its preemption point and stops. -/
  | stopAtPreemption
  /-- DEFERRED_FLAG_TRAP (R226): Merged command flags that meet FEN trap the issuing strand with cause 0x17 at its next boundary. -/
  | deferredFlagTrap
  /-- BREAKPOINT (R243): A strand about to issue at a set breakpoint halts instead. -/
  | breakpoint
  /-- FEED_UNDERFLOW (R167): A matrix command that has waited 2^14 ac on an empty feed while every live strand is blocked ends with UNDERFLOW. -/
  | feedUnderflow
  /-- ENGINE_COMPLETION_ADMIT (R158): A held engine completion is admitted to the class-7 inbox once it has room. -/
  | engineCompletionAdmit
  /-- POWER_GOOD (R39): Power good starts bring-up: the Laroon boot ROM verifies firmware slot A, then slot B. -/
  | powerGood
  /-- SELF_CALIBRATION (R42): Bring-up step 2 calibrates clocks, links, HBM4E and sensors, setting CALERR on failure. -/
  | selfCalibration
  /-- MEMORY_INITIALISATION (R42): Bring-up step 3 zeroes all memory, with every word full and ECC written. -/
  | memoryInitialisation
  /-- IN_FIELD_TILE_TEST (R28): Bring-up step 4 tests every tile site and builds the defect map. -/
  | inFieldTileTest
  /-- POOL_FORMATION (R29): Bring-up step 5 forms routes, the pool region and the tables, then sets READY. -/
  | poolFormation
  /-- SUPPLY_FAIL (R23): A supply below 42 V for 1 ms stops every strand, sets PWRFAIL and clears READY. -/
  | supplyFail
  /-- COOLANT_FAULT (R24): The coolant leaves its limits: COOLFAULT is set and the cap is treated as at most 14 kW. -/
  | coolantFault
  /-- COOLANT_RECOVER (R24): The coolant returns within its limits and COOLFAULT clears. -/
  | coolantRecover
  /-- PORT0_RESET (R33): A fundamental or hot reset of port 0 reruns the whole bring-up. -/
  | port0Reset
  /-- PORT_HOT_RESET (R33): A hot reset of port 1, 2 or 3 retrains that port only. -/
  | portHotReset
  /-- TENANT_RESET (R97): A function-level reset of virtual function n stops and discards tenant n's jobs and disables its queues. -/
  | tenantReset
  /-- LANE_FAIL (R35): A failed Eoven lane makes its port retrain at 4 lanes, or go down. -/
  | laneFail
  /-- FLIT_RECEIVE (R36): A 256-byte Eoven flit arrives and is checked. -/
  | flitReceive
  /-- PEER_LOST (R38): No flit from a peer for 200 µs marks it lost, which is a module failure for its jobs. -/
  | peerLost
  /-- ARM (R102): A module receives ARM, checks the record, reserves tiles and answers ARM-ACK or ARM-NAK. -/
  | arm
  /-- ARM_ACK (R102): The coordinator receives ARM-ACK and sends GO once every ARM-ACK has arrived. -/
  | armAck
  /-- ARM_NAK (R102): The coordinator receives ARM-NAK, sends CANCEL and completes the record with LAUNCH_PEER. -/
  | armNak
  /-- GO (R102): A module receives GO and starts its gangs of the job. -/
  | go
  /-- CANCEL (R102): A module receives CANCEL and releases its reservation. -/
  | cancel
  /-- ARM_TIMEOUT (R102): Not every ARM-ACK has arrived 50 µs after ARM, so the coordinator cancels the start. -/
  | armTimeout
  /-- THERMAL_EMERGENCY (R53): A tile reaching 105 °C gets RIC 16, raises cause 0x54 and is swapped out. -/
  | thermalEmergency
  /-- THERMAL_RELEASE (R53): A tile in thermal emergency falls below 95 °C and returns to service. -/
  | thermalRelease
  /-- RIC_RAISE (R50): Every 100 µs, power control raises RIC for hot tiles, or for every tile above the cap. -/
  | ricRaise
  /-- RIC_LOWER (R50): Every 1 ms, power control lowers RIC for cool tiles while power is at or below 97 % of the cap. -/
  | ricLower
  /-- BALLAST (R52): Power control injects ballast operations into idle bands when activity falls sharply. -/
  | ballast
  /-- POWER_STATE_ENTRY (R47): An idle part enters the deepest power state allowed by the latency tolerance once its entry delay has passed. -/
  | powerStateEntry
  /-- WAKE_EVENT (R49): A wake event makes the part leave its low-power state. -/
  | wakeEvent
  /-- STATIC_ENERGY_TICK (R247): At each whole µs of TIME, every pool tile charges 9 nJ. -/
  | staticEnergyTick
  /-- PATROL_SCRUB (R76): Patrol scrub reads and corrects every line of every stack over 12 h. -/
  | patrolScrub
  /-- HOT_LIST_SCRUB (R76): Hot-list rows are scrubbed every 11.25 min. -/
  | hotListScrub
  /-- HOT_LIST_EXPIRY (R77): A row whose 24-hour error score falls to 0 leaves the hot list. -/
  | hotListExpiry
  /-- LASTING_TILE_FAULT (R80): A tile becomes lastingly faulty, changes its defect-map code and leaves the pool. -/
  | lastingTileFault
  /-- RECOVERY_COMPLETE (R142): Recovered gangs return to RESIDENT or SWAPPED, and a notice 0x56 is written. -/
  | recoveryComplete
  /-- NOTIFY_WRITE (R87): A NOTIFY write makes the processor fetch record HEAD and accept it when its seal checks. -/
  | notifyWrite
  /-- RECORD_REFETCH (R87): A record with a stale or wrong seal is fetched again every 1 µs. -/
  | recordRefetch
  /-- SEAL_TIMEOUT (R87): After 10 ms of wrong CHK, the processor completes the record with SEALERR and sets STOP. -/
  | sealTimeout
  /-- QUEUE_ENABLE (R85): Setting EN clears the queue counters, or the write is refused. -/
  | queueEnable
  /-- QUEUE_DISABLE (R85): Clearing EN stops fetching and aborts the accepted records that have not started. -/
  | queueDisable
  /-- RANGE_ENTRY_WRITE (R59): A write setting VALID in a range-table entry is checked and accepted or refused with ERR. -/
  | rangeEntryWrite
  /-- RANGE_ENTRY_INVALIDATE (R62): Clearing VALID removes the range; later requests to it trap with cause 0x2A. -/
  | rangeEntryInvalidate
  /-- SCHED_PARAM_WRITE (R130): A write of scheduler parameters is held to take effect at the next turn boundary. -/
  | schedParamWrite
  /-- REGISTER_WRITE (R16): Writes to a register without a row of its own, under the field access codes. -/
  | registerWrite
  /-- FAULT_RECORD_WRITE (R222): A fault record is written into the tenant's fault ring once it has room, then FTAIL rises and VEC is raised. -/
  | faultRecordWrite
  /-- READ_DEFECT_MAP (R40): Mailbox request 0x01 returns the 512-byte defect map. -/
  | readDefectMap
  /-- ATTESTATION (R41): Mailbox request 0x02 returns a report signed with SM2 over the nonce. -/
  | attestation
  /-- SET_POWER_CAP (R40): Mailbox request 0x03 sets the module power cap, clamped to 8 kW to 28 kW. -/
  | setPowerCap
  /-- READ_LINK_STATUS (R40): Mailbox request 0x04 returns the state of the links and ports. -/
  | readLinkStatus
  /-- READ_FIRMWARE_VERSIONS (R40): Mailbox request 0x05 returns the versions of the running images. -/
  | readFirmwareVersions
  /-- WRITE_FIRMWARE_SLOT (R40): Mailbox request 0x06 writes a firmware slot for the next power-up. -/
  | writeFirmwareSlot
  /-- LAUNCH (R99): Host record that checks a launch record and accepts the job. -/
  | launch
  /-- COPY (R93): Host record that moves bytes as the copy engine does. -/
  | copy
  /-- COPY_PUBLISH (R93): Host COPY with PUB set, which publishes a code object. -/
  | copyPublish
  /-- SIGNAL (R94): Host record that stores a value with a release at system scope. -/
  | signal
  /-- WAIT (R94): Host record that polls an address with an acquire until its test holds or it times out. -/
  | wait
  /-- WAIT_POLL (R94): Every 1 µs a running WAIT rereads its address and completes with OK or TIMEOUT. -/
  | waitPoll
  /-- SAVE (R96): Host record that stops all strands and writes a sealed image of the whole device. -/
  | save
  /-- RESTORE (R96): Host record that checks an image and reloads device state from it. -/
  | restore
  /-- SETLAT (R48): Host record that sets the posting function's latency tolerance. -/
  | setlat
  /-- TENANT (R127): Host record that sets a tenant's limits, mask and translation root, taking effect later. -/
  | tenant
  /-- DBG_RETRY (R223): DBG operation that makes a held strand re-execute its instruction. -/
  | dbgRetry
  /-- DBG_END (R223): DBG operation that ends the job with JOBFAULT. -/
  | dbgEnd
  /-- DBG_HALT (R242): DBG operation that stops one strand at its next preemption point. -/
  | dbgHalt
  /-- DBG_RESUME (R240): DBG operation that takes a strand out of HALTED. -/
  | dbgResume
  /-- DBG_STEPI (R243): DBG operation that makes a halted strand issue one instruction and halt again. -/
  | dbgStepi
  /-- DBG_HALTALL (R240): DBG operation that halts every live strand of the job. -/
  | dbgHaltall
  /-- DBG_RESUMEALL (R240): DBG operation that resumes every halted strand of the job. -/
  | dbgResumeall
  /-- DBG_RDREG (R241): DBG operation that reads a register selected by SEL. -/
  | dbgRdreg
  /-- DBG_WRREG (R241): DBG operation that writes a register of a halted or held strand. -/
  | dbgWrreg
  /-- DBG_RDMEM (R240): DBG operation that reads memory as the named strand. -/
  | dbgRdmem
  /-- DBG_WRMEM (R240): DBG operation that writes memory as the named strand. -/
  | dbgWrmem
  /-- DBG_SETBP (R240): DBG operation that sets a breakpoint slot. -/
  | dbgSetbp
  /-- DBG_CLRBP (R240): DBG operation that clears a breakpoint slot. -/
  | dbgClrbp
  /-- DBG_PROFON (R237): DBG operation that starts profiling into a buffer. -/
  | dbgProfon
  /-- DBG_PROFOFF (R240): DBG operation that flushes every context and stops profiling. -/
  | dbgProfoff
  /-- DBG_PROFFLUSH (R240): DBG operation that flushes every context while counting continues. -/
  | dbgProfflush
  /-- DBG_RDENGY (R250): DBG operation that reads a gang's energy counter. -/
  | dbgRdengy
  /-- TURN_BOUNDARY (R131): Every TURNLEN ac: rotation pairing, share and energy updates, and rank-3 victim choice. -/
  | turnBoundary
  /-- MOVE_COMPLETE (R134): The moved context's state has crossed the mesh; its entries are rewritten and its strands resume on the new tile. -/
  | moveComplete
  /-- IDLE_SWAP (R115): A gang fully blocked for IDLESWAP becomes a rank-1 victim when another gang waits. -/
  | idleSwap
  /-- SWAP_OUT (R116): A victim gang enters STOPPING, and its translation entries are written with RES = 0. -/
  | swapOut
  /-- SWAP_OUT_COMPLETE (R116): The gang's image is complete, its tiles are released and it becomes SWAPPED. -/
  | swapOutComplete
  /-- GANG_PLACE (R123): The first waiting gang of a tenant is granted tiles and enters LOADING. -/
  | gangPlace
  /-- GANG_LOADED (R112): The gang's state is placed, its entries are written with RES = 1 and DRAIN set, and it becomes RESIDENT. -/
  | gangLoaded
  /-- PARKED_DELIVERY (R118): Parked packets are delivered from the park queue as inbox space frees, and DRAIN clears when the queue is empty. -/
  | parkedDelivery
  /-- STEP_MARK (R139): A gang's step-mark image is written and sealed into its buddy slot, and its strands continue. -/
  | stepMark
  /-- WATCHDOG (R126): A job with no progress for WDOG ms ends with JOBFAULT and the watchdog cause. -/
  | watchdog
  /-- BADREC (R91): A host record with an unknown TYPE, or a DBG record with an unlisted operation byte, completes with BADREC and has no other effect. -/
  | badrec
  /-- UNKNOWN_REQUEST (R40): A mailbox request with an unlisted code completes with status UNKNOWN and has no effect. -/
  | unknownRequest
  /-- PORT_BACK_UP (R33): A host port that was retraining after a hot reset comes back up, and the queues bound to it resume fetching. -/
  | portBackUp
  /-- LINK_TRAINING (R43): An Eoven link finishes training, including the links of a peer module that powers up after this one. -/
  | linkTraining
  /-- REMOTE_STOP (R145): A module receives, on control channel 3, the stop for a MULTI job's gangs sent by a module running SAVE, stops those gangs and confirms. -/
  | remoteStop
  /-- STOP_CONFIRM (R145): The saving module receives a module's confirmation that the job's gangs there have reached their stop points. -/
  | stopConfirm
  /-- RESTORED_PART_DISCARD (R145): A peer holding a restored part of a MULTI job that receives no ARM within 50 µs of the coordinator's loss discards that part. -/
  | restoredPartDiscard
  /-- MINRES_EXPIRY (R124): A resident gang passes MINRES and becomes a rank-2 victim, which acts at once for a waiting gang of higher PRIO. -/
  | minresExpiry
deriving DecidableEq, Repr

end Sys2Proof
end

