-- ==== Sys2Proof/WellFormed.lean ====
section
/-! DEFINITION. Well-formed instructions: the terms of `Instr` that stand for a word the spec assigns. A strand instruction is
ill-formed where one of its fields holds a value its encoding does not accept (R280–R289, R370); a command where its header does
not fit its queue or a limit of R397–R423 fails. An event of the part has no encoding and is always well formed. -/

namespace Sys2Proof

/-- Order and scope of a Memory-format access (R280, R282, R286): not joint; with acquire or release, a scope below 5 in imm[6:4] and
L zero. -/
def accessWf (o : BitVec 2) (i : BitVec 7) (l : BitVec 4) : Bool :=
  o != 3#2 && (o != 2#2 || (decide (natAt 4 3 i < 5) && l == 0#4))

/-- Order and scope of a Register-format access of major 0x2B (R340). -/
def indexedWf (o : BitVec 2) (l : BitVec 4) : Bool :=
  o != 3#2 && (o != 2#2 || decide (l.toNat < 5))

/-- Header of a command: its opcode, its queue and CT = 0 without a peg (R290, R292). -/
def headerWf (h : CmdHdr) (cop : BitVec 8) : Bool :=
  h.cop == cop && copFits cop.toNat h.queue.toNat && (h.peg || (h.pegIdx == 0#5 && h.pegGen == 0#16))

/-- No limit fails, with the largest extent and a single context: the checks the command's own bits can meet. -/
def limitsWf (c : List (Nat × Bool)) : Bool := (lowestFailed c).isNone

/-- Well-formed instructions. -/
def Instr.wellFormed (i : Instr) : Bool :=
  match i with
  | .cmp _ _ _ c => decide (c.toNat ≤ 9)
  | .fcmp _ _ _ _ c _ => c == 0#3 || c == 1#3 || c == 2#3 || c == 4#3
  | .ld _ _ o _ i l => accessWf o i l
  | .ldu _ _ o w i l => accessWf o i l && w != 3#2
  | .st _ _ o _ i l => accessWf o i l
  | .ldx _ _ _ o _ l => indexedWf o l
  | .ldux _ _ _ o w l => indexedWf o l && w != 3#2
  | .stx _ _ _ o _ l => indexedWf o l
  | .atomar _ _ _ w f s => decide (f.toNat ≤ 12) && (decide (f.toNat < 10) || w == 1#1) && decide (s.toNat < 5)
  | .fence s => decide (s.toNat < 5)
  | .tfence s => decide (s.toNat < 5)
  | .bfence s => decide (s.toNat < 5)
  | .enq _ _ g => g == 0#4 || decide (8 ≤ g.toNat)
  | .vlds _ _ _ _ t _ _ => t == 2#3 || t == 3#3
  | .vldg _ _ _ _ t _ _ => t == 2#3 || t == 3#3
  | .vsts _ _ _ _ t _ _ => t == 2#3 || t == 3#3
  | .vstx _ _ _ _ t _ _ => t == 2#3 || t == 3#3
  | .vadd _ _ _ _ t _ => t == 2#3 || t == 3#3
  | .vsub _ _ _ _ t _ => t == 2#3 || t == 3#3
  | .vmul _ _ _ _ t _ => t == 2#3 || t == 3#3
  | .vmin _ _ _ _ t _ => t == 2#3 || t == 3#3
  | .vmax _ _ _ _ t _ => t == 2#3 || t == 3#3
  | .vfadd _ _ _ _ t _ => t == 0#3 || t == 1#3
  | .vfsub _ _ _ _ t _ => t == 0#3 || t == 1#3
  | .vfmul _ _ _ _ t _ => t == 0#3 || t == 1#3
  | .vfma _ _ _ _ t _ => t == 0#3 || t == 1#3
  | .vfmin _ _ _ _ t _ => t == 0#3 || t == 1#3
  | .vfmax _ _ _ _ t _ => t == 0#3 || t == 1#3
  | .vfdiv _ _ _ _ t _ => t == 0#3 || t == 1#3
  | .vfsqrt _ _ _ t _ => t == 0#3 || t == 1#3
  | .vcmp _ _ _ _ t _ _ => t == 2#3 || t == 3#3
  | .vfcmp _ _ _ _ t _ _ => t == 0#3 || t == 1#3
  | .vcvt _ _ f _ t c _ =>
    f != 7#4 && ((c == 0#2 && decide (t.toNat ≤ 5)) || c == 1#2 || (c == 2#2 && t == 3#3))
  | .vqmxQ _ _ _ t _ => decide (t.toNat ≤ 2)
  | .vqmxX _ _ _ t _ => decide (t.toNat ≤ 2)
  | .vred _ _ _ t o _ =>
    (o == 0#2 && (t == 0#3 || t == 1#3)) || (o == 1#2 && (t == 2#3 || t == 3#3)) || ((o == 2#2 || o == 3#2) && t == 1#3)
  | .vpres _ _ f _ _ => drainFormat f.toNat
  | .vfill _ _ f _ _ => drainFormat f.toNat
  | .vmka _ _ f _ _ => drainFormat f.toNat
  | .vbnd _ _ _ t _ => decide (t.toNat ≤ 3)
  | .mwload h wfmt sparse k => headerWf h 0x01#8 && limitsWf (mwloadLimits wfmt.toNat sparse.toNat k.toNat)
  | .mstream h _ rows _ _ => headerWf h 0x02#8 && limitsWf (mstreamLimits rows.toNat)
  | .mdrain h _ nrows mode ofmt dq _ daddr dstride =>
    headerWf h 0x03#8 && limitsWf (mdrainLimits nrows.toNat mode.toNat ofmt.toNat dq.toNat daddr.toNat dstride.toNat)
  | .mclear h _ nrows => headerWf h 0x04#8 && limitsWf (mclearLimits nrows.toNat)
  | .cpy h _ _ len => headerWf h 0x10#8 && limitsWf (cpyLimits len.toNat)
  | .cpy2 h _ _ rowlen nrows _ _ _ _ => headerWf h 0x11#8 && limitsWf (cpy2Limits rowlen.toNat nrows.toNat)
  | .cpyf h _ dst len => headerWf h 0x12#8 && limitsWf (cpyfLimits dst.toNat len.toNat)
  | .cpyg h _ _ idx esz n => headerWf h 0x13#8 && limitsWf (cpygLimits {} idx.toNat esz.toNat n.toNat)
  | .cpys h _ _ idx esz n => headerWf h 0x14#8 && limitsWf (cpygLimits {} idx.toNat esz.toNat n.toNat)
  | .cfill h _ dst len feop => headerWf h 0x15#8 && limitsWf (cfillLimits dst.toNat len.toNat feop.toNat)
  | .cpyi h _ dst len feop => headerWf h 0x16#8 && limitsWf (cpyiLimits dst.toNat len.toNat feop.toNat)
  | .chain h slots itype otype src dst _ n =>
    headerWf h 0x20#8 && limitsWf (chainLimits {} slots itype.toNat otype.toNat (256 * src.toNat) (256 * dst.toNat) n.toNat)
  | .tred h _ type _ src dst n => headerWf h 0x30#8 && limitsWf (tredLimits {} type.toNat src.toNat dst.toNat n.toNat)
  | .tbcast h src dst len => headerWf h 0x31#8 && limitsWf (tmoveLimits {} src.toNat dst.toNat len.toNat)
  | .tgath h _ src dst len => headerWf h 0x32#8 && limitsWf (tmoveLimits {} src.toNat dst.toNat len.toNat)
  | .tscat h src dst len => headerWf h 0x33#8 && limitsWf (tscatLimits {} src.toNat dst.toNat len.toNat)
  | .bmv h _ _ _ m k wfmt acc yq _ => headerWf h 0x40#8 && limitsWf (bmvLimits m.toNat k.toNat wfmt.toNat acc.toNat yq.toNat)
  | .bmvt h _ _ _ m k wfmt acc yq _ => headerWf h 0x41#8 && limitsWf (bmvLimits m.toNat k.toNat wfmt.toNat acc.toNat yq.toNat)
  | .bread h _ n _ => headerWf h 0x42#8 && limitsWf (breadLimits n.toNat)
  | .bzero h _ n _ => headerWf h 0x43#8 && limitsWf (breadLimits n.toNat)
  | .mark h => headerWf h 0xF0#8
  | .cnop h => headerWf h 0xF1#8
  | _ => true

end Sys2Proof
end

