-- ==== Sys2Proof/Decode.lean ====
section
/-! DEFINITION. The decoder of strand words (32 bits) and of command words (256 bits), total on any bits, and the encoder written
from the same tables (R277–R293, R370, R401–R423). A word that names no form is `illegalOpcode` (cause 0x01); a form with a
reserved field set is `reservedBits` (cause 0x02), in that order (R289). -/

namespace Sys2Proof

/-- What the decoder makes of a word (R289). -/
inductive Decoded where
  | ok (i : Instr)
  | illegalOpcode
  | reservedBits
deriving DecidableEq, Repr

/-- A form whose reserved fields are zero where `clear` holds. -/
def form (clear : Bool) (i : Instr) : Decoded := if clear then .ok i else .reservedBits

/-! ### Fields (R278) -/

def rd (w : BitVec 32) : BitVec 5 := fieldAt 20 5 w
def ra (w : BitVec 32) : BitVec 5 := fieldAt 15 5 w
def rb (w : BitVec 32) : BitVec 5 := fieldAt 10 5 w
def fnOf (w : BitVec 32) : Nat := natAt 4 6 w
def lk (w : BitVec 32) : BitVec 4 := fieldAt 0 4 w
def imm15 (w : BitVec 32) : BitVec 15 := fieldAt 0 15 w
def imm7 (w : BitVec 32) : BitVec 7 := fieldAt 4 7 w
def ordOf (w : BitVec 32) : BitVec 2 := fieldAt 13 2 w
def widthOf (w : BitVec 32) : BitVec 2 := fieldAt 11 2 w
def vd (w : BitVec 32) : BitVec 4 := fieldAt 21 4 w
def va (w : BitVec 32) : BitVec 4 := fieldAt 17 4 w
def vb (w : BitVec 32) : BitVec 4 := fieldAt 13 4 w
def vk (w : BitVec 32) : BitVec 3 := fieldAt 10 3 w
def vt (w : BitVec 32) : BitVec 3 := fieldAt 7 3 w

/-- d, a, b or L is zero, where a form leaves it reserved. -/
def dz (w : BitVec 32) : Bool := natAt 20 5 w == 0
def az (w : BitVec 32) : Bool := natAt 15 5 w == 0
def bz (w : BitVec 32) : Bool := natAt 10 5 w == 0
def lz (w : BitVec 32) : Bool := natAt 0 4 w == 0

/-- A form of the Vector format, where its type field t is among those it accepts (R370). -/
def oneOf (w : BitVec 32) (ts : List Nat) (r : Decoded) : Decoded := if ts.contains (natAt 7 3 w) then r else .illegalOpcode

/-! ### Majors -/

/-- Major 0x02, INT (R288, R305): L is reserved, and b in the unary forms. -/
def decodeInt (w : BitVec 32) : Decoded :=
  match fnOf w with
  | 0 => form (lz w) (.add (rd w) (ra w) (rb w))
  | 1 => form (lz w) (.sub (rd w) (ra w) (rb w))
  | 2 => form (lz w) (.and (rd w) (ra w) (rb w))
  | 3 => form (lz w) (.or (rd w) (ra w) (rb w))
  | 4 => form (lz w) (.xor (rd w) (ra w) (rb w))
  | 5 => form (lz w) (.andn (rd w) (ra w) (rb w))
  | 6 => form (lz w) (.orn (rd w) (ra w) (rb w))
  | 7 => form (lz w) (.sll (rd w) (ra w) (rb w))
  | 8 => form (lz w) (.srl (rd w) (ra w) (rb w))
  | 9 => form (lz w) (.sra (rd w) (ra w) (rb w))
  | 10 => form (lz w) (.ror (rd w) (ra w) (rb w))
  | 11 => form (lz w) (.min (rd w) (ra w) (rb w))
  | 12 => form (lz w) (.max (rd w) (ra w) (rb w))
  | 13 => form (lz w) (.minu (rd w) (ra w) (rb w))
  | 14 => form (lz w) (.maxu (rd w) (ra w) (rb w))
  | 15 => form (lz w) (.sel (rd w) (ra w) (rb w))
  | 16 => form (bz w && lz w) (.clz (rd w) (ra w))
  | 17 => form (bz w && lz w) (.ctz (rd w) (ra w))
  | 18 => form (bz w && lz w) (.popc (rd w) (ra w))
  | 20 => form (bz w && lz w) (.sextI8 (rd w) (ra w))
  | 21 => form (bz w && lz w) (.sextI16 (rd w) (ra w))
  | 22 => form (bz w && lz w) (.sextI32 (rd w) (ra w))
  | 24 => form (bz w && lz w) (.zextN8 (rd w) (ra w))
  | 25 => form (bz w && lz w) (.zextN16 (rd w) (ra w))
  | 26 => form (bz w && lz w) (.zextN32 (rd w) (ra w))
  | _ => .illegalOpcode

/-- Major 0x03, MULDIV (R288, R306): L is lookahead. -/
def decodeMuldiv (w : BitVec 32) : Decoded :=
  match fnOf w with
  | 0 => .ok (.mul (rd w) (ra w) (rb w) (lk w))
  | 1 => .ok (.mulh (rd w) (ra w) (rb w) (lk w))
  | 2 => .ok (.mulhu (rd w) (ra w) (rb w) (lk w))
  | 3 => .ok (.div (rd w) (ra w) (rb w) (lk w))
  | 4 => .ok (.divu (rd w) (ra w) (rb w) (lk w))
  | 5 => .ok (.rem (rd w) (ra w) (rb w) (lk w))
  | 6 => .ok (.remu (rd w) (ra w) (rb w) (lk w))
  | _ => .illegalOpcode

/-- Major 0x04, CMP.cc (R283, R307): conditions 0 to 9; fn[5:4] and L are reserved. -/
def decodeCmp (w : BitVec 32) : Decoded :=
  if natAt 4 4 w ≤ 9 then form (natAt 8 2 w == 0 && lz w) (.cmp (rd w) (ra w) (rb w) (fieldAt 4 4 w)) else .illegalOpcode

/-- Major 0x05, FP (R288, R310): fn[4:0] operation, fn[5] type, L lookahead; b is reserved in the unary forms. -/
def decodeFp (w : BitVec 32) : Decoded :=
  match natAt 4 5 w with
  | 0 => .ok (.fadd (rd w) (ra w) (rb w) (fieldAt 9 1 w) (lk w))
  | 1 => .ok (.fsub (rd w) (ra w) (rb w) (fieldAt 9 1 w) (lk w))
  | 2 => .ok (.fmul (rd w) (ra w) (rb w) (fieldAt 9 1 w) (lk w))
  | 3 => .ok (.fdiv (rd w) (ra w) (rb w) (fieldAt 9 1 w) (lk w))
  | 4 => form (bz w) (.fsqrt (rd w) (ra w) (fieldAt 9 1 w) (lk w))
  | 5 => .ok (.fma (rd w) (ra w) (rb w) (fieldAt 9 1 w) (lk w))
  | 6 => .ok (.fmin (rd w) (ra w) (rb w) (fieldAt 9 1 w) (lk w))
  | 7 => .ok (.fmax (rd w) (ra w) (rb w) (fieldAt 9 1 w) (lk w))
  | 8 => form (bz w) (.fcvt (rd w) (ra w) (fieldAt 9 1 w) (lk w))
  | 9 => form (bz w) (.fcvti (rd w) (ra w) (fieldAt 9 1 w) (lk w))
  | 10 => form (bz w) (.fcvtf (rd w) (ra w) (fieldAt 9 1 w) (lk w))
  | 16 => .ok (.fcmp (rd w) (ra w) (rb w) (fieldAt 9 1 w) 0#3 (lk w))
  | 17 => .ok (.fcmp (rd w) (ra w) (rb w) (fieldAt 9 1 w) 1#3 (lk w))
  | 18 => .ok (.fcmp (rd w) (ra w) (rb w) (fieldAt 9 1 w) 2#3 (lk w))
  | 20 => .ok (.fcmp (rd w) (ra w) (rb w) (fieldAt 9 1 w) 4#3 (lk w))
  | _ => .illegalOpcode

/-- Major 0x22, CTRL (R312): every field a form does not name is reserved. -/
def decodeCtrl (w : BitVec 32) : Decoded :=
  match fnOf w with
  | 0 => form (dz w && bz w && lz w) (.callr (ra w))
  | 1 => form (dz w && az w && bz w && lz w) (.ret)
  | 2 => form (dz w && bz w && lz w) (.jr (ra w))
  | 3 => form (dz w && lz w) (.jtab (ra w) (rb w))
  | 4 => form (dz w && az w && natAt 12 3 w == 0 && lz w) (.lclr (fieldAt 10 2 w))
  | 5 => form (dz w && az w && natAt 12 3 w == 0 && lz w) (.lset (fieldAt 10 2 w))
  | _ => .illegalOpcode

/-- A Memory-format access of majors 0x28 to 0x2A (R280, R338, R339): ord 3 is the joint form, where the major has one and the width
is 8 bytes; ord 2 holds a scope below 5 in imm[6:4], and L is then reserved. -/
def decodeAccess (w : BitVec 32) (joint : Option Instr) (i : Instr) : Decoded :=
  match natAt 13 2 w with
  | 3 =>
    match joint with
    | some j => if natAt 11 2 w = 3 then form (lz w) j else .illegalOpcode
    | none => .illegalOpcode
  | 2 => if natAt 8 3 w < 5 then form (lz w) i else .illegalOpcode
  | _ => .ok i

/-- Major 0x29, LDU (R338, R339): no 8-byte width. -/
def decodeLdu (w : BitVec 32) : Decoded :=
  if natAt 11 2 w = 3 then .illegalOpcode
  else decodeAccess w none (.ldu (rd w) (ra w) (ordOf w) (widthOf w) (imm7 w) (lk w))

/-- A Register-format access of major 0x2B (R340): order in fn[3:2]; with acquire or release, L[2:0] is a scope and L[3] is reserved. -/
def decodeIndexed (w : BitVec 32) (i : Instr) : Decoded :=
  match natAt 6 2 w with
  | 3 => .illegalOpcode
  | 2 => if natAt 0 3 w < 5 then form (natAt 3 1 w == 0) i else .illegalOpcode
  | _ => .ok i

/-- Major 0x2B, MEMX (R288, R340). -/
def decodeMemx (w : BitVec 32) : Decoded :=
  match natAt 8 2 w with
  | 0 => decodeIndexed w (.ldx (rd w) (ra w) (rb w) (fieldAt 6 2 w) (fieldAt 4 2 w) (lk w))
  | 1 =>
    if natAt 4 2 w = 3 then .illegalOpcode
    else decodeIndexed w (.ldux (rd w) (ra w) (rb w) (fieldAt 6 2 w) (fieldAt 4 2 w) (lk w))
  | 2 => decodeIndexed w (.stx (rd w) (ra w) (rb w) (fieldAt 6 2 w) (fieldAt 4 2 w) (lk w))
  | _ =>
    match natAt 4 4 w with
    | 0 => form (lz w) (.ldex (rd w) (ra w) (rb w))
    | 1 => form (lz w) (.stfx (rd w) (ra w) (rb w))
    | _ => .illegalOpcode

/-- Major 0x2C, FE (R288, R342): ord and w together are the function; L is reserved, and d in FESET and FECLR. -/
def decodeFe (w : BitVec 32) : Decoded :=
  match natAt 11 4 w with
  | 0 => form (lz w) (.lde (rd w) (ra w) (imm7 w))
  | 1 => form (lz w) (.ldf (rd w) (ra w) (imm7 w))
  | 2 => form (lz w) (.stf (rd w) (ra w) (imm7 w))
  | 3 => form (lz w) (.sts (rd w) (ra w) (imm7 w))
  | 4 => form (lz w) (.feq (rd w) (ra w) (imm7 w))
  | 5 => form (dz w && lz w) (.feset (ra w) (imm7 w))
  | 6 => form (dz w && lz w) (.feclr (ra w) (imm7 w))
  | _ => .illegalOpcode

/-- Major 0x2E, ATOM (R288, R343): fn[3:0] function, fn[4] width, fn[5] relaxed; the WAIT forms are 8 bytes wide. -/
def decodeAtom (w : BitVec 32) : Decoded :=
  match natAt 4 4 w with
  | 0 => .ok (.amoSwap (rd w) (ra w) (rb w) (fieldAt 9 1 w) (fieldAt 8 1 w) (lk w))
  | 1 => .ok (.amoAdd (rd w) (ra w) (rb w) (fieldAt 9 1 w) (fieldAt 8 1 w) (lk w))
  | 2 => .ok (.amoAnd (rd w) (ra w) (rb w) (fieldAt 9 1 w) (fieldAt 8 1 w) (lk w))
  | 3 => .ok (.amoOr (rd w) (ra w) (rb w) (fieldAt 9 1 w) (fieldAt 8 1 w) (lk w))
  | 4 => .ok (.amoXor (rd w) (ra w) (rb w) (fieldAt 9 1 w) (fieldAt 8 1 w) (lk w))
  | 5 => .ok (.amoMin (rd w) (ra w) (rb w) (fieldAt 9 1 w) (fieldAt 8 1 w) (lk w))
  | 6 => .ok (.amoMax (rd w) (ra w) (rb w) (fieldAt 9 1 w) (fieldAt 8 1 w) (lk w))
  | 7 => .ok (.amoMinu (rd w) (ra w) (rb w) (fieldAt 9 1 w) (fieldAt 8 1 w) (lk w))
  | 8 => .ok (.amoMaxu (rd w) (ra w) (rb w) (fieldAt 9 1 w) (fieldAt 8 1 w) (lk w))
  | 9 => .ok (.cas (rd w) (ra w) (rb w) (fieldAt 9 1 w) (fieldAt 8 1 w) (lk w))
  | 10 => if natAt 8 1 w = 1 then .ok (.waiteq (rd w) (ra w) (rb w) (fieldAt 9 1 w) (lk w)) else .illegalOpcode
  | 11 => if natAt 8 1 w = 1 then .ok (.waitge (rd w) (ra w) (rb w) (fieldAt 9 1 w) (lk w)) else .illegalOpcode
  | 12 => if natAt 8 1 w = 1 then .ok (.waitne (rd w) (ra w) (rb w) (fieldAt 9 1 w) (lk w)) else .illegalOpcode
  | _ => .illegalOpcode

/-- Major 0x2F, ATOMAR (R288, R343): functions 0 to 12, scopes 0 to 4; fn[5] and L[3] are reserved. -/
def decodeAtomar (w : BitVec 32) : Decoded :=
  if 12 < natAt 4 4 w ∨ (10 ≤ natAt 4 4 w ∧ natAt 8 1 w = 0) ∨ 4 < natAt 0 3 w then .illegalOpcode
  else form (natAt 9 1 w == 0 && natAt 3 1 w == 0) (.atomar (rd w) (ra w) (rb w) (fieldAt 8 1 w) (fieldAt 4 4 w) (fieldAt 0 3 w))

/-- Major 0x30, FENCES (R346): scopes 0 to 4; d, a, b and L are reserved. -/
def decodeFences (w : BitVec 32) : Decoded :=
  if 4 < natAt 7 3 w then .illegalOpcode
  else match natAt 4 3 w with
  | 0 => form (dz w && az w && bz w && lz w) (.fence (fieldAt 7 3 w))
  | 1 => form (dz w && az w && bz w && lz w) (.tfence (fieldAt 7 3 w))
  | 2 => form (dz w && az w && bz w && lz w) (.bfence (fieldAt 7 3 w))
  | _ => .illegalOpcode

/-- Major 0x31, JOINT (R347). -/
def decodeJoint (w : BitVec 32) : Decoded :=
  match fnOf w with
  | 0 => form (dz w && az w && bz w && lz w) (.jopen)
  | 1 => form (az w && bz w && lz w) (.jclose (rd w))
  | 2 => form (dz w && az w && bz w && lz w) (.jabort)
  | _ => .illegalOpcode

/-- Major 0x32, MSG (R349). -/
def decodeMsg (w : BitVec 32) : Decoded :=
  match fnOf w with
  | 0 => form (dz w && bz w && lz w) (.msgh (ra w))
  | 1 => form (dz w && bz w && lz w) (.msgw (ra w))
  | 2 => form (dz w && az w && bz w && lz w) (.msge)
  | 3 => form (az w && natAt 13 2 w == 0 && lz w) (.recv (rd w) (fieldAt 10 3 w))
  | 4 => form (az w && natAt 13 2 w == 0 && lz w) (.recvh (rd w) (fieldAt 10 3 w))
  | 5 => form (az w && natAt 13 2 w == 0 && lz w) (.mprobe (rd w) (fieldAt 10 3 w))
  | _ => .illegalOpcode

/-- Majors 0x33 to 0x35, ENQ, DEQ and QSTAT (R278, R285, R356): the zero field and L are reserved, as are guard values 1 to 7 and
every guard but ENQ's. -/
def decodeEnq (w : BitVec 32) : Decoded :=
  form (natAt 0 12 w == 0 && (natAt 12 4 w == 0 || bitAt 15 w)) (.enq (fieldAt 21 4 w) (fieldAt 16 5 w) (fieldAt 12 4 w))

def decodeDeq (w : BitVec 32) : Decoded :=
  form (natAt 0 16 w == 0) (.deq (fieldAt 21 4 w) (fieldAt 16 5 w))

def decodeQstat (w : BitVec 32) : Decoded :=
  form (natAt 0 16 w == 0) (.qstat (fieldAt 21 4 w) (fieldAt 16 5 w))

/-- Major 0x36, QCTL (R360). -/
def decodeQctl (w : BitVec 32) : Decoded :=
  match fnOf w with
  | 0 => form (dz w && az w && bz w && lz w) (.lease)
  | 1 => form (az w && natAt 11 4 w == 0 && lz w) (.leasef (rd w) (fieldAt 10 1 w))
  | 2 => form (dz w && natAt 13 2 w == 0 && lz w) (.gset (ra w) (fieldAt 10 3 w))
  | 3 => form (dz w && az w && natAt 13 2 w == 0 && lz w) (.gclr (fieldAt 10 3 w))
  | _ => .illegalOpcode

/-- Major 0x37, PEG (R361). -/
def decodePeg (w : BitVec 32) : Decoded :=
  match fnOf w with
  | 0 => form (bz w && lz w) (.pega (rd w) (ra w))
  | 1 => form (bz w && lz w) (.pegv (rd w) (ra w))
  | 2 => form (bz w && lz w) (.pegw (rd w) (ra w))
  | 3 => form (dz w && bz w && lz w) (.pegf (ra w))
  | 4 => form (bz w && lz w) (.pegq (rd w) (ra w))
  | _ => .illegalOpcode

/-- Major 0x38, SYS (R288, R320). -/
def decodeSys (w : BitVec 32) : Decoded :=
  match fnOf w with
  | 0 => form (dz w && natAt 13 2 w == 0 && lz w) (.trap (ra w) (fieldAt 10 3 w))
  | 1 => form (dz w && az w && bz w && lz w) (.eret)
  | 2 => form (dz w && az w && bz w && lz w) (.exit)
  | 3 => form (dz w && lz w) (.spawn (ra w) (rb w))
  | 4 => form (bz w && lz w) (.idle (rd w) (ra w))
  | 5 => form (bz w && lz w) (.qcap (rd w) (ra w))
  | 6 => form (lz w) (.ilock (rd w) (ra w) (rb w))
  | 7 => form (dz w && lz w) (.iunlock (ra w) (rb w))
  | 8 => form (lz w) (.publish (rd w) (ra w) (rb w))
  | 9 => form (bz w && lz w) (.lnch (rd w) (ra w))
  | 10 => form (dz w && az w && bz w && lz w) (.step)
  | 11 => form (dz w && lz w) (.brk (ra w) (rb w))
  | 12 => form (dz w && lz w) (.tblw (ra w) (rb w))
  | 13 => form (dz w && az w && bz w && lz w) (.halt)
  | 14 => form (bz w && lz w) (.mgmt (rd w) (ra w))
  | _ => .illegalOpcode

/-- Major 0x39, CREG (R288, R334): imm[14] is reserved, and a, d or a[0] as the form has it. -/
def decodeCreg (w : BitVec 32) : Decoded :=
  match natAt 12 2 w with
  | 0 => form (az w && natAt 14 1 w == 0) (.crd (rd w) (fieldAt 0 12 w))
  | 1 => form (dz w && natAt 14 1 w == 0) (.cwr (ra w) (fieldAt 0 12 w))
  | 2 => form (natAt 14 1 w == 0 && natAt 15 1 w == 0) (.cins (rd w) (fieldAt 16 4 w) (fieldAt 0 12 w))
  | 3 => form (az w && natAt 14 1 w == 0) (.crdc (rd w) (fieldAt 0 12 w))
  | _ => .illegalOpcode

/-- Major 0x40 (R370): fn[1:0] form, fn[2] order; t is reserved in the contiguous form, 2 or 3 in the others. -/
def decodeVload (w : BitVec 32) : Decoded :=
  match natAt 4 2 w with
  | 0 => form (natAt 7 3 w == 0) (.vld (vd w) (va w) (vb w) (vk w) (fieldAt 6 1 w) (lk w))
  | 1 => oneOf w [2, 3] (.ok (.vlds (vd w) (va w) (vb w) (vk w) (vt w) (fieldAt 6 1 w) (lk w)))
  | 2 => oneOf w [2, 3] (.ok (.vldg (vd w) (va w) (vb w) (vk w) (vt w) (fieldAt 6 1 w) (lk w)))
  | _ => .illegalOpcode

/-- Major 0x41 (R370): fn[1:0] form, fn[2] order; t is reserved in the contiguous form, 2 or 3 in the others. -/
def decodeVstore (w : BitVec 32) : Decoded :=
  match natAt 4 2 w with
  | 0 => form (natAt 7 3 w == 0) (.vst (vd w) (va w) (vb w) (vk w) (fieldAt 6 1 w) (lk w))
  | 1 => oneOf w [2, 3] (.ok (.vsts (vd w) (va w) (vb w) (vk w) (vt w) (fieldAt 6 1 w) (lk w)))
  | 2 => oneOf w [2, 3] (.ok (.vstx (vd w) (va w) (vb w) (vk w) (vt w) (fieldAt 6 1 w) (lk w)))
  | _ => .illegalOpcode

/-- Major 0x42 (R370, R380): t 2 or 3. -/
def decodeVint (w : BitVec 32) : Decoded :=
  match natAt 4 3 w with
  | 0 => oneOf w [2, 3] (.ok (.vadd (vd w) (va w) (vb w) (vk w) (vt w) (lk w)))
  | 1 => oneOf w [2, 3] (.ok (.vsub (vd w) (va w) (vb w) (vk w) (vt w) (lk w)))
  | 2 => oneOf w [2, 3] (.ok (.vmul (vd w) (va w) (vb w) (vk w) (vt w) (lk w)))
  | 3 => oneOf w [2, 3] (.ok (.vmin (vd w) (va w) (vb w) (vk w) (vt w) (lk w)))
  | 4 => oneOf w [2, 3] (.ok (.vmax (vd w) (va w) (vb w) (vk w) (vt w) (lk w)))
  | _ => .illegalOpcode

/-- Major 0x43 (R370, R381): t is reserved in VLOG and 7 in VSHF. -/
def decodeVlog (w : BitVec 32) : Decoded :=
  match natAt 4 3 w with
  | 0 => form (natAt 7 3 w == 0) (.vlogAnd (vd w) (va w) (vb w) (vk w) (lk w))
  | 1 => form (natAt 7 3 w == 0) (.vlogOr (vd w) (va w) (vb w) (vk w) (lk w))
  | 2 => form (natAt 7 3 w == 0) (.vlogXor (vd w) (va w) (vb w) (vk w) (lk w))
  | 4 => oneOf w [7] (.ok (.vshfSll (vd w) (va w) (vb w) (vk w) (lk w)))
  | 5 => oneOf w [7] (.ok (.vshfSrl (vd w) (va w) (vb w) (vk w) (lk w)))
  | 6 => oneOf w [7] (.ok (.vshfSra (vd w) (va w) (vb w) (vk w) (lk w)))
  | _ => .illegalOpcode

/-- Major 0x44 (R370, R382): t 0 or 1. -/
def decodeVfp (w : BitVec 32) : Decoded :=
  match natAt 4 3 w with
  | 0 => oneOf w [0, 1] (.ok (.vfadd (vd w) (va w) (vb w) (vk w) (vt w) (lk w)))
  | 1 => oneOf w [0, 1] (.ok (.vfsub (vd w) (va w) (vb w) (vk w) (vt w) (lk w)))
  | 2 => oneOf w [0, 1] (.ok (.vfmul (vd w) (va w) (vb w) (vk w) (vt w) (lk w)))
  | 3 => oneOf w [0, 1] (.ok (.vfma (vd w) (va w) (vb w) (vk w) (vt w) (lk w)))
  | 4 => oneOf w [0, 1] (.ok (.vfmin (vd w) (va w) (vb w) (vk w) (vt w) (lk w)))
  | 5 => oneOf w [0, 1] (.ok (.vfmax (vd w) (va w) (vb w) (vk w) (vt w) (lk w)))
  | _ => .illegalOpcode

/-- Major 0x45 (R370, R383): vb is reserved but in VFDIV. -/
def decodeVdiv (w : BitVec 32) : Decoded :=
  match natAt 4 3 w with
  | 0 => oneOf w [0, 1] (.ok (.vfdiv (vd w) (va w) (vb w) (vk w) (vt w) (lk w)))
  | 1 => oneOf w [0, 1] (form (natAt 13 4 w == 0) (.vfsqrt (vd w) (va w) (vk w) (vt w) (lk w)))
  | 2 => oneOf w [1] (form (natAt 13 4 w == 0) (.vfsfExp2 (vd w) (va w) (vk w) (lk w)))
  | 3 => oneOf w [1] (form (natAt 13 4 w == 0) (.vfsfLog2 (vd w) (va w) (vk w) (lk w)))
  | _ => .illegalOpcode

/-- Major 0x46 (R370, R384): fn[2] selects VCMP or VFCMP, fn[1:0] the condition; vd[3] is reserved. -/
def decodeVcmp (w : BitVec 32) : Decoded :=
  match natAt 6 1 w with
  | 0 => oneOf w [2, 3] (form (natAt 24 1 w == 0) (.vcmp (fieldAt 21 3 w) (va w) (vb w) (vk w) (vt w) (fieldAt 4 2 w) (lk w)))
  | _ => oneOf w [0, 1] (form (natAt 24 1 w == 0) (.vfcmp (fieldAt 21 3 w) (va w) (vb w) (vk w) (vt w) (fieldAt 4 2 w) (lk w)))

/-- Major 0x47 (R370, R385). -/
def decodeVsel (w : BitVec 32) : Decoded :=
  match natAt 4 3 w with
  | 0 => form (natAt 7 3 w == 0) (.vsel (vd w) (va w) (vb w) (vk w) (lk w))
  | _ => .illegalOpcode

/-- Major 0x48, VCVT (R370, R371, R386): the target class in fn[1:0] accepts its own types; the source code 7 names no format; fn[2]
is reserved. -/
def decodeVcvt (w : BitVec 32) : Decoded :=
  if natAt 13 4 w = 7 then .illegalOpcode
  else match natAt 4 2 w with
  | 0 => oneOf w [0, 1, 2, 3, 4, 5] (form (natAt 6 1 w == 0) (.vcvt (vd w) (va w) (vb w) (vk w) (vt w) (fieldAt 4 2 w) (lk w)))
  | 1 => form (natAt 6 1 w == 0) (.vcvt (vd w) (va w) (vb w) (vk w) (vt w) (fieldAt 4 2 w) (lk w))
  | 2 => oneOf w [3] (form (natAt 6 1 w == 0) (.vcvt (vd w) (va w) (vb w) (vk w) (vt w) (fieldAt 4 2 w) (lk w)))
  | _ => .illegalOpcode

/-- Major 0x49, VQMX (R370): t 0 to 2; vb is reserved. -/
def decodeVqmx (w : BitVec 32) : Decoded :=
  match natAt 4 3 w with
  | 0 => oneOf w [0, 1, 2] (form (natAt 13 4 w == 0) (.vqmxQ (vd w) (va w) (vk w) (vt w) (lk w)))
  | 1 => oneOf w [0, 1, 2] (form (natAt 13 4 w == 0) (.vqmxX (vd w) (va w) (vk w) (vt w) (lk w)))
  | _ => .illegalOpcode

/-- Major 0x4A, VRED (R284, R370): each operation accepts its own types; vb is reserved. -/
def decodeVred (w : BitVec 32) : Decoded :=
  match natAt 4 3 w with
  | 0 => oneOf w [0, 1] (form (natAt 13 4 w == 0) (.vred (vd w) (va w) (vk w) (vt w) (fieldAt 4 2 w) (lk w)))
  | 1 => oneOf w [2, 3] (form (natAt 13 4 w == 0) (.vred (vd w) (va w) (vk w) (vt w) (fieldAt 4 2 w) (lk w)))
  | 2 => oneOf w [1] (form (natAt 13 4 w == 0) (.vred (vd w) (va w) (vk w) (vt w) (fieldAt 4 2 w) (lk w)))
  | 3 => oneOf w [1] (form (natAt 13 4 w == 0) (.vred (vd w) (va w) (vk w) (vt w) (fieldAt 4 2 w) (lk w)))
  | _ => .illegalOpcode

/-- Major 0x4B, VSCAN.add (R370): fp32; vb is reserved. -/
def decodeVscan (w : BitVec 32) : Decoded :=
  match natAt 4 3 w with
  | 0 => oneOf w [1] (form (natAt 13 4 w == 0) (.vscan (vd w) (va w) (vk w) (lk w)))
  | _ => .illegalOpcode

/-- Major 0x4C, VPRES, VFILL and VMKA (R370, R371): format codes 0–5 and 8–11; t is reserved, and vd[3] in VPRES. -/
def decodeVpres (w : BitVec 32) : Decoded :=
  if natAt 13 4 w ≤ 5 ∨ (8 ≤ natAt 13 4 w ∧ natAt 13 4 w ≤ 11) then
    match natAt 4 3 w with
    | 0 => form (natAt 7 3 w == 0 && natAt 24 1 w == 0) (.vpres (fieldAt 21 3 w) (va w) (vb w) (vk w) (lk w))
    | 1 => form (natAt 7 3 w == 0) (.vfill (vd w) (va w) (vb w) (vk w) (lk w))
    | 2 => form (natAt 7 3 w == 0) (.vmka (vd w) (va w) (vb w) (vk w) (lk w))
    | _ => .illegalOpcode
  else .illegalOpcode

/-- Major 0x4D, VPERM and VSLIDE (R370, R393, R394). -/
def decodeVperm (w : BitVec 32) : Decoded :=
  match natAt 4 3 w with
  | 0 => form (natAt 7 3 w == 0) (.vperm (vd w) (va w) (vb w) (vk w) (lk w))
  | 1 => form (natAt 7 3 w == 0) (.vslideDn (vd w) (va w) (vb w) (vk w) (lk w))
  | 2 => form (natAt 7 3 w == 0) (.vslideUp (vd w) (va w) (vb w) (vk w) (lk w))
  | _ => .illegalOpcode

/-- Major 0x4E, VLEN, VBND and VMOV (R370, R374). -/
def decodeVmov (w : BitVec 32) : Decoded :=
  match natAt 4 3 w with
  | 0 => form (natAt 21 4 w == 0 && natAt 7 10 w == 0) (.vlen (va w) (lk w))
  | 1 => oneOf w [0, 1, 2, 3] (form (natAt 24 1 w == 0 && natAt 10 3 w == 0) (.vbnd (fieldAt 21 3 w) (va w) (vb w) (vt w) (lk w)))
  | 2 => form (natAt 13 4 w == 0 && natAt 7 3 w == 0) (.vmovGv (vd w) (va w) (vk w) (lk w))
  | 3 => form (natAt 7 6 w == 0) (.vmovVg (vd w) (va w) (vb w) (lk w))
  | _ => .illegalOpcode

/-- Major 0x50, PRED (R370, R395): bit 3 of each register field, t and L are reserved, and k but in PMOV. -/
def decodePred (w : BitVec 32) : Decoded :=
  match natAt 4 3 w with
  | 0 => form (natAt 24 1 w == 0 && natAt 20 1 w == 0 && natAt 16 1 w == 0 && natAt 10 3 w == 0 && natAt 7 3 w == 0 && lz w) (.pand (fieldAt 21 3 w) (fieldAt 17 3 w) (fieldAt 13 3 w))
  | 1 => form (natAt 24 1 w == 0 && natAt 20 1 w == 0 && natAt 16 1 w == 0 && natAt 10 3 w == 0 && natAt 7 3 w == 0 && lz w) (.por (fieldAt 21 3 w) (fieldAt 17 3 w) (fieldAt 13 3 w))
  | 2 => form (natAt 24 1 w == 0 && natAt 20 1 w == 0 && natAt 16 1 w == 0 && natAt 10 3 w == 0 && natAt 7 3 w == 0 && lz w) (.pxor (fieldAt 21 3 w) (fieldAt 17 3 w) (fieldAt 13 3 w))
  | 3 => form (natAt 24 1 w == 0 && natAt 20 1 w == 0 && natAt 16 1 w == 0 && natAt 10 3 w == 0 && natAt 7 3 w == 0 && lz w) (.pandn (fieldAt 21 3 w) (fieldAt 17 3 w) (fieldAt 13 3 w))
  | 4 => form (natAt 24 1 w == 0 && natAt 20 1 w == 0 && natAt 7 10 w == 0 && lz w) (.pnot (fieldAt 21 3 w) (fieldAt 17 3 w))
  | 5 => form (natAt 24 1 w == 0 && natAt 20 1 w == 0 && natAt 13 4 w == 0 && natAt 7 3 w == 0 && lz w) (.pmov (fieldAt 21 3 w) (fieldAt 17 3 w) (vk w))
  | _ => .illegalOpcode

/-- The decoder of strand words (R277–R289): the major opcode selects the format and the family; an unassigned major or selecting
field is cause 0x01, a non-zero reserved field of a form cause 0x02. -/
def decodeWord (w : BitVec 32) : Decoded :=
  match natAt 25 7 w with
  | 0x01 => form (natAt 0 25 w == 0) .nop
  | 0x02 => decodeInt w
  | 0x03 => decodeMuldiv w
  | 0x04 => decodeCmp w
  | 0x05 => decodeFp w
  | 0x08 => .ok (.addi (rd w) (ra w) (imm15 w))
  | 0x09 => .ok (.andi (rd w) (ra w) (imm15 w))
  | 0x0A => .ok (.ori (rd w) (ra w) (imm15 w))
  | 0x0B => .ok (.xori (rd w) (ra w) (imm15 w))
  | 0x0C => form (natAt 6 9 w == 0) (.slli (rd w) (ra w) (fieldAt 0 6 w))
  | 0x0D => form (natAt 6 9 w == 0) (.srli (rd w) (ra w) (fieldAt 0 6 w))
  | 0x0E => form (natAt 6 9 w == 0) (.srai (rd w) (ra w) (fieldAt 0 6 w))
  | 0x0F => form (az w) (.li (rd w) (imm15 w))
  | 0x10 => .ok (.lih (rd w) (ra w) (imm15 w))
  | 0x11 => form (az w) (.lapc (rd w) (imm15 w))
  | 0x18 => .ok (.beq (rd w) (ra w) (imm15 w))
  | 0x19 => .ok (.bne (rd w) (ra w) (imm15 w))
  | 0x1A => .ok (.blt (rd w) (ra w) (imm15 w))
  | 0x1B => .ok (.bge (rd w) (ra w) (imm15 w))
  | 0x1C => .ok (.bltu (rd w) (ra w) (imm15 w))
  | 0x1D => .ok (.bgeu (rd w) (ra w) (imm15 w))
  | 0x1E => form (az w) (.bz (rd w) (imm15 w))
  | 0x1F => form (az w) (.bnz (rd w) (imm15 w))
  | 0x20 => .ok (.b (fieldAt 0 25 w))
  | 0x21 => .ok (.call (fieldAt 0 25 w))
  | 0x22 => decodeCtrl w
  | 0x23 => form (natAt 16 4 w == 0) (.loop (rd w) (fieldAt 15 1 w) (imm15 w))
  | 0x24 => form (natAt 17 3 w == 0) (.loopx (rd w) (fieldAt 15 2 w) (imm15 w))
  | 0x28 => decodeAccess w (some (.jld (rd w) (ra w) (imm7 w))) (.ld (rd w) (ra w) (ordOf w) (widthOf w) (imm7 w) (lk w))
  | 0x29 => decodeLdu w
  | 0x2A => decodeAccess w (some (.jst (rd w) (ra w) (imm7 w))) (.st (rd w) (ra w) (ordOf w) (widthOf w) (imm7 w) (lk w))
  | 0x2B => decodeMemx w
  | 0x2C => decodeFe w
  | 0x2D => form (az w) (.ldpc (rd w) (imm15 w))
  | 0x2E => decodeAtom w
  | 0x2F => decodeAtomar w
  | 0x30 => decodeFences w
  | 0x31 => decodeJoint w
  | 0x32 => decodeMsg w
  | 0x33 => decodeEnq w
  | 0x34 => decodeDeq w
  | 0x35 => decodeQstat w
  | 0x36 => decodeQctl w
  | 0x37 => decodePeg w
  | 0x38 => decodeSys w
  | 0x39 => decodeCreg w
  | 0x40 => decodeVload w
  | 0x41 => decodeVstore w
  | 0x42 => decodeVint w
  | 0x43 => decodeVlog w
  | 0x44 => decodeVfp w
  | 0x45 => decodeVdiv w
  | 0x46 => decodeVcmp w
  | 0x47 => decodeVsel w
  | 0x48 => decodeVcvt w
  | 0x49 => decodeVqmx w
  | 0x4A => decodeVred w
  | 0x4B => decodeVscan w
  | 0x4C => decodeVpres w
  | 0x4D => decodeVperm w
  | 0x4E => decodeVmov w
  | 0x50 => decodePred w
  | _ => .illegalOpcode
/-! ### The encoder -/

/-- Register format (R278). -/
def packR (op : BitVec 7) (d a b : BitVec 5) (fn : BitVec 6) (l : BitVec 4) : BitVec 32 := op ++ d ++ a ++ b ++ fn ++ l

/-- Immediate format; also the Branch format, with a and b in the places of d and a (R278). -/
def packI (op : BitVec 7) (d a : BitVec 5) (imm : BitVec 15) : BitVec 32 := op ++ d ++ a ++ imm

/-- Memory format (R278). -/
def packM (op : BitVec 7) (d a : BitVec 5) (ord w : BitVec 2) (imm : BitVec 7) (l : BitVec 4) : BitVec 32 :=
  op ++ d ++ a ++ ord ++ w ++ imm ++ l

/-- Jump format (R278). -/
def packJ (op : BitVec 7) (disp : BitVec 25) : BitVec 32 := op ++ disp

/-- Vector format (R278). -/
def packV (op : BitVec 7) (d a b : BitVec 4) (k t fn : BitVec 3) (l : BitVec 4) : BitVec 32 := op ++ d ++ a ++ b ++ k ++ t ++ fn ++ l

/-- Queue format (R278). -/
def packQ (op : BitVec 7) (q : BitVec 4) (a : BitVec 5) (g : BitVec 4) : BitVec 32 := op ++ q ++ a ++ g ++ 0#12

/-- The word of a strand instruction (R278–R288, R370); none for commands and events. -/
def encodeWord (i : Instr) : Option (BitVec 32) :=
  match i with
  | .add d a b => some (packR 0x02#7 d a b 0#6 0#4)
  | .sub d a b => some (packR 0x02#7 d a b 1#6 0#4)
  | .and d a b => some (packR 0x02#7 d a b 2#6 0#4)
  | .or d a b => some (packR 0x02#7 d a b 3#6 0#4)
  | .xor d a b => some (packR 0x02#7 d a b 4#6 0#4)
  | .andn d a b => some (packR 0x02#7 d a b 5#6 0#4)
  | .orn d a b => some (packR 0x02#7 d a b 6#6 0#4)
  | .sll d a b => some (packR 0x02#7 d a b 7#6 0#4)
  | .srl d a b => some (packR 0x02#7 d a b 8#6 0#4)
  | .sra d a b => some (packR 0x02#7 d a b 9#6 0#4)
  | .ror d a b => some (packR 0x02#7 d a b 10#6 0#4)
  | .min d a b => some (packR 0x02#7 d a b 11#6 0#4)
  | .max d a b => some (packR 0x02#7 d a b 12#6 0#4)
  | .minu d a b => some (packR 0x02#7 d a b 13#6 0#4)
  | .maxu d a b => some (packR 0x02#7 d a b 14#6 0#4)
  | .sel d a b => some (packR 0x02#7 d a b 15#6 0#4)
  | .clz d a => some (packR 0x02#7 d a 0#5 16#6 0#4)
  | .ctz d a => some (packR 0x02#7 d a 0#5 17#6 0#4)
  | .popc d a => some (packR 0x02#7 d a 0#5 18#6 0#4)
  | .sextI8 d a => some (packR 0x02#7 d a 0#5 20#6 0#4)
  | .sextI16 d a => some (packR 0x02#7 d a 0#5 21#6 0#4)
  | .sextI32 d a => some (packR 0x02#7 d a 0#5 22#6 0#4)
  | .zextN8 d a => some (packR 0x02#7 d a 0#5 24#6 0#4)
  | .zextN16 d a => some (packR 0x02#7 d a 0#5 25#6 0#4)
  | .zextN32 d a => some (packR 0x02#7 d a 0#5 26#6 0#4)
  | .mul d a b l => some (packR 0x03#7 d a b 0#6 l)
  | .mulh d a b l => some (packR 0x03#7 d a b 1#6 l)
  | .mulhu d a b l => some (packR 0x03#7 d a b 2#6 l)
  | .div d a b l => some (packR 0x03#7 d a b 3#6 l)
  | .divu d a b l => some (packR 0x03#7 d a b 4#6 l)
  | .rem d a b l => some (packR 0x03#7 d a b 5#6 l)
  | .remu d a b l => some (packR 0x03#7 d a b 6#6 l)
  | .cmp d a b c => some (packR 0x04#7 d a b (0#2 ++ c) 0#4)
  | .fadd d a b t l => some (packR 0x05#7 d a b (t ++ 0#5) l)
  | .fsub d a b t l => some (packR 0x05#7 d a b (t ++ 1#5) l)
  | .fmul d a b t l => some (packR 0x05#7 d a b (t ++ 2#5) l)
  | .fdiv d a b t l => some (packR 0x05#7 d a b (t ++ 3#5) l)
  | .fsqrt d a t l => some (packR 0x05#7 d a 0#5 (t ++ 4#5) l)
  | .fma d a b t l => some (packR 0x05#7 d a b (t ++ 5#5) l)
  | .fmin d a b t l => some (packR 0x05#7 d a b (t ++ 6#5) l)
  | .fmax d a b t l => some (packR 0x05#7 d a b (t ++ 7#5) l)
  | .fcvt d a t l => some (packR 0x05#7 d a 0#5 (t ++ 8#5) l)
  | .fcvti d a t l => some (packR 0x05#7 d a 0#5 (t ++ 9#5) l)
  | .fcvtf d a t l => some (packR 0x05#7 d a 0#5 (t ++ 10#5) l)
  | .fcmp d a b t c l => some (packR 0x05#7 d a b (t ++ (2#2 ++ c)) l)
  | .nop => some (packI 0x01#7 0#5 0#5 0#15)
  | .addi d a i => some (packI 0x08#7 d a i)
  | .andi d a i => some (packI 0x09#7 d a i)
  | .ori d a i => some (packI 0x0A#7 d a i)
  | .xori d a i => some (packI 0x0B#7 d a i)
  | .slli d a s => some (packI 0x0C#7 d a (0#9 ++ s))
  | .srli d a s => some (packI 0x0D#7 d a (0#9 ++ s))
  | .srai d a s => some (packI 0x0E#7 d a (0#9 ++ s))
  | .li d i => some (packI 0x0F#7 d 0#5 i)
  | .lih d a i => some (packI 0x10#7 d a i)
  | .lapc d i => some (packI 0x11#7 d 0#5 i)
  | .beq a b i => some (packI 0x18#7 a b i)
  | .bne a b i => some (packI 0x19#7 a b i)
  | .blt a b i => some (packI 0x1A#7 a b i)
  | .bge a b i => some (packI 0x1B#7 a b i)
  | .bltu a b i => some (packI 0x1C#7 a b i)
  | .bgeu a b i => some (packI 0x1D#7 a b i)
  | .bz a i => some (packI 0x1E#7 a 0#5 i)
  | .bnz a i => some (packI 0x1F#7 a 0#5 i)
  | .b i => some (packJ 0x20#7 i)
  | .call i => some (packJ 0x21#7 i)
  | .callr a => some (packR 0x22#7 0#5 a 0#5 0#6 0#4)
  | .ret => some (packR 0x22#7 0#5 0#5 0#5 1#6 0#4)
  | .jr a => some (packR 0x22#7 0#5 a 0#5 2#6 0#4)
  | .jtab a b => some (packR 0x22#7 0#5 a b 3#6 0#4)
  | .lclr m => some (packR 0x22#7 0#5 0#5 (0#3 ++ m) 4#6 0#4)
  | .lset m => some (packR 0x22#7 0#5 0#5 (0#3 ++ m) 5#6 0#4)
  | .loop a n i => some (packI 0x23#7 a (0#4 ++ n) i)
  | .loopx a m i => some (packI 0x24#7 a (0#3 ++ m) i)
  | .ld d a o w i l => some (packM 0x28#7 d a o w i l)
  | .ldu d a o w i l => some (packM 0x29#7 d a o w i l)
  | .st d a o w i l => some (packM 0x2A#7 d a o w i l)
  | .jld d a i => some (packM 0x28#7 d a 3#2 3#2 i 0#4)
  | .jst d a i => some (packM 0x2A#7 d a 3#2 3#2 i 0#4)
  | .ldx d a b o w l => some (packR 0x2B#7 d a b (0#2 ++ o ++ w) l)
  | .ldux d a b o w l => some (packR 0x2B#7 d a b (1#2 ++ o ++ w) l)
  | .stx d a b o w l => some (packR 0x2B#7 d a b (2#2 ++ o ++ w) l)
  | .ldex d a b => some (packR 0x2B#7 d a b 0x30#6 0#4)
  | .stfx d a b => some (packR 0x2B#7 d a b 0x31#6 0#4)
  | .lde d a i => some (packM 0x2C#7 d a 0#2 0#2 i 0#4)
  | .ldf d a i => some (packM 0x2C#7 d a 0#2 1#2 i 0#4)
  | .stf d a i => some (packM 0x2C#7 d a 0#2 2#2 i 0#4)
  | .sts d a i => some (packM 0x2C#7 d a 0#2 3#2 i 0#4)
  | .feq d a i => some (packM 0x2C#7 d a 1#2 0#2 i 0#4)
  | .feset a i => some (packM 0x2C#7 0#5 a 1#2 1#2 i 0#4)
  | .feclr a i => some (packM 0x2C#7 0#5 a 1#2 2#2 i 0#4)
  | .ldpc d i => some (packI 0x2D#7 d 0#5 i)
  | .amoSwap d a b r w l => some (packR 0x2E#7 d a b (r ++ w ++ 0#4) l)
  | .amoAdd d a b r w l => some (packR 0x2E#7 d a b (r ++ w ++ 1#4) l)
  | .amoAnd d a b r w l => some (packR 0x2E#7 d a b (r ++ w ++ 2#4) l)
  | .amoOr d a b r w l => some (packR 0x2E#7 d a b (r ++ w ++ 3#4) l)
  | .amoXor d a b r w l => some (packR 0x2E#7 d a b (r ++ w ++ 4#4) l)
  | .amoMin d a b r w l => some (packR 0x2E#7 d a b (r ++ w ++ 5#4) l)
  | .amoMax d a b r w l => some (packR 0x2E#7 d a b (r ++ w ++ 6#4) l)
  | .amoMinu d a b r w l => some (packR 0x2E#7 d a b (r ++ w ++ 7#4) l)
  | .amoMaxu d a b r w l => some (packR 0x2E#7 d a b (r ++ w ++ 8#4) l)
  | .cas d a b r w l => some (packR 0x2E#7 d a b (r ++ w ++ 9#4) l)
  | .waiteq d a b r l => some (packR 0x2E#7 d a b (r ++ 1#1 ++ 10#4) l)
  | .waitge d a b r l => some (packR 0x2E#7 d a b (r ++ 1#1 ++ 11#4) l)
  | .waitne d a b r l => some (packR 0x2E#7 d a b (r ++ 1#1 ++ 12#4) l)
  | .atomar d a b w f s => some (packR 0x2F#7 d a b (0#1 ++ w ++ f) (0#1 ++ s))
  | .fence s => some (packR 0x30#7 0#5 0#5 0#5 (s ++ 0#3) 0#4)
  | .tfence s => some (packR 0x30#7 0#5 0#5 0#5 (s ++ 1#3) 0#4)
  | .bfence s => some (packR 0x30#7 0#5 0#5 0#5 (s ++ 2#3) 0#4)
  | .jopen => some (packR 0x31#7 0#5 0#5 0#5 0#6 0#4)
  | .jclose d => some (packR 0x31#7 d 0#5 0#5 1#6 0#4)
  | .jabort => some (packR 0x31#7 0#5 0#5 0#5 2#6 0#4)
  | .msgh a => some (packR 0x32#7 0#5 a 0#5 0#6 0#4)
  | .msgw a => some (packR 0x32#7 0#5 a 0#5 1#6 0#4)
  | .msge => some (packR 0x32#7 0#5 0#5 0#5 2#6 0#4)
  | .recv d c => some (packR 0x32#7 d 0#5 (0#2 ++ c) 3#6 0#4)
  | .recvh d c => some (packR 0x32#7 d 0#5 (0#2 ++ c) 4#6 0#4)
  | .mprobe d c => some (packR 0x32#7 d 0#5 (0#2 ++ c) 5#6 0#4)
  | .enq q a g => some (packQ 0x33#7 q a g)
  | .deq q a => some (packQ 0x34#7 q a 0#4)
  | .qstat q a => some (packQ 0x35#7 q a 0#4)
  | .lease => some (packR 0x36#7 0#5 0#5 0#5 0#6 0#4)
  | .leasef d n => some (packR 0x36#7 d 0#5 (0#4 ++ n) 1#6 0#4)
  | .gset a n => some (packR 0x36#7 0#5 a (0#2 ++ n) 2#6 0#4)
  | .gclr n => some (packR 0x36#7 0#5 0#5 (0#2 ++ n) 3#6 0#4)
  | .pega d a => some (packR 0x37#7 d a 0#5 0#6 0#4)
  | .pegv d a => some (packR 0x37#7 d a 0#5 1#6 0#4)
  | .pegw d a => some (packR 0x37#7 d a 0#5 2#6 0#4)
  | .pegq d a => some (packR 0x37#7 d a 0#5 4#6 0#4)
  | .pegf a => some (packR 0x37#7 0#5 a 0#5 3#6 0#4)
  | .trap a n => some (packR 0x38#7 0#5 a (0#2 ++ n) 0#6 0#4)
  | .eret => some (packR 0x38#7 0#5 0#5 0#5 1#6 0#4)
  | .exit => some (packR 0x38#7 0#5 0#5 0#5 2#6 0#4)
  | .step => some (packR 0x38#7 0#5 0#5 0#5 10#6 0#4)
  | .halt => some (packR 0x38#7 0#5 0#5 0#5 13#6 0#4)
  | .spawn a b => some (packR 0x38#7 0#5 a b 3#6 0#4)
  | .iunlock a b => some (packR 0x38#7 0#5 a b 7#6 0#4)
  | .tblw a b => some (packR 0x38#7 0#5 a b 12#6 0#4)
  | .idle d a => some (packR 0x38#7 d a 0#5 4#6 0#4)
  | .qcap d a => some (packR 0x38#7 d a 0#5 5#6 0#4)
  | .lnch d a => some (packR 0x38#7 d a 0#5 9#6 0#4)
  | .mgmt d a => some (packR 0x38#7 d a 0#5 14#6 0#4)
  | .ilock d a b => some (packR 0x38#7 d a b 6#6 0#4)
  | .publish d a b => some (packR 0x38#7 d a b 8#6 0#4)
  | .brk k j => some (packR 0x38#7 0#5 k j 11#6 0#4)
  | .crd d c => some (packI 0x39#7 d 0#5 (0#3 ++ c))
  | .cwr a c => some (packI 0x39#7 0#5 a (1#3 ++ c))
  | .cins d a c => some (packI 0x39#7 d (a ++ 0#1) (2#3 ++ c))
  | .crdc d c => some (packI 0x39#7 d 0#5 (3#3 ++ c))
  | .vld d a b k o l => some (packV 0x40#7 d a b k 0#3 (o ++ 0#2) l)
  | .vlds d a b k t o l => some (packV 0x40#7 d a b k t (o ++ 1#2) l)
  | .vldg d a b k t o l => some (packV 0x40#7 d a b k t (o ++ 2#2) l)
  | .vst d a b k o l => some (packV 0x41#7 d a b k 0#3 (o ++ 0#2) l)
  | .vsts d a b k t o l => some (packV 0x41#7 d a b k t (o ++ 1#2) l)
  | .vstx d a b k t o l => some (packV 0x41#7 d a b k t (o ++ 2#2) l)
  | .vadd d a b k t l => some (packV 0x42#7 d a b k t 0#3 l)
  | .vsub d a b k t l => some (packV 0x42#7 d a b k t 1#3 l)
  | .vmul d a b k t l => some (packV 0x42#7 d a b k t 2#3 l)
  | .vmin d a b k t l => some (packV 0x42#7 d a b k t 3#3 l)
  | .vmax d a b k t l => some (packV 0x42#7 d a b k t 4#3 l)
  | .vlogAnd d a b k l => some (packV 0x43#7 d a b k 0#3 0#3 l)
  | .vlogOr d a b k l => some (packV 0x43#7 d a b k 0#3 1#3 l)
  | .vlogXor d a b k l => some (packV 0x43#7 d a b k 0#3 2#3 l)
  | .vshfSll d a b k l => some (packV 0x43#7 d a b k 7#3 4#3 l)
  | .vshfSrl d a b k l => some (packV 0x43#7 d a b k 7#3 5#3 l)
  | .vshfSra d a b k l => some (packV 0x43#7 d a b k 7#3 6#3 l)
  | .vfadd d a b k t l => some (packV 0x44#7 d a b k t 0#3 l)
  | .vfsub d a b k t l => some (packV 0x44#7 d a b k t 1#3 l)
  | .vfmul d a b k t l => some (packV 0x44#7 d a b k t 2#3 l)
  | .vfma d a b k t l => some (packV 0x44#7 d a b k t 3#3 l)
  | .vfmin d a b k t l => some (packV 0x44#7 d a b k t 4#3 l)
  | .vfmax d a b k t l => some (packV 0x44#7 d a b k t 5#3 l)
  | .vfdiv d a b k t l => some (packV 0x45#7 d a b k t 0#3 l)
  | .vfsqrt d a k t l => some (packV 0x45#7 d a 0#4 k t 1#3 l)
  | .vfsfExp2 d a k l => some (packV 0x45#7 d a 0#4 k 1#3 2#3 l)
  | .vfsfLog2 d a k l => some (packV 0x45#7 d a 0#4 k 1#3 3#3 l)
  | .vcmp p a b k t c l => some (packV 0x46#7 (0#1 ++ p) a b k t (0#1 ++ c) l)
  | .vfcmp p a b k t c l => some (packV 0x46#7 (0#1 ++ p) a b k t (1#1 ++ c) l)
  | .vsel d a b k l => some (packV 0x47#7 d a b k 0#3 0#3 l)
  | .vcvt d a f k t c l => some (packV 0x48#7 d a f k t (0#1 ++ c) l)
  | .vqmxQ d a k t l => some (packV 0x49#7 d a 0#4 k t 0#3 l)
  | .vqmxX d a k t l => some (packV 0x49#7 d a 0#4 k t 1#3 l)
  | .vred d a k t o l => some (packV 0x4A#7 d a 0#4 k t (0#1 ++ o) l)
  | .vscan d a k l => some (packV 0x4B#7 d a 0#4 k 1#3 0#3 l)
  | .vpres p a f k l => some (packV 0x4C#7 (0#1 ++ p) a f k 0#3 0#3 l)
  | .vfill d a f k l => some (packV 0x4C#7 d a f k 0#3 1#3 l)
  | .vmka d a f k l => some (packV 0x4C#7 d a f k 0#3 2#3 l)
  | .vperm d a b k l => some (packV 0x4D#7 d a b k 0#3 0#3 l)
  | .vslideDn d a b k l => some (packV 0x4D#7 d a b k 0#3 1#3 l)
  | .vslideUp d a b k l => some (packV 0x4D#7 d a b k 0#3 2#3 l)
  | .vlen a l => some (packV 0x4E#7 0#4 a 0#4 0#3 0#3 0#3 l)
  | .vbnd p a b t l => some (packV 0x4E#7 (0#1 ++ p) a b 0#3 t 1#3 l)
  | .vmovGv d a k l => some (packV 0x4E#7 d a 0#4 k 0#3 2#3 l)
  | .vmovVg d a b l => some (packV 0x4E#7 d a b 0#3 0#3 3#3 l)
  | .pand d a b => some (packV 0x50#7 (0#1 ++ d) (0#1 ++ a) (0#1 ++ b) 0#3 0#3 0#3 0#4)
  | .por d a b => some (packV 0x50#7 (0#1 ++ d) (0#1 ++ a) (0#1 ++ b) 0#3 0#3 1#3 0#4)
  | .pxor d a b => some (packV 0x50#7 (0#1 ++ d) (0#1 ++ a) (0#1 ++ b) 0#3 0#3 2#3 0#4)
  | .pandn d a b => some (packV 0x50#7 (0#1 ++ d) (0#1 ++ a) (0#1 ++ b) 0#3 0#3 3#3 0#4)
  | .pnot d a => some (packV 0x50#7 (0#1 ++ d) (0#1 ++ a) 0#4 0#3 0#3 4#3 0#4)
  | .pmov d a k => some (packV 0x50#7 (0#1 ++ d) (0#1 ++ a) 0#4 k 0#3 5#3 0#4)
  | _ => none

/-! ### Commands -/

/-- The header of a command word (R290, R397). -/
def cmdHdrOf (q issuer : BitVec 4) (seq : Nat) (w : BitVec 256) : CmdHdr :=
  { peg := natAt 8 2 w == 1, pegIdx := fieldAt 10 5 w, pegGen := fieldAt 16 16 w, tag := fieldAt 32 16 w,
    errpost := bitAt 63 w, cop := fieldAt 0 8 w, queue := q, issuer := issuer, seq := seq }

/-- The checks of the header (R290, R292, R293, R398). -/
def headerChecks (e : CmdEnv) (q : BitVec 4) (w : BitVec 256) : List (Nat × Bool) :=
  [(0, !copFits (natAt 0 8 w) q.toNat),
   (8, decide (1 < natAt 8 2 w)),
   (10, natAt 8 2 w == 0 && natAt 10 5 w != 0),
   (10, natAt 8 2 w == 1 && !e.pegOk),
   (15, bitAt 15 w),
   (16, natAt 8 2 w == 0 && natAt 16 16 w != 0)]

/-- The reserved fields of each command: lowest bit and width (R401–R423). -/
def reservedFields (cop : Nat) : List (Nat × Nat) :=
  match cop with
  | 0x01 => [(48, 15), (70, 10), (90, 166)]
  | 0x02 => [(48, 15), (68, 4), (88, 8), (106, 150)]
  | 0x03 => [(48, 15), (83, 1), (86, 2), (94, 34), (224, 32)]
  | 0x04 => [(48, 15), (83, 173)]
  | 0x10 => [(48, 15), (232, 24)]
  | 0x11 => [(56, 7)]
  | 0x12 => [(48, 15), (232, 24)]
  | 0x13 => [(48, 15), (217, 3)]
  | 0x14 => [(48, 15), (217, 3)]
  | 0x15 => [(50, 13), (232, 24)]
  | 0x16 => [(55, 8)]
  | 0x20 => [(48, 15), (246, 10)]
  | 0x30 => [(48, 15), (66, 2), (73, 7), (105, 23), (216, 40)]
  | 0x31 => [(48, 15), (64, 2), (66, 2), (68, 4), (72, 1), (73, 7), (105, 23), (216, 40)]
  | 0x32 => [(48, 15), (64, 2), (66, 2), (68, 4), (73, 7), (105, 23), (216, 40)]
  | 0x33 => [(48, 15), (64, 2), (66, 2), (68, 4), (72, 1), (73, 7), (105, 23), (216, 40)]
  | 0x40 => [(48, 15), (216, 40)]
  | 0x41 => [(48, 15), (216, 40)]
  | 0x42 => [(48, 15), (64, 33), (97, 41), (194, 15), (209, 4), (213, 1), (214, 1), (216, 40)]
  | 0x43 => [(48, 15), (64, 33), (97, 41), (194, 15), (209, 4), (213, 1), (214, 1), (216, 40)]
  | _ => [(48, 15), (64, 192)]

/-- The command a word stands for, once its header and reserved fields are known to be good (R401–R423). -/
def commandOf (h : CmdHdr) (w : BitVec 256) : Instr :=
  match h.cop.toNat with
  | 0x01 => .mwload h (fieldAt 64 4 w) (fieldAt 68 2 w) (fieldAt 80 10 w)
  | 0x02 => .mstream h (fieldAt 64 4 w) (fieldAt 72 16 w) (fieldAt 96 9 w) (fieldAt 105 1 w)
  | 0x03 => .mdrain h (fieldAt 64 9 w) (fieldAt 73 10 w) (fieldAt 84 2 w) (fieldAt 88 4 w) (fieldAt 92 1 w) (fieldAt 93 1 w)
              (fieldAt 128 64 w) (fieldAt 192 32 w)
  | 0x04 => .mclear h (fieldAt 64 9 w) (fieldAt 73 10 w)
  | 0x10 => .cpy h (fieldAt 64 64 w) (fieldAt 128 64 w) (fieldAt 192 40 w)
  | 0x11 => .cpy2 h (fieldAt 64 64 w) (fieldAt 128 64 w) (fieldAt 192 16 w) (fieldAt 208 16 w) (fieldAt 224 16 w) (fieldAt 240 16 w)
              (fieldAt 48 4 w) (fieldAt 52 4 w)
  | 0x12 => .cpyf h (fieldAt 64 64 w) (fieldAt 128 64 w) (fieldAt 192 40 w)
  | 0x13 => .cpyg h (fieldAt 64 64 w) (fieldAt 128 64 w) (fieldAt 192 25 w) (fieldAt 220 4 w) (fieldAt 224 32 w)
  | 0x14 => .cpys h (fieldAt 64 64 w) (fieldAt 128 64 w) (fieldAt 192 25 w) (fieldAt 220 4 w) (fieldAt 224 32 w)
  | 0x15 => .cfill h (fieldAt 64 64 w) (fieldAt 128 64 w) (fieldAt 192 40 w) (fieldAt 48 2 w)
  | 0x16 => .cpyi h (fieldAt 64 128 w) (fieldAt 192 64 w) (fieldAt 48 5 w) (fieldAt 53 2 w)
  | 0x20 => .chain h (fieldAt 64 96 w) (fieldAt 160 4 w) (fieldAt 164 4 w) (fieldAt 168 17 w) (fieldAt 185 17 w) (fieldAt 202 20 w)
              (fieldAt 222 24 w)
  | 0x30 => .tred h (fieldAt 64 2 w) (fieldAt 68 4 w) (fieldAt 72 1 w) (fieldAt 80 25 w) (fieldAt 128 64 w) (fieldAt 192 24 w)
  | 0x31 => .tbcast h (fieldAt 80 25 w) (fieldAt 128 64 w) (fieldAt 192 24 w)
  | 0x32 => .tgath h (fieldAt 72 1 w) (fieldAt 80 25 w) (fieldAt 128 64 w) (fieldAt 192 24 w)
  | 0x33 => .tscat h (fieldAt 80 25 w) (fieldAt 128 64 w) (fieldAt 192 24 w)
  | 0x40 => .bmv h (fieldAt 64 33 w) (fieldAt 97 41 w) (fieldAt 138 41 w) (fieldAt 179 15 w) (fieldAt 194 15 w) (fieldAt 209 4 w)
              (fieldAt 213 1 w) (fieldAt 214 1 w) (fieldAt 215 1 w)
  | 0x41 => .bmvt h (fieldAt 64 33 w) (fieldAt 97 41 w) (fieldAt 138 41 w) (fieldAt 179 15 w) (fieldAt 194 15 w) (fieldAt 209 4 w)
              (fieldAt 213 1 w) (fieldAt 214 1 w) (fieldAt 215 1 w)
  | 0x42 => .bread h (fieldAt 138 41 w) (fieldAt 179 15 w) (fieldAt 215 1 w)
  | 0x43 => .bzero h (fieldAt 138 41 w) (fieldAt 179 15 w) (fieldAt 215 1 w)
  | 0xF0 => .mark h
  | _ => .cnop h

/-- The limits of a command's own fields (R401–R423); none for other instructions. -/
def commandLimits (e : CmdEnv) (i : Instr) : List (Nat × Bool) :=
  match i with
  | .mwload _ wfmt sparse k => mwloadLimits wfmt.toNat sparse.toNat k.toNat
  | .mstream _ _ rows _ _ => mstreamLimits rows.toNat
  | .mdrain _ _ nrows mode ofmt dq _ daddr dstride => mdrainLimits nrows.toNat mode.toNat ofmt.toNat dq.toNat daddr.toNat dstride.toNat
  | .mclear _ _ nrows => mclearLimits nrows.toNat
  | .cpy _ _ _ len => cpyLimits len.toNat
  | .cpy2 _ _ _ rowlen nrows _ _ _ _ => cpy2Limits rowlen.toNat nrows.toNat
  | .cpyf _ _ dst len => cpyfLimits dst.toNat len.toNat
  | .cpyg _ _ _ idx esz n => cpygLimits e idx.toNat esz.toNat n.toNat
  | .cpys _ _ _ idx esz n => cpygLimits e idx.toNat esz.toNat n.toNat
  | .cfill _ _ dst len feop => cfillLimits dst.toNat len.toNat feop.toNat
  | .cpyi _ _ dst len feop => cpyiLimits dst.toNat len.toNat feop.toNat
  | .chain _ slots itype otype src dst _ n => chainLimits e slots itype.toNat otype.toNat (256 * src.toNat) (256 * dst.toNat) n.toNat
  | .tred _ _ type _ src dst n => tredLimits e type.toNat src.toNat dst.toNat n.toNat
  | .tbcast _ src dst len => tmoveLimits e src.toNat dst.toNat len.toNat
  | .tgath _ _ src dst len => tmoveLimits e src.toNat dst.toNat len.toNat
  | .tscat _ src dst len => tscatLimits e src.toNat dst.toNat len.toNat
  | .bmv _ _ _ _ m k wfmt acc yq _ => bmvLimits m.toNat k.toNat wfmt.toNat acc.toNat yq.toNat
  | .bmvt _ _ _ _ m k wfmt acc yq _ => bmvLimits m.toNat k.toNat wfmt.toNat acc.toNat yq.toNat
  | .bread _ _ n _ => breadLimits n.toNat
  | .bzero _ _ n _ => breadLimits n.toNat
  | _ => []

/-- Every check of a command word: header, reserved fields, limits (R293, R398). -/
def commandChecks (e : CmdEnv) (q : BitVec 4) (w : BitVec 256) : List (Nat × Bool) :=
  headerChecks e q w ++ (reservedFields (natAt 0 8 w)).map (fun f => (f.1, natAt f.1 f.2 w != 0))
    ++ commandLimits e (commandOf (cmdHdrOf q 0#4 0 w) w)

/-- The decoder of command words: the command, or BADCMD with its DETAIL (R293, R398). -/
def decodeCommand (e : CmdEnv) (q issuer : BitVec 4) (seq : Nat) (w : BitVec 256) : Instr :=
  match lowestFailed (commandChecks e q w) with
  | some p => .badcmd (cmdHdrOf q issuer seq w) (BitVec.ofNat 8 p)
  | none => commandOf (cmdHdrOf q issuer seq w) w

/-- The header of a command, bits [63:0], with ARGS[14:0] (R290, R397). -/
def packHdr (h : CmdHdr) (args : BitVec 15) : BitVec 64 :=
  BitVec.ofBool h.errpost ++ args ++ h.tag ++ h.pegGen ++ 0#1 ++ h.pegIdx ++ (0#1 ++ BitVec.ofBool h.peg) ++ h.cop

/-- The word of a command (R290, R401–R423); none for other instructions. -/
def encodeCommand (i : Instr) : Option (BitVec 256) :=
  match i with
  | .mwload h wfmt sparse k => some (0#166 ++ k ++ 0#10 ++ sparse ++ wfmt ++ packHdr h 0#15)
  | .mstream h afmt rows acc ovr => some (0#150 ++ ovr ++ acc ++ 0#8 ++ rows ++ 0#4 ++ afmt ++ packHdr h 0#15)
  | .mdrain h row0 nrows mode ofmt dq clr daddr dstride =>
    some (0#32 ++ dstride ++ daddr ++ 0#34 ++ clr ++ dq ++ ofmt ++ 0#2 ++ mode ++ 0#1 ++ nrows ++ row0 ++ packHdr h 0#15)
  | .mclear h row0 nrows => some (0#173 ++ nrows ++ row0 ++ packHdr h 0#15)
  | .cpy h src dst len => some (0#24 ++ len ++ dst ++ src ++ packHdr h 0#15)
  | .cpy2 h src dst rowlen nrows sstr dstr ssh dsh =>
    some (dstr ++ sstr ++ nrows ++ rowlen ++ dst ++ src ++ packHdr h (0#7 ++ dsh ++ ssh))
  | .cpyf h src dst len => some (0#24 ++ len ++ dst ++ src ++ packHdr h 0#15)
  | .cpyg h src dst idx esz n => some (n ++ esz ++ 0#3 ++ idx ++ dst ++ src ++ packHdr h 0#15)
  | .cpys h src dst idx esz n => some (n ++ esz ++ 0#3 ++ idx ++ dst ++ src ++ packHdr h 0#15)
  | .cfill h pat dst len feop => some (0#24 ++ len ++ dst ++ pat ++ packHdr h (0#13 ++ feop))
  | .cpyi h data dst len feop => some (dst ++ data ++ packHdr h (0#8 ++ feop ++ len))
  | .chain h slots itype otype src dst const n =>
    some (0#10 ++ n ++ const ++ dst ++ src ++ otype ++ itype ++ slots ++ packHdr h 0#15)
  | .tred h op type dq src dst n =>
    some (0#40 ++ n ++ dst ++ 0#23 ++ src ++ 0#7 ++ dq ++ type ++ 0#2 ++ op ++ packHdr h 0#15)
  | .tbcast h src dst len => some (0#40 ++ len ++ dst ++ 0#23 ++ src ++ 0#16 ++ packHdr h 0#15)
  | .tgath h dq src dst len => some (0#40 ++ len ++ dst ++ 0#23 ++ src ++ 0#7 ++ dq ++ 0#8 ++ packHdr h 0#15)
  | .tscat h src dst len => some (0#40 ++ len ++ dst ++ 0#23 ++ src ++ 0#16 ++ packHdr h 0#15)
  | .bmv h waddr xaddr yaddr m k wfmt acc yq ycnt =>
    some (0#40 ++ ycnt ++ yq ++ acc ++ wfmt ++ k ++ m ++ yaddr ++ xaddr ++ waddr ++ packHdr h 0#15)
  | .bmvt h waddr xaddr yaddr m k wfmt acc yq ycnt =>
    some (0#40 ++ ycnt ++ yq ++ acc ++ wfmt ++ k ++ m ++ yaddr ++ xaddr ++ waddr ++ packHdr h 0#15)
  | .bread h yaddr n ycnt => some (0#40 ++ ycnt ++ 0#21 ++ n ++ yaddr ++ 0#74 ++ packHdr h 0#15)
  | .bzero h yaddr n ycnt => some (0#40 ++ ycnt ++ 0#21 ++ n ++ yaddr ++ 0#74 ++ packHdr h 0#15)
  | .mark h => some (0#192 ++ packHdr h 0#15)
  | .cnop h => some (0#192 ++ packHdr h 0#15)
  | _ => none

/-! ### Host records (R86, R91, R92, R239, R240) -/

/-- Bytes `lo` to `hi` of a record are zero. -/
def bytesZero (r : BitVec 512) (lo hi : Nat) : Bool := natAt (8 * lo) (8 * (hi + 1 - lo)) r == 0

/-- A DBG operation byte, with whether it names N, SEL and DATA (R223, R240). -/
def dbgOf (op : Nat) : Option (Instr × Bool × Bool × Bool) :=
  match op with
  | 0x01 => some (.dbgHalt, false, false, false)
  | 0x02 => some (.dbgResume, false, false, false)
  | 0x03 => some (.dbgStepi, false, false, false)
  | 0x04 => some (.dbgHaltall, false, false, false)
  | 0x05 => some (.dbgResumeall, false, false, false)
  | 0x06 => some (.dbgRdreg, false, true, false)
  | 0x07 => some (.dbgWrreg, false, true, true)
  | 0x08 => some (.dbgRdmem, true, false, false)
  | 0x09 => some (.dbgWrmem, true, false, true)
  | 0x0A => some (.dbgSetbp, true, true, false)
  | 0x0B => some (.dbgClrbp, true, false, false)
  | 0x10 => some (.dbgRetry, false, false, false)
  | 0x11 => some (.dbgEnd, false, false, false)
  | 0x20 => some (.dbgProfon, false, false, true)
  | 0x21 => some (.dbgProfoff, false, false, false)
  | 0x22 => some (.dbgProfflush, false, false, false)
  | 0x30 => some (.dbgRdengy, false, false, false)
  | _ => none

/-- A DBG record (R92, R239, R240). -/
def decodeDbg (r : BitVec 512) : Instr :=
  let op := natAt 64 8 r
  let n := natAt 104 8 r
  match dbgOf op with
  | none => .badrec
  | some (i, usesN, usesSel, usesData) =>
    if bytesZero r 1 7 && bytesZero r 9 9 && bytesZero r 40 55 && decide (natAt 96 8 r < 16)
        && (usesN || bytesZero r 13 13) && (usesSel || bytesZero r 14 15) && (usesData || bytesZero r 32 39)
        && (op != 0x0A || decide (natAt 112 16 r < 2))
        && (!(op == 0x08 || op == 0x09) || n == 1 || n == 2 || n == 4 || n == 8) then i
    else .badrec

/-- The decoder of host records (R91, R92): the meaning a record has, BADREC included. -/
def decodeRecord (r : BitVec 512) : Instr :=
  let z := bytesZero r
  let a := natAt 64 64 r
  let rec' (ok : Bool) (i : Instr) : Instr := if ok then i else .badrec
  match natAt 0 8 r with
  | 1 => rec' (z 1 7 && z 16 55 && a % 128 == 0) .launch
  | 2 => rec' (natAt 9 7 r == 0 && z 2 7 && z 32 55 && decide (1 ≤ natAt 192 64 r) && decide (natAt 192 64 r ≤ 1099511627776))
      (if bitAt 8 r then .copyPublish else .copy)
  | 3 => rec' (z 1 7 && z 24 55 && a % 8 == 0) .signal
  | 4 => rec' (z 1 7 && z 25 27 && z 32 55 && a % 8 == 0 && decide (natAt 192 8 r ≤ 2)) .wait
  | 5 => rec' (natAt 9 7 r == 0 && z 2 7 && z 24 55) .save
  | 6 => rec' (z 1 7 && z 24 55) .restore
  | 7 => rec' (z 1 7 && z 16 55) .setlat
  | 8 => rec' (z 1 7 && z 9 9 && z 15 15 && z 22 23 && z 32 55 && decide (natAt 64 8 r ≤ 15) && decide (natAt 112 8 r ≤ 7)) .tenant
  | 9 => decodeDbg r
  | _ => .badrec

/-! ### Words and bytes -/

/-- The words of a well-formed instruction, the first at the lowest address: one for a strand instruction, eight for a command, none
for an event. -/
def encode (i : Instr) : List (BitVec 32) :=
  match encodeWord i with
  | some w => [w]
  | none =>
    match encodeCommand i with
    | some c => (List.range 8).map (fun k => fieldAt (32 * k) 32 c)
    | none => []

/-- Four bytes as the word they hold, little-endian (R14, R277). -/
def wordOfBytes (b0 b1 b2 b3 : Byte) : BitVec 32 := b3 ++ b2 ++ b1 ++ b0

/-- The decoder of instruction bytes: an instruction and the bytes after it; none where there are fewer than four bytes. -/
def decodeBytes (bs : List Byte) : Option (Decoded × List Byte) :=
  match bs with
  | b0 :: b1 :: b2 :: b3 :: rest => some (decodeWord (wordOfBytes b0 b1 b2 b3), rest)
  | _ => none

/-- The instruction of a row of the opcode table: a strand word of 32 bits; a command word of 256 bits, in the queue its opcode
belongs to. -/
def decodeTableWord (nbits w : Nat) : Option Instr :=
  if nbits ≤ 32 then
    match decodeBytes [BitVec.ofNat 8 w, BitVec.ofNat 8 (w / 256), BitVec.ofNat 8 (w / 65536), BitVec.ofNat 8 (w / 16777216)] with
    | some (.ok i, _) => some i
    | _ => none
  else
    let c := BitVec.ofNat 256 w
    let q := match copHome (natAt 0 8 c) with | some (some n) => BitVec.ofNat 4 n | _ => 0#4
    match decodeCommand {} q 0#4 0 c with
    | .badcmd _ _ => none
    | i => some i

end Sys2Proof
end

