-- ==== Sys2Proof/Config.lean ====
section
/-! DEFINITION. What an implementation fixes, and the free values: constants without a body stand for what the spec leaves open, so
that nothing proved of the model rests on a value of them. Each is named in the assumption log. -/

namespace Sys2Proof.Config

/-- Strands of a tile context (R146). -/
def strands : Nat := 16

/-- The row of a stack a 256-byte line belongs to, and the bank of a row (R78: the geometry is not given; log 12). -/
opaque rowOf : Nat → Nat → Nat
opaque bankOf : Nat → Nat → Nat

/-- Spare rows of a bank of a stack (R79; log 12). -/
opaque spareRows : Nat → Nat → Nat

/-- Which of the values a word may still show a read gives, by the counter of free values, the word and the cycle: for a bank unit the
values since the last covered write, for a load of a bank unit's result the old ones or the new (R70, R73, R74; log 13). -/
opaque pick : Nat → Nat → Nat → Nat

/-- A byte of the scratchpad at or above EXTENT, read by an engine whose command no check stops (R184, R411; log 14). -/
opaque beyondExtent : Nat → Byte

/-- SM2 signature of an attestation report (R41), CRC-64 and forward error correction of a flit (R36): functions the spec names and
does not define (log 12). -/
opaque sm2 : BitVec 256 → BitVec 512
opaque crcGood : BitVec 2048 → Bool
opaque fecGood : BitVec 2048 → Bool

/-- A flit carries the sequence number of the `n`-th flit of its link: R36 does not give the place and width of that number (log 12). -/
opaque inSequence : BitVec 2048 → Nat → Bool

/-- How traffic spreads over the ports to a peer by source VTID (R38; log 12). -/
opaque spread : Nat → Nat

/-- A byte of a SAVE image where the spec gives no layout, by its offset and a free counter (R232; log 10). -/
opaque imageByte : Nat → Nat → Byte

/-- Sizes in 64 KiB of the parts of a SAVE image whose layout the spec does not give, by a free counter: the device header with
sections 1 to 5, and what section 6 holds for a job (by its handle) beside its gang images (R232; log 10). -/
opaque sections : Nat → BitVec 16
opaque jobSection : Nat → Nat → Nat

/-- Hops a detour around dark routers adds to a route (R26; log 7). -/
opaque detour : Nat → Nat → Nat

/-- Latency in core cycles of an access to host or peer memory (R103, R104 give none; log 7). -/
opaque farLatency : Nat → Nat

/-- Energy in nJ of work whose amount the spec does not give, by its kind, the counter of free values and the cycle: profile records 0, park
queues 1 and scheduler work 2, which go to the device overhead account (R246; log 24). -/
opaque overheadNj : Nat → Nat → Nat → Nat

/-- The values the spec leaves unstated where the instruction goes on, by the counter of free values: TVAL of the lease trap of a CSR
write and of joint misuse (R168, R211; log 15), a reading of the part no rule gives (log 16). -/
opaque openWord : Nat → Word

/-- The stack that holds an entry of a job's translation table, by handle and VTID, and the entry that leaves a full cache of VTIDs, by the
cycle (R109 gives neither; log 54). -/
opaque xltStack : Nat → Nat → Nat
opaque xltVictim : Nat → Nat

/-- Which of the things the part may do next it does, by the counter of free values (log 1). -/
opaque schedule : Nat → Nat

end Sys2Proof.Config
end

