-- ==== Sys2Proof/Machine/Table.lean ====
section
/-! DEFINITION. Sparse tables: the one data structure behind memory, register files and every large array of the part.

A table is a list of (key, value) pairs with keys strictly rising and no value equal to the default `d` of the table, so that
equal contents are equal lists. Reading an unlisted key gives the default. -/

namespace Sys2Proof.Machine

/-- A sparse table of values by key. With `β = Byte` it is a list of Host.Cell. -/
abbrev Table (β : Type) := List (Nat × β)

/-- What key `k` of a table holds; `d` where the table lists nothing. -/
def tableGet (d : β) (m : Table β) (k : Nat) : β :=
  match m with
  | [] => d
  | (k', v) :: t => if k = k' then v else tableGet d t k

/-- Put a pair at its place by key. -/
def tablePlace (m : Table β) (k : Nat) (v : β) : Table β :=
  match m with
  | [] => [(k, v)]
  | (k', v') :: t => if k < k' then (k, v) :: (k', v') :: t else (k', v') :: tablePlace t k v

/-- Write `v` at key `k`. Writing the default removes the entry. -/
def tableSet [DecidableEq β] (d : β) (m : Table β) (k : Nat) (v : β) : Table β :=
  let m' := m.filter (fun p => p.1 ≠ k)
  if v = d then m' else tablePlace m' k v

/-- The canonical form: keys strictly rising, no value equal to the default. -/
def tableWf [DecidableEq β] (d : β) (m : Table β) : Bool :=
  match m with
  | [] => true
  | (k, v) :: t => decide (v ≠ d) && t.all (fun p => k < p.1) && tableWf d t

/-- Change every listed value. -/
def tableMap [DecidableEq β] (d : β) (m : Table β) (f : Nat → β → β) : Table β :=
  m.foldr (fun p t => tableSet d t p.1 (f p.1 p.2)) []

/-- The keys a table lists. -/
def tableKeys (m : Table β) : List Nat := m.map (·.1)

end Sys2Proof.Machine
end

