-- ==== Sys2Proof/Machine/State.lean ====
section
/-! DEFINITION. The state of the whole part as plain data: strands, tile contexts, gangs, jobs, tiles, memories, the host command
interface, the scheduler, the management controller and the links. Every structure cites the rules that name its fields; the
reset value of each field is its default value (`State.reset` is the part at power-up, before bring-up: log 2).

Keys. A tile context is named by `handle * 65536 + VTID` (a context key), a strand by `16 * context key + index` (a strand key),
a gang by its job and number, a tile by its PTID, a rim byte by `2^36 * stack + stack-local address` (R60). -/

namespace Sys2Proof.Machine

/-! ### What comes from outside -/

/-- A function of the host ports: a physical function or a virtual function of a port (R31). -/
structure HostFn where
  port : BitVec 2
  vf : Option (BitVec 4)
deriving DecidableEq, Repr

/-- What ECC finds in a 256-byte line (R75): nothing, an error it corrects, or one it only detects. -/
inductive LineError where
  | none
  | corrected
  | uncorrectable
deriving DecidableEq, Repr

/-- The contents of a firmware slot, as far as the spec gives them (R39): whether the four image signatures verify, the version
number compared with the anti-rollback counter, and the versions and digests of the four images. -/
structure FirmwareSlot where
  signed : Bool
  version : Nat
  images : List Nat
  digests : List (BitVec 256)
deriving DecidableEq, Repr

/-! ### Strands -/

/-- The states of a strand (R147). -/
inductive StrandState where
  | inactive | ready | memwait | msgwait | engwait | halted | exited
deriving DecidableEq, Repr

/-- What a strand that is not READY waits for (R114, R147). -/
inductive Wait where
  | none
  | timed                    -- a latency of R150, R55 or R443 still running
  | icache (lines : List Nat)  -- fills of instruction-cache lines, by line address (R176, R177)
  | fullEmpty                -- a full/empty condition, held in a wait list
  | waitForm                 -- a WAIT-form test, held in a wait list
  | refused                  -- a request refused by a full wait list (R57, R206)
  | locked                   -- an access to a word that another strand's JCLOSE has locked (R210)
  | fence                    -- a fence or a JCLOSE, whose earlier accesses are not all performed (R346, R347)
  | window                   -- a tile-window access parked at a non-resident destination (R119)
  | noPark (ctx : Nat)       -- an access to a gang without room in a park queue (R120, R121)
  | hostPort (va : Word) (since : Nat)  -- an access to a host page that no completion answers, and its start (R103)
  | recv (cls : Nat)
  | send                     -- MSGW or MSGE on a path that cannot take a word (R351)
  | idle (deadline : BitVec 64)
  | push (q : Nat)
  | pop (q : Nat)
  | lease
  | pegw (idx : Nat) (phase : BitVec 16) (dest : BitVec 5)
  | lookahead                -- a limit or a window end of R151
  | behindWait               -- the same behind a WAIT whose test does not hold (R114)
  | stepMark                 -- STEP waiting for its mark (R330)
  | locks                    -- JCLOSE, with its words locked (R210)
  | ashape (bands : BitVec 4) (dest : BitVec 5)  -- a write to ASHAPE waiting under R164, and its register result
deriving DecidableEq, Repr

/-- Where an access is performed: a scratchpad byte of a context, a rim byte, a host byte, a byte of a peer's rim memory (R192). -/
inductive Loc where
  | spm (ctx off : Nat)
  /-- A rim byte, and whether it is reached through a page of a bank layout (R73). -/
  | rim (addr : Nat) (bank : Bool)
  | host (port addr : Nat)
  | peer (p addr : Nat)
deriving DecidableEq, Repr

/-- What an access does at its place, with everything it needs from the strand's registers, read in the issue slot (R336). -/
inductive AccessOp where
  | load (size : Nat) (signed : Bool)
  | store (size : Nat) (data : Word)
  /-- AMO and CAS: function of R343, width in bytes, operand, and for CAS the compared value. -/
  | atomic (fn size : Nat) (y cmp : Word)
  /-- LDE 0, LDF 1, STF 2, STS 3, FEQ 4, FESET 5, FECLR 6 (R342). -/
  | fullEmpty (fn : Nat) (data : Word)
  /-- WAITEQ 10, WAITGE 11, WAITNE 12 (R345). -/
  | waitForm (fn : Nat) (y : Word)
  | vload (vd : BitVec 4) (mask : Pred)
  | vstore (data : Row) (mask : Pred)
deriving DecidableEq, Repr

/-- The order an access carries (R280, R343). -/
inductive Order where
  | plain | rx | acquire | release | both
deriving DecidableEq, Repr

/-- One access: what it does, where, the address as issued, the destination register, its order and its scope (R194, R196). -/
structure Access where
  op : AccessOp
  loc : Loc
  va : Word
  dest : BitVec 5
  order : Order := .plain
  scope : Nat := 0
deriving DecidableEq, Repr

/-- What a strand, a packet, a peg or a word carries of the order between writers (R73, R74, R199): for a writer and a scope, the
cycle up to which the writer's writes come before. The writer of key `w` at scope `c` stands at `8 * w + c`; scope 5 says that the
strand has itself observed a command's completion. -/
abbrev View := Table Nat

/-- The kinds of outstanding operation (R151): a long-latency operation, a vector operation in the acceptance queue or the
pipeline, a relaxed access, an unprefixed access with lookahead. -/
inductive OutKind where
  | long | vector | relaxed | unprefixed
deriving DecidableEq, Repr

/-- An outstanding operation of a strand (R150, R151): its PC, what it will write when it completes, the flags it will raise, the
instructions left in its window, and the cycle of its completion. -/
structure OutOp where
  kind : OutKind
  pc : Word
  window : Nat
  doneAt : Nat
  flags : BitVec 6 := 0
  gw : List (BitVec 5 × Word) := []
  vw : List (BitVec 4 × Row) := []
  kw : List (BitVec 3 × Pred) := []
  access : Option Access := none
  /-- The elements of a vector access that are still to be performed (R378). -/
  elems : List (Nat × Access) := []
  /-- Registers it reads, which later instructions of the window may not overwrite (R151): general registers as 0–31, vector
  registers as 32–47, predicates as 48–55. -/
  reads : List Nat := []
deriving DecidableEq, Repr

/-- LB0, LE0, LC0, LB1, LE1, LC1 (R314). -/
structure Loops where
  lb0 : Word := 0
  le0 : Word := 0
  lc0 : Word := 0
  lb1 : Word := 0
  le1 : Word := 0
  lc1 : Word := 0
deriving DecidableEq, Repr

/-- A word of a joint's word set (R209): its place, its virtual address, the value its first JLD read and the value its last JST holds. -/
structure JointWord where
  loc : Loc
  va : Word := 0
  read : Option Word := none
  write : Option Word := none
deriving DecidableEq, Repr

/-- The joint of a strand and JSTAT (R209–R212). -/
structure Joint where
  isOpen : Bool := false
  /-- JCLOSE holds the locks of the word set (R210). -/
  locked : Bool := false
  commit : Bool := false
  code : BitVec 4 := 0
  words : List JointWord := []
deriving DecidableEq, Repr

/-- The open packet of a strand (R350). -/
structure Packet where
  dest : Nat
  cls : Nat
  tag : BitVec 32
  len : Nat
deriving DecidableEq, Repr

/-- The trap registers TVEC, TPC, TCAUSE, TVAL, TSTAT (R216). -/
structure TrapRegs where
  tvec : Word := 0
  tpc : Word := 0
  tcause : BitVec 7 := 0
  tval : Word := 0
  sstats : BitVec 15 := 0
  lact : BitVec 2 := 0
  ha : Bool := false
deriving DecidableEq, Repr

/-- A strand: the strand block of R231, its outstanding operations (R151), and the requests of the scheduler and the debugger. -/
structure Strand where
  state : StrandState := .inactive
  wait : Wait := .none
  /-- Contexts whose park queue has delivered an access of the instruction, which re-executes (R119; log 42). -/
  grant : List Nat := []
  /-- The wait a stop has cancelled, until the strand goes on (R122, R219). -/
  cut : Wait := .none
  /-- The cycle from which the strand may issue again (R149). -/
  readyAt : Nat := 0
  pc : Word := 0
  g : Table Word := []
  v : Table Row := []
  k : Table Pred := []
  loops : Loops := {}
  lstat : BitVec 2 := 0
  shadow : Loops := {}
  trap : TrapRegs := {}
  fflags : BitVec 6 := 0
  frm : BitVec 2 := 0
  fen : BitVec 6 := 0
  spbase : Word := 0
  splim : Word := 0
  spovf : Word := 0
  joint : Joint := {}
  packet : Option Packet := none
  out : List OutOp := []
  /-- WAITs that a trap has cancelled; they are reissued when the handler returns (R197; log 22). -/
  suspended : List OutOp := []
  held : Option (BitVec 8 × Word) := none
  pend : Option (BitVec 6) := none
  pendflags : BitVec 6 := 0
  stepk : BitVec 32 := 0
  arrived : Bool := false
  pegfreed : Bool := false
  haltReq : Bool := false
  stopReq : Bool := false
  /-- Stopped at its preemption point, or about to go on (R219). -/
  stopped : Bool := false
  stepi : Option (BitVec 6 × BitVec 32) := none
  skipBp : Bool := false
  slots : Table Nat := []
  /-- What its acquires have put before it (R73, R199). -/
  view : View := []
deriving DecidableEq, Repr

/-! ### Tile contexts -/

/-- A guard slot (R162). -/
inductive Guard where
  | unresolved | isFalse | isTrue
deriving DecidableEq, Repr

/-- The matrix lease (R168, R230). -/
structure Lease where
  holder : Option Nat := none
  pushes : Nat := 0
  waiters : BitVec 16 := 0
  /-- The previous holder, from which re-arbitration goes round. -/
  last : Nat := 0
deriving DecidableEq, Repr

/-- A word in an inbox: its bits, whether it is a header, and the command flags its dequeue still has to merge, with the strand
key of the issuer (R225, R353). -/
structure InWord where
  word : Word
  header : Bool
  merge : Option (Nat × BitVec 6) := none
  view : View := []
deriving DecidableEq, Repr

/-- A packet on its way: destination VTID and class, the sending strand, the payload so far, and its header once it has ended. -/
structure InPacket where
  dest : Nat
  cls : Nat
  sender : Nat
  words : List Word
  hdr : Option Word
  merge : Option (Nat × BitVec 6) := none
  /-- The cycle from which the end word has arrived (R443). -/
  readyAt : Nat := 0
  /-- It waits on the links, for room in a staging area of its class (R443). -/
  onLinks : Bool := false
  /-- What its dequeue acquires (R203). -/
  view : View := []
deriving DecidableEq, Repr

/-- A peg (R172). -/
structure Peg where
  expect : Nat := 0
  arrived : Nat := 0
  phase : BitVec 16 := 0
  refs : Nat := 0
  gen : BitVec 16 := 0
  live : Bool := false
  /-- What the arrivals of the phases that have ended have released, and those of the present phase (R174, R199). -/
  view : View := []
  coming : View := []
deriving DecidableEq, Repr

/-- A command in a queue register (R159, R161). -/
structure CmdEntry where
  word : BitVec 256
  guard : Option (BitVec 3)
  issuer : BitVec 4
  seq : Nat
  /-- The push raised the reference count of the peg it names (R175). -/
  counted : Bool := false
  /-- The cycle of the push and what the issuer's acquires had put before it (R73). -/
  pushedAt : Nat := 0
  view : View := []
  /-- Accesses of the issuer that were not performed at the push: strand, PC and completion cycle of each (R198). -/
  after : List (Nat × Word × Nat) := []
deriving DecidableEq, Repr

/-- A write of a word that a command has decided on and not yet performed (R200, R407): where, its bytes, and FEOP. -/
structure LateWrite where
  loc : Loc
  bytes : List Byte
  feop : Nat
  /-- The chunk it belongs to, among those in flight. -/
  chunk : Nat := 0
deriving DecidableEq, Repr

/-- A command an engine has started: its queue, progress, the flags raised so far, rows waiting for room in a result queue, and
what it has read but not yet used (R221, R230). -/
structure Running where
  entry : CmdEntry
  queue : Nat
  done : Nat := 0
  count : Nat := 0
  flags : BitVec 6 := 0
  buf : Nat := 0
  rows : List Row := []
  lut : BitVec 128 := 0
  waitSince : Option Nat := none
  /-- Since when the host has not answered the access a chunk waits at (R103, R410). -/
  hostSince : Option Nat := none
  /-- The context at whose gang a chunk waits (R119, R121, R410). -/
  waitsOn : Option Nat := none
  /-- Contexts whose park queue has delivered the chunk it waits at (R119, R410). -/
  grant : List Nat := []
  /-- Writes of the chunks in flight (R407). -/
  late : List LateWrite := []
  /-- The words a bank command has read, by word number: each is read once (R70). -/
  seen : Table (Option Word) := []
  /-- The order in which bank commands reached the units (R69). -/
  order : Nat := 0
  /-- The address at which a bank command has failed, while the rows before wait for room (R72). -/
  failed : Option Word := none
deriving DecidableEq, Repr

/-- A completion an engine has posted and the inbox has not yet admitted (R158). -/
structure Completion where
  queue : Nat
  hdr : Word
  status : Word
  detail : Word
  merge : Option (Nat × BitVec 6) := none
  view : View := []
  /-- When it was posted: completions and packets of class 7 enter in arrival order (R155). -/
  postedAt : Nat := 0
deriving DecidableEq, Repr

/-- A latched weight tile (R165, R401): format, sparsity, logical depth K, the lut4 table it was converted with, and the weight row
of each result column; `none` is a column of absent weights. -/
structure WeightBuf where
  fmt : BitVec 4 := 1
  sparse : BitVec 2 := 0
  k : Nat := 64
  lut : BitVec 128 := 0
  cols : Table (Option Row) := []
deriving DecidableEq, Repr

/-- The kind of an accumulator row (R166). -/
inductive AccKind where
  | fp32 | fp64 | residue
deriving DecidableEq, Repr

/-- An accumulator entry: the fp32 sum or half an fp64 sum or a residue triple r1, r2, r3 at bits 0, 11 and 22, the present
count, and whether a count has been lost to saturation (R166, R267). -/
structure AccEntry where
  sum : BitVec 34 := 0
  count : Nat := 0
  lost : Bool := false
deriving DecidableEq, Repr

/-- A tile context: the tile block of R230 and its scratchpad. -/
structure Ctx where
  live : Bool := false
  retired : Bool := false
  turns : Word := 0
  movedAt : Option Nat := none
  activity : Nat := 0
  mcb : BitVec 32 := 0
  ashape : BitVec 4 := 0xF
  guards : Table Guard := []
  /-- What the GSET that resolved a slot releases and is not performed yet (R163). -/
  guardAfter : Table (List (Nat × Word × Nat)) := []
  lease : Lease := {}
  tbl4 : BitVec 128 := 0
  inbox : Table (List InWord) := []
  rest : Table Nat := []
  staging : List InPacket := []
  inflight : List InPacket := []
  pegs : Table Peg := []
  cmds : Table (List CmdEntry) := []
  rows : Table (List Row) := []
  running : List Running := []
  posted : List Completion := []
  pushSeq : Nat := 0
  trussSeq : Nat := 0
  trussBuf : List Row := []
  wbuf : Table WeightBuf := []
  active : Nat := 0
  fresh : Bool := false
  acc : Table AccEntry := []
  kinds : Table AccKind := []
  kmax : Nat := 0
  locks : List Nat := []
  vq : List Nat := []
  spm : Table Byte := []
  spfe : Table Bool := []
  hist : Table Nat := []
  pctable : Table (Word × Nat × Nat) := []
deriving DecidableEq, Repr

/-! ### Gangs and jobs -/

/-- The states of a gang (R111). -/
inductive GangState where
  | pending | loading | resident | stopping | swapped | recovering | retired
deriving DecidableEq, Repr

/-- A request waiting at a memory word or at a park queue: the strand and its access (R119, R206). -/
structure WaitReq where
  key : Nat
  acc : Access
deriving DecidableEq, Repr

/-- An entry of a park queue (R118, R225): a packet, a tile-window access, one that is part of an instruction which then re-executes, a
chunk of a command (R410), or an engine arrival on a peg. -/
inductive ParkEntry where
  | packet (p : InPacket)
  | access (dest : Nat) (r : WaitReq)
  | again (dest key : Nat)
  | chunk (dest ctx queue seq : Nat)
  | arrival (dest idx : Nat) (view : View)
deriving DecidableEq, Repr

/-- A copy of the state of a gang's contexts and strands: a buddy image or a part of a SAVE image (R139, R228). -/
structure Image where
  mark : Nat := 0
  ctxs : Table Ctx := []
  strands : Table Strand := []
  energy : Nat := 0
  sat : Bool := false
deriving DecidableEq, Repr

/-- Why a gang is stopping (R116, R219). -/
inductive StopReason where
  | swap | doubleTrap | thermal | save
deriving DecidableEq, Repr

/-- A gang (R111, R118, R122, R139, R245). -/
structure Gang where
  state : GangState := .pending
  reason : StopReason := .swap
  /-- In ticks; before the last bring-up below 0 (R144). -/
  eligibleAt : Option Int := none
  residentAt : Nat := 0
  turnsResident : Nat := 0
  blockedSince : Option Nat := none
  first : Bool := false
  park : List ParkEntry := []
  parkAlloc : Bool := false
  /-- The counter with every charge, and as of its last update (R245, R250), each with its saturation. -/
  energy : Nat := 0
  sat : Bool := false
  shown : Nat := 0
  shownSat : Bool := false
  mark : Nat := 0
  slots : Table Image := []
  frozen : Bool := false
  /-- Past MINRES since it became resident (R124). -/
  pastMinres : Bool := false
  /-- The tenant for whose waiting gang it is being swapped out (R124, R129). -/
  leavesFor : Option Nat := none
  /-- Since when its load, or the rest of its swap-out, runs (R116). -/
  since : Nat := 0
  /-- Energy spent after the mark a rollback went back to (R142). -/
  spent : Nat := 0
  /-- It held tiles when step recovery began (R141). -/
  heldTiles : Bool := false
deriving DecidableEq, Repr

/-- An entry of a job's translation table (R108). -/
structure XltEntry where
  ptid : Nat := 0
  res : Bool := false
  move : Bool := false
  drain : Bool := false
  done : Bool := false
deriving DecidableEq, Repr

/-- Where a job came from: a LAUNCH record, a strand's LNCH, another module's ARM (R99–R102). -/
inductive Origin where
  | host (q seq epoch : Nat)
  | strand (key : Nat)
  | remote (peer : Nat)
deriving DecidableEq, Repr

/-- The life of a job (R99, R102, R145): armed on a peer or waiting for acknowledgements, live, ended. -/
inductive JobPhase where
  | none | arming | armed | live | ended
deriving DecidableEq, Repr

/-- A breakpoint slot of a job (R240, R243). -/
structure Breakpoint where
  slot : Nat
  addr : Word
  vtid : Option Nat
deriving DecidableEq, Repr

/-- A job: its launch record (R98) and everything the scheduler keeps for it (R99–R112, R126, R139). -/
structure Job where
  phase : JobPhase := .none
  record : BitVec 1024 := 0
  tenant : Nat := 0
  origin : Origin := .host 0 0 0
  g : Nat := 0
  xlt : Table XltEntry := []
  gangs : Table Gang := []
  discards : Nat := 0
  progress : Nat := 0
  bps : List Breakpoint := []
  /-- Profile buffer address, length and records written since PROFON, while profiling is on (R237). -/
  prof : Option (Word × Nat × Nat) := none
  /-- Peers that still owe an ARM-ACK, or a stop confirmation (R102, R145). -/
  owed : BitVec 64 := 0
  armAt : Nat := 0
  /-- The modules for whose SAVE it is stopped, stopped until a RESTORE by a SAVE of this one with HALT (R96, R145), and the modules that have asked
  and await its confirmation. -/
  holds : BitVec 64 := 0
  halted : Bool := false
  savers : List Nat := []
  /-- A restored part that issues nothing until GO (R145). -/
  restored : Bool := false
  /-- The coordinator's handle, in a part of a job of another module. -/
  remote : Nat := 0
  /-- The modules that run gangs this one does not run (R102; log 44). -/
  away : Table (Option Nat) := []
  /-- Where its buddy slots lie, in bytes below the limit of entry BUDSEL (R140; log 45). -/
  budOff : Nat := 0
  /-- Modules whose mark a rollback still needs (R141). -/
  rollOwed : BitVec 64 := 0
deriving DecidableEq, Repr

/-- A published object (R303, R328): tenant, base as va[48:0], length, bytes of code, versions, digest. -/
structure Published where
  tenant : Nat
  base : Nat
  length : Nat
  codesz : Nat
  major : Nat
  minor : Nat
  digest : BitVec 256
deriving DecidableEq, Repr

/-! ### Tiles -/

/-- A line of an instruction cache (R176, R177): tenant and address, the bytes of its last fill, whether it is locked, and the time of
its last use. -/
structure CacheLine where
  tenant : Nat
  addr : Nat
  bytes : BitVec 2048
  locked : Bool
  used : Nat
deriving DecidableEq, Repr

/-- An entry of a translation cache (R190): tenant, level of the leaf, virtual page number, and the leaf. -/
structure TlbEntry where
  tenant : Nat
  level : Nat
  page : Nat
  leaf : Word
deriving DecidableEq, Repr

/-- A translation cache (R190): its entries, and the cycle of the last translation fence that covered its walks (R191). -/
structure Tlb where
  entries : List TlbEntry := []
  fencedAt : Nat := 0
deriving DecidableEq, Repr

/-- A tile (R28, R50, R53, R82, R176, R190, R248). -/
structure Tile where
  code : BitVec 4 := 0
  ric : BitVec 5 := 1
  temp : Int := 40
  /-- Since when the conditions for raising and for lowering RIC hold, or since its last step under them (R50). -/
  hotSince : Option Nat := none
  coolSince : Option Nat := none
  emergency : Bool := false
  ce : BitVec 16 := 0
  lastUnit : BitVec 4 := 0
  therm : BitVec 8 := 0
  /-- The corrected errors of each unit, by time (R80): by kind, and above it by bank or band. -/
  errs : Table (List Nat) := []
  pj : Nat := 0
  icache : List CacheLine := []
  tlb : Tlb := {}
  /-- The VTIDs whose entries the network interface caches; what it holds of them is the table's, by the invalidations of R109. -/
  vtids : List Nat := []
  usedBy : Option Nat := none
deriving DecidableEq, Repr

/-! ### The device -/

/-- An entry of the address range table (R58). -/
structure RangeEntry where
  valid : Bool := false
  err : Bool := false
  gran : BitVec 4 := 0
  base : BitVec 26 := 0
  limit : BitVec 26 := 0
  stackSet : BitVec 48 := 0
  sbase : BitVec 20 := 0
deriving DecidableEq, Repr

/-- The corrected errors of a row, by time (R77, R78): of the cells that hold it now, and before it was last retired. -/
structure RowErrors where
  now : List Nat := []
  before : List Nat := []
deriving DecidableEq, Repr

/-- A stack's counters and lists (R77–R81). Lines are named by their line number in the stack. -/
structure Stack where
  ce : BitVec 24 := 0
  ue : BitVec 12 := 0
  retired : BitVec 12 := 0
  spareout : Bool := false
  hotovf : Bool := false
  /-- The quadrant has lost its last rim port after READY (R27). -/
  dark : Bool := false
  /-- The rows of the hot list, and the errors of every row. -/
  hot : List Nat := []
  errs : Table RowErrors := []
  /-- Lines with an uncorrectable error. -/
  bad : List Nat := []
  poisoned : List Nat := []
  /-- The rows retired, one entry for each spare row used. -/
  retiredRows : List Nat := []
deriving DecidableEq, Repr

/-- An accepted host record that has not completed (R87, R90): its number since EN, its 64 bytes, whether and when it has started, the
bytes a COPY has moved, and the time from which a running WAIT reads again. -/
structure HostRecord where
  index : Nat
  /-- The time its queue had EN set, counted (R85). -/
  epoch : Nat := 0
  bytes : BitVec 512
  started : Bool := false
  startAt : Nat := 0
  moved : Nat := 0
  nextAt : Nat := 0
  /-- Since when the host has not answered an access of the record, in core cycles (R103). -/
  hostSince : Option Nat := none
  /-- A DBG record has been forwarded, and its part here is done; modules that still owe an answer, and what the others have answered (R244). -/
  asked : Bool := false
  answered : Bool := false
  owed : BitVec 64 := 0
  sum : Nat := 0
  /-- The queue and number of a DBG record that another module has forwarded. -/
  reply : Nat × Nat := (0, 0)
deriving DecidableEq, Repr

/-- A host command queue (R84–R90). -/
structure HostQueue where
  en : Bool := false
  /-- How often EN has been set. -/
  epoch : Nat := 0
  loc : Bool := false
  size : BitVec 4 := 0
  err : Bool := false
  stop : Bool := false
  port : BitVec 2 := 0
  ten : BitVec 4 := 0
  pfq : Bool := false
  vec : BitVec 11 := 0
  rbase : BitVec 58 := 0
  cbase : BitVec 59 := 0
  notify : BitVec 32 := 0
  head : BitVec 32 := 0
  ctail : BitVec 32 := 0
  /-- Since when record HEAD has been fetched with a wrong CHK (R87). -/
  badSince : Option Nat := none
  /-- NOTIFY was written before READY (R44). -/
  latched : Bool := false
  /-- The time from which record HEAD is fetched again (R87). -/
  fetchAt : Nat := 0
  records : List HostRecord := []
deriving DecidableEq, Repr

/-- The values a TENANT record sets (R92, R127). -/
structure TenantSet where
  min : Nat := 0
  /-- `none` is STATUS.POOL, the value before any TENANT record (R127). -/
  max : Option Nat := none
  prioCap : Nat := 7
  service : Nat := 0
  mask : BitVec 16 := 0xFFFF
  root : Word := 0
deriving DecidableEq, Repr

/-- A tenant (R127, R128): the values in effect, the record waiting to take effect, the stretches of time in which it held tiles, each with its
start, end and tiles, newest first, and the tile-ticks delivered in the last second as of the last turn boundary. -/
structure Tenant where
  set : TenantSet := {}
  pending : Option TenantSet := none
  delivered : List (Int × Int × Nat) := []
  lastSecond : Nat := 0
deriving DecidableEq, Repr

/-- A fault record (R222). -/
structure FaultRecord where
  cause : BitVec 8
  kind : BitVec 8
  strand : BitVec 8
  vtid : BitVec 16
  handle : Word
  tval : Word
  pc : Word
deriving DecidableEq, Repr

/-- A tenant's fault ring (R222) and the records waiting for room in it. -/
structure FaultRing where
  en : Bool := false
  loc : Bool := false
  port : BitVec 2 := 0
  size : BitVec 4 := 0
  vec : BitVec 11 := 0
  fbase : BitVec 59 := 0
  ftail : BitVec 32 := 0
  fhead : BitVec 32 := 0
  waiting : List FaultRecord := []
deriving DecidableEq, Repr

/-- The scheduler parameters (R130). -/
structure SchedParams where
  idleswap : BitVec 16 := 20
  quantum : BitVec 8 := 8
  minres : BitVec 24 := 2000
  turnlen : BitVec 32 := 0x00400000
  thot : BitVec 8 := 92
  tcool : BitVec 8 := 80
  roten : Bool := true
  pqsize : BitVec 16 := 64
  wdog : BitVec 32 := 1000
  schbase : BitVec 26 := 0x2E80000
  schlim : BitVec 26 := 0x3000000
deriving DecidableEq, Repr

/-- The scheduler's counters and its parameters in effect and as written (R130, R131). -/
structure Sched where
  eff : SchedParams := {}
  written : SchedParams := {}
  moves : BitVec 32 := 0
  swaps : BitVec 32 := 0
  tfaults : BitVec 32 := 0
  turn : Nat := 0
  lastTurn : Nat := 0
  rotationAborts : Nat := 0
  /-- Tiles the scheduler prefers when it places a gang; any free tile may be taken (R123). -/
  placeOrder : List Nat := []
deriving DecidableEq, Repr

/-- A context move in progress (R134): the context, its old and new tile. -/
structure Move where
  ctx : Nat
  old : Nat
  new : Nat
  other : Option Nat
deriving DecidableEq, Repr

/-- STATUS (R34); CAPPED is computed from the tiles. -/
structure Status where
  ready : Bool := false
  fwerr : Bool := false
  calerr : Bool := false
  underbin : Bool := false
  pwrfail : Bool := false
  coolfault : Bool := false
  pstate : BitVec 3 := 0
  bin : BitVec 2 := 0
  pool : BitVec 11 := 0
deriving DecidableEq, Repr

/-- What a mailbox request comes to (R40): done, UNKNOWN, or not accepted in the management-only state (R39). -/
inductive MailStatus where
  | done | unknown | notAccepted
deriving DecidableEq, Repr

/-- A mailbox request (R40): its code, 0 for one of no meaning, and its arguments. -/
structure MailRequest where
  code : Nat
  value : Word := 0
  nonce : BitVec 256 := 0
  image : FirmwareSlot := ⟨false, 0, [], []⟩
deriving DecidableEq, Repr

/-- The mailbox of Laroon (R40): the request in progress while the doorbell reads 1, the status, and the reply as 64-bit words. -/
structure Mailbox where
  busy : Option MailRequest := none
  status : MailStatus := .done
  reply : List Word := []
deriving DecidableEq, Repr

/-- The management controller (R39–R41). At reset both slots verify, hold version 1 and image digests of 0: the model's choice (log 6). -/
structure Laroon where
  slotA : FirmwareSlot := ⟨true, 1, [1, 1, 1, 1], [0, 0, 0, 0]⟩
  slotB : FirmwareSlot := ⟨true, 1, [1, 1, 1, 1], [0, 0, 0, 0]⟩
  rollback : Nat := 1
  /-- The slot that runs: 1 for A, 2 for B, none before step 1 or after both failed. -/
  slot : Option Nat := none
  /-- Slots written since power-up. -/
  stagedA : Option FirmwareSlot := none
  stagedB : Option FirmwareSlot := none
  mailbox : Mailbox := {}
  serial : BitVec 128 := 0
deriving DecidableEq, Repr

/-- Power control (R22–R24, R46–R53, R95): the cap, module power, the tolerance of each function, when the part became idle, the cycle
from which it issues again after a wake event, and the whole microseconds whose static energy is charged (R247). -/
structure Power where
  cap : Nat := 28000
  power : Nat := 0
  tolerance : Table Nat := []
  idleSince : Option Nat := none
  awakeAt : Nat := 0
  charged : Nat := 0
deriving DecidableEq, Repr

/-- A PCIe port (R31, R33, R40): up, trained width, trained rate in GT/s. Port 0 is always up (R44). -/
structure HostPort where
  up : Bool := false
  width : Nat := 16
  rate : Nat := 64
deriving DecidableEq, Repr

/-- An Eoven link port (R35, R37): good lanes, trained, replays asked for. -/
structure Link where
  lanes : Nat := 8
  up : Bool := false
  replays : Nat := 0
deriving DecidableEq, Repr

/-- What modules send each other (R37, R102, R141, R145, R244): control messages on channel 3, a packet on channel 2, a write or a read of rim
memory on channel 0 and what was read on channel 1. The last control messages carry what the spec has modules know of each other without naming a message (log 44). -/
inductive CtlMsg where
  | arm (handle : Nat) (record : BitVec 1024)
  | armSaved (handle : Nat)
  | armAck (handle : Nat)
  | armNak (handle : Nat) (status : BitVec 8)
  | go (handle : Nat)
  | cancel (handle : Nat)
  | stop (handle : Nat)
  | confirm (handle : Nat)
  /-- A DBG record of a queue, and the answer to it (R244). -/
  | debug (handle queue seq : Nat) (record : BitVec 512)
  | debugReply (queue seq status value : Nat)
  /-- Step recovery starts, and the highest mark that the sender's own gangs have all completed (R141). -/
  | rollback (handle mark : Nat)
  /-- A gang has completed a mark, and its image (R139, R140). -/
  | marked (handle gang mark : Nat)
  | image (handle gang mark : Nat) (image : Image)
  /-- A gang has retired; a job has ended with a status and cause (R100, R107). -/
  | retired (handle gang : Nat)
  | ended (handle status cause : Nat)
  | packet (handle : Nat) (p : InPacket)
  | store (addr : Nat) (bytes : List Byte)
  | fetch (addr size tag : Nat)
  | data (tag : Nat) (bytes : List Byte)
deriving DecidableEq, Repr

/-- A flit this module has sent (R36–R38): the peer, the port, its sequence number among those of its virtual channel to that peer, and what it
carries. -/
structure Flit where
  peer : Nat
  port : Option Nat
  seq : Nat
  load : CtlMsg
deriving DecidableEq, Repr

/-- What the outside world, the scheduler or a host record supplies with an event; each event reads the fields its rule names. -/
structure Input where
  /-- A strand key. -/
  key : Nat := 0
  /-- The place of an outstanding operation of that strand, oldest first; of a record, the epoch of its queue; of a mailbox request, 0 as it is
  written and 1 as it is answered. -/
  idx : Nat := 0
  /-- A context key. -/
  ctx : Nat := 0
  /-- A message class, or the queue of an engine. -/
  cls : Nat := 0
  handle : Nat := 0
  gang : Nat := 0
  ptid : Nat := 0
  port : Nat := 0
  peer : Nat := 0
  tenant : Nat := 0
  stack : Nat := 0
  line : Nat := 0
  err : LineError := .none
  queue : Nat := 0
  /-- The record's number since EN, as in its completion (R86). -/
  seq : Nat := 0
  /-- The 64 bytes of a host record. -/
  record : BitVec 512 := 0
  fn : HostFn := ⟨0, none⟩
  off : BitVec 20 := 0
  value : Word := 0
  status : BitVec 8 := 0
  nonce : BitVec 256 := 0
  launch : BitVec 1024 := 0
  flit : BitVec 2048 := 0
  /-- What a flit carries (R37). -/
  load : Option CtlMsg := none
  image : FirmwareSlot := ⟨false, 0, [], []⟩
  /-- An ARM names a saved job (R145). -/
  saved : Bool := false
  /-- Readings of the sensors: tiles and their temperatures, module power in W (R50, R53; log 6). -/
  sense : List (Nat × Int) := []
  watts : Option Nat := none
deriving DecidableEq, Repr

/-- A peer module as this module sees it (R37, R38): in the route table, the ports listed, time of the last flit, lost, and the next sequence
number expected on each virtual channel from it. -/
structure Peer where
  routed : Bool := false
  ports : List Nat := []
  seqs : Table Nat := []
  lastFlit : Nat := 0
  lost : Bool := false
deriving DecidableEq, Repr

/-- A write of a word, as far as some reader may not see it yet: of rim memory (R73, R74, R190), or of a command (R199, R200). Who wrote it and
in which cycle, the value it replaced, the fences that cover it, each with the fencing strand, its cycle and its scope, and the strands
whose loads no longer show the value it replaced. -/
structure BankWrite where
  /-- The writer's key: twice a strand key, or an odd number for a command or the host. -/
  writer : Nat
  cycle : Nat
  /-- Written by a bank unit, or by another engine for a command. -/
  unit : Bool
  engine : Bool := false
  old : Word
  /-- A later write of another party has overtaken it: every load shows it (R193, R200). -/
  shown : Bool := false
  covered : List (Nat × Nat × Nat) := []
  past : List Nat := []
deriving DecidableEq, Repr

/-- An error that arises in a line of a stack: the cycle from which it is there, the stack, the line, and what ECC finds (R75). -/
structure Flaw where
  since : Nat
  stack : Nat
  line : Nat
  err : LineError
deriving DecidableEq, Repr

/-- Host addresses that no completion answers, or that one answers with unsupported request or completer abort, from a cycle on (R103). -/
structure HostHole where
  since : Nat
  port : Nat
  base : Nat
  size : Nat
  silent : Bool
deriving DecidableEq, Repr

/-- A write of the host to its memory or, inbound, to rim memory (R31, R86): where, its bytes, its relaxed-ordering attribute, and the cycle from
which it may be performed. -/
structure HostWrite where
  since : Nat
  loc : Loc
  bytes : List Byte
  relaxed : Bool
deriving DecidableEq, Repr

/-- What the outside world does that no event stands for (log 6): the outcome of the self-calibration and of the in-field tile test (R28,
R42), the system description (R38), the errors that arise in memory (R75), and the host's reads of BAR0 (R83). -/
structure Surroundings where
  calFail : Bool := false
  tileTest : List (Nat × BitVec 4) := []
  /-- The system description: this module's peer id, and for each peer the ports to it, up to 4 (R38). -/
  self : Nat := 0
  routes : List (Nat × List Nat) := []
  /-- The gangs of jobs of several modules that other modules run, by number (R102; log 44). -/
  homes : List (Nat × Nat) := []
  /-- Writes of the host, in the order in which it posts them. -/
  writes : List HostWrite := []
  /-- How the host answers (R103). -/
  holes : List HostHole := []
  /-- Errors nobody has found yet. -/
  flaws : List Flaw := []
  /-- Cycle, function and offset of each read of BAR0. -/
  reads : List (Nat × HostFn × BitVec 20) := []
deriving DecidableEq, Repr

/-- A SAVE image (R96, R144, R232): where it was written and what it captured. -/
structure Saved where
  tenant : Nat
  addr : Word
  length : Nat
  version : FirmwareSlot
  /-- The time of the SAVE, in ticks. -/
  tick : Nat
  jobs : Table Job
  ctxs : Table Ctx
  strands : Table Strand
  hq : Table HostQueue
  range : Table RangeEntry
  tenants : Table Tenant
  fault : Table FaultRing
  sched : Sched
  published : List Published
  peers : Table Peer
  digest : BitVec 256
deriving DecidableEq, Repr

/-- The next thing a step does: let the focused strand use its slot, or let the part's own machinery act. -/
inductive Phase where
  | slot | machinery
deriving DecidableEq, Repr

/-- The state of the part. The last group of fields is the model's own (log 1). -/
structure State where
  cycle : Nat := 0
  ticks : Nat := 0
  boot : Nat := 0
  bootStopped : Bool := false
  status : Status := {}
  strands : Table Strand := []
  ctxs : Table Ctx := []
  jobs : Table Job := []
  tiles : Table Tile := []
  published : List Published := []
  rim : Table Byte := []
  rimfe : Table Bool := []
  hostMem : Table Byte := []
  peerMem : Table Byte := []
  waiters : List WaitReq := []
  /-- The writes that some reader may not see yet, by word, oldest first (R73, R74, R190, R199). -/
  unfenced : Table (List BankWrite) := []
  /-- What a word's last release has released, by word (R73). -/
  released : Table View := []
  range : Table RangeEntry := []
  stackTab : Table Stack := []
  hq : Table HostQueue := []
  tenants : Table Tenant := []
  cpTlb : Tlb := {}
  fault : Table FaultRing := []
  sched : Sched := {}
  moves : List Move := []
  overhead : Nat := 0
  power : Power := {}
  laroon : Laroon := {}
  links : Table Link := []
  ports : Table HostPort := []
  peers : Table Peer := []
  /-- The flits sent, oldest first: what a peer asks to have again is in it (R37). -/
  sent : List Flit := []
  msix : List (Nat × Option Nat × Nat) := []
  /-- Bank commands that have reached the units (R69). -/
  bankSeq : Nat := 0
  /-- The cycle of the last interrupt for an error event (R83). -/
  rasAt : Option Nat := none
  saved : List Saved := []
  nextHandle : Nat := 1
  powerLost : Bool := false
  env : Surroundings := {}
  /-- What comes from outside: events with the cycle from which each happens. -/
  agenda : List (Nat × Instr × Input) := []
  /-- The values of the event being applied. -/
  input : Input := {}
  phase : Phase := .slot
  focus : Nat := 0
  free : Nat := 0
deriving DecidableEq, Repr

/-- The reasons for which the machine stops. -/
inductive Fault where
  /-- Raised by `step` alone, when the supply has failed (R23) and power has not been cycled: the part has stopped every strand and
  does nothing more. Safe: the spec has nothing happen there. -/
  | powerLost
deriving DecidableEq, Repr

/-- The reasons for which an instruction has no meaning in the model. -/
inductive Refusal where
  /-- Raised by `exec` for an instruction whose meaning is not written yet. Safe: nothing is claimed of it. -/
  | notModelled (mnemonic : String)
deriving DecidableEq, Repr

/-- The part at power-up, before bring-up: every field at the Reset value of its rule, or at the value the log names. -/
def State.reset : State := {}

end Sys2Proof.Machine
end

