-- ==== Sys2Proof/Machine/Get.lean ====
section
/-! DEFINITION. Names and accessors: keys of strands and contexts, the fields of the launch record (R98), registers (R152), and reads
and writes of each table of the state. Every read and write of a register goes through these. -/

namespace Sys2Proof.Machine

/-! ### Keys -/

/-- The context of a handle and a VTID. -/
def ctxKey (handle vtid : Nat) : Nat := handle * 65536 + vtid

def jobOf (ctx : Nat) : Nat := ctx / 65536
def vtidOf (ctx : Nat) : Nat := ctx % 65536

/-- The context of a strand and its index STRID (R146). -/
def ctxOf (key : Nat) : Nat := key / 16
def stridOf (key : Nat) : Nat := key % 16
def strandKey (ctx i : Nat) : Nat := 16 * ctx + i

/-! ### Tables of the state -/

def State.strand (s : State) (k : Nat) : Strand := tableGet {} s.strands k
def State.setStrand (s : State) (k : Nat) (v : Strand) : State := { s with strands := tableSet {} s.strands k v }
def State.modStrand (s : State) (k : Nat) (f : Strand → Strand) : State := s.setStrand k (f (s.strand k))

def State.ctx (s : State) (c : Nat) : Ctx := tableGet {} s.ctxs c
def State.setCtx (s : State) (c : Nat) (v : Ctx) : State := { s with ctxs := tableSet {} s.ctxs c v }
def State.modCtx (s : State) (c : Nat) (f : Ctx → Ctx) : State := s.setCtx c (f (s.ctx c))

def State.job (s : State) (h : Nat) : Job := tableGet {} s.jobs h
def State.setJob (s : State) (h : Nat) (v : Job) : State := { s with jobs := tableSet {} s.jobs h v }
def State.modJob (s : State) (h : Nat) (f : Job → Job) : State := s.setJob h (f (s.job h))

def State.tile (s : State) (p : Nat) : Tile := tableGet {} s.tiles p
def State.setTile (s : State) (p : Nat) (v : Tile) : State := { s with tiles := tableSet {} s.tiles p v }
def State.modTile (s : State) (p : Nat) (f : Tile → Tile) : State := s.setTile p (f (s.tile p))

def State.stack (s : State) (n : Nat) : Stack := tableGet {} s.stackTab n
def State.setStack (s : State) (n : Nat) (v : Stack) : State := { s with stackTab := tableSet {} s.stackTab n v }
def State.modStack (s : State) (n : Nat) (f : Stack → Stack) : State := s.setStack n (f (s.stack n))

def State.queue (s : State) (q : Nat) : HostQueue := tableGet {} s.hq q
def State.setQueue (s : State) (q : Nat) (v : HostQueue) : State := { s with hq := tableSet {} s.hq q v }
def State.modQueue (s : State) (q : Nat) (f : HostQueue → HostQueue) : State := s.setQueue q (f (s.queue q))

def State.ten (s : State) (n : Nat) : Tenant := tableGet {} s.tenants n
def State.setTen (s : State) (n : Nat) (v : Tenant) : State := { s with tenants := tableSet {} s.tenants n v }
def State.modTen (s : State) (n : Nat) (f : Tenant → Tenant) : State := s.setTen n (f (s.ten n))

def State.ring (s : State) (n : Nat) : FaultRing := tableGet {} s.fault n
def State.setRing (s : State) (n : Nat) (v : FaultRing) : State := { s with fault := tableSet {} s.fault n v }
def State.modRing (s : State) (n : Nat) (f : FaultRing → FaultRing) : State := s.setRing n (f (s.ring n))

def State.rangeEntry (s : State) (n : Nat) : RangeEntry := tableGet {} s.range n
def State.peer (s : State) (p : Nat) : Peer := tableGet {} s.peers p
def State.modPeer (s : State) (p : Nat) (f : Peer → Peer) : State := { s with peers := tableSet {} s.peers p (f (s.peer p)) }
def State.link (s : State) (p : Nat) : Link := tableGet {} s.links p
def State.modLink (s : State) (p : Nat) (f : Link → Link) : State := { s with links := tableSet {} s.links p (f (s.link p)) }

/-- A host port is up (R33, R44). -/
def State.hostPort (s : State) (p : Nat) : HostPort := tableGet {} s.ports p
def State.portUp (s : State) (p : Nat) : Bool := p == 0 || (s.hostPort p).up

def Job.gang (j : Job) (n : Nat) : Gang := tableGet {} j.gangs n
def Job.setGang (j : Job) (n : Nat) (g : Gang) : Job := { j with gangs := tableSet {} j.gangs n g }
def State.gang (s : State) (h n : Nat) : Gang := (s.job h).gang n
def State.modGang (s : State) (h n : Nat) (f : Gang → Gang) : State := s.modJob h (fun j => j.setGang n (f (j.gang n)))
/-- The gang is eligible from now on, unless it already is (R122). -/
def Gang.nowEligible (g : Gang) (ticks : Nat) : Gang := { g with eligibleAt := match g.eligibleAt with | some t => some t | none => some (ticks : Int) }

def Job.entry (j : Job) (v : Nat) : XltEntry := tableGet {} j.xlt v
def Job.setEntry (j : Job) (v : Nat) (e : XltEntry) : Job := { j with xlt := tableSet {} j.xlt v e }

/-! ### The launch record (R98) -/

def recX (r : BitVec 1024) : Nat := natAt 192 16 r + 1
def recY (r : BitVec 1024) : Nat := natAt 208 16 r + 1
def recTiles (r : BitVec 1024) : Nat := recX r * recY r
def recBuddy (r : BitVec 1024) : Bool := bitAt 16 r
def recMulti (r : BitVec 1024) : Bool := bitAt 17 r
def recCode (r : BitVec 1024) : Word := fieldAt 64 64 r
def recEntry (r : BitVec 1024) : Nat := natAt 128 32 r
def recSmask (r : BitVec 1024) : BitVec 16 := fieldAt 160 16 r
def recGlog (r : BitVec 1024) : Nat := natAt 224 8 r
def recFanout (r : BitVec 1024) : Nat := natAt 232 8 r
def recPrio (r : BitVec 1024) : Nat := natAt 240 8 r
def recTen (r : BitVec 1024) : Nat := natAt 248 8 r
def recExtent (r : BitVec 1024) : Nat := natAt 256 32 r
def recSpill (r : BitVec 1024) : Nat := natAt 288 32 r
def recMcb (r : BitVec 1024) : BitVec 32 := fieldAt 320 32 r
def recArg (r : BitVec 1024) : Word := fieldAt 384 64 r
def recOvf (r : BitVec 1024) : Word := fieldAt 448 64 r
def recOvfStride (r : BitVec 1024) : Nat := natAt 512 32 r
def recEnergy (r : BitVec 1024) : BitVec 32 := fieldAt 544 32 r
def recBudsel (r : BitVec 1024) : Nat := natAt 576 8 r
def recPeers (r : BitVec 1024) : BitVec 64 := fieldAt 640 64 r
def recUser (r : BitVec 1024) : Word := fieldAt 704 64 r

/-- EXTENT of the job of a context. -/
def State.extent (s : State) (ctx : Nat) : Nat := recExtent (s.job (jobOf ctx)).record

/-- G of a job, at least 1 (R105: 0 while it is not fixed). -/
def Job.size (j : Job) : Nat := Nat.max 1 j.g

/-- The number of gangs, and of contexts of a gang (R106). -/
def Job.gangCount (j : Job) : Nat := (recTiles j.record + j.size - 1) / j.size
def Job.members (j : Job) (n : Nat) : Nat := Nat.min j.size (recTiles j.record - n * j.size)

/-- The gang of a context (R106). -/
def State.gangNo (s : State) (ctx : Nat) : Nat := vtidOf ctx / (s.job (jobOf ctx)).size
def State.gangOf (s : State) (ctx : Nat) : Gang := s.gang (jobOf ctx) (s.gangNo ctx)

/-- The context keys of a gang, in increasing VTID order. -/
def State.members (s : State) (h n : Nat) : List Nat :=
  let j := s.job h
  (List.range (j.members n)).map (fun i => ctxKey h (n * j.size + i))

/-- The module that runs a context, where it is not this one (R102; log 44). -/
def State.awayAt (s : State) (ctx : Nat) : Option Nat := tableGet none (s.job (jobOf ctx)).away (s.gangNo ctx)

/-- A job is stopped for a SAVE (R96, R145). -/
def Job.saveHalted (j : Job) : Bool := j.holds != 0#64 || j.halted

/-- The name of a job among modules: its coordinator's peer id above the coordinator's handle. -/
def State.jobName (s : State) (h : Nat) : Nat :=
  match (s.job h).origin with
  | .remote p => p * 18446744073709551616 + (s.job h).remote
  | _ => s.env.self * 18446744073709551616 + h

/-- The peers of a mask. -/
def peerList (m : BitVec 64) : List Nat := (List.range 64).filter (fun p => bitAt p m)

/-- The other modules of a job: the peers of its record but this module, and in a part the coordinator (R102, R140). -/
def State.othersOf (s : State) (h : Nat) : BitVec 64 :=
  let j := s.job h
  if !recMulti j.record then 0#64
  else match j.origin with
    | .remote p => (recPeers j.record ||| (1#64 <<< p)) &&& ~~~(1#64 <<< s.env.self)
    | _ => recPeers j.record &&& ~~~(1#64 <<< s.env.self)

/-- The channel a message travels on (R37). -/
def CtlMsg.channel (m : CtlMsg) : Nat :=
  match m with
  | .store _ _ => 0
  | .fetch _ _ _ => 0
  | .data _ _ => 1
  | .packet _ _ => 2
  | _ => 3

/-- The VTID a message comes from, by which traffic spreads over the ports to a peer (R38); 0 for one of no context. -/
def CtlMsg.source (m : CtlMsg) : Nat :=
  match m with
  | .packet _ p => vtidOf (ctxOf p.sender)
  | _ => 0

/-- The flit that takes a message to a peer, after those sent (R36–R38). -/
def State.flitTo (s : State) (sent : List Flit) (p : Nat) (m : CtlMsg) : Flit :=
  let ports := (tableGet {} s.peers p).ports
  { peer := p, port := ports[Config.spread m.source % ports.length]?
    seq := (sent.filter (fun f => f.peer == p && f.load.channel == m.channel)).length, load := m }

/-- Send a message to peers (R37, R102). -/
def State.sendCtl (s : State) (ps : List Nat) (m : CtlMsg) : State :=
  { s with sent := ps.foldl (fun l p => l ++ [s.flitTo l p m]) s.sent }

/-- The tile that hosts a context (R108). -/
def State.ptid (s : State) (ctx : Nat) : Nat := ((s.job (jobOf ctx)).entry (vtidOf ctx)).ptid

/-! ### Registers (R152) -/

def Strand.rg (st : Strand) (r : BitVec 5) : Word := if r = 0#5 then 0#64 else tableGet 0#64 st.g r.toNat
def Strand.setG (st : Strand) (r : BitVec 5) (x : Word) : Strand :=
  if r = 0#5 then st else { st with g := tableSet 0#64 st.g r.toNat x }

def Strand.rv (st : Strand) (r : BitVec 4) : Row := tableGet 0#2048 st.v r.toNat
def Strand.setV (st : Strand) (r : BitVec 4) (x : Row) : Strand := { st with v := tableSet 0#2048 st.v r.toNat x }

def Strand.rk (st : Strand) (r : BitVec 3) : Pred := if r = 0#3 then BitVec.allOnes 256 else tableGet 0#256 st.k r.toNat
def Strand.setK (st : Strand) (r : BitVec 3) (x : Pred) : Strand :=
  if r = 0#3 then st else { st with k := tableSet 0#256 st.k r.toNat x }

/-- A field of the Vector format that names g0–g15 (R279). -/
def gr (r : BitVec 4) : BitVec 5 := 0#1 ++ r

/-- The strand whose slot this cycle is, in the context the step looks at (R146). -/
def State.cur (s : State) : Nat := strandKey s.focus (s.cycle % 16)

/-- The executing strand. -/
def State.me (s : State) : Strand := s.strand s.cur

/-- TIME in nanoseconds; 17 ticks to the nanosecond (R45; log 4). -/
def State.time (s : State) : Nat := s.ticks / 17

/-- The part is in no power state and has left the last one (R47). -/
def State.awake (s : State) : Bool := s.status.pstate == 0#3 && decide (s.power.awakeAt ≤ s.cycle)

end Sys2Proof.Machine
end

