-- ==== Sys2Proof/Machine/Memory.lean ====
section
/-! DEFINITION. Memory: bytes and words of scratchpad, rim, host and peer memory, full/empty bits, the range table (R58–R62), the
page walk (R186–R189), the translation cache (R190), and the checks of an access in the order of R183. -/

namespace Sys2Proof.Machine

/-! ### Bytes (R14, R192) -/

/-- The byte `n` places above a location. -/
def Loc.plus (l : Loc) (n : Nat) : Loc :=
  match l with
  | .spm c o => .spm c (o + n)
  | .rim a b => .rim (a + n) b
  | .host p a => .host p (a + n)
  | .peer p a => .peer p (a + n)

/-- Host and peer bytes are kept by port or peer and address. -/
def farKey (p a : Nat) : Nat := p * 73786976294838206464 + a

def State.byteAt (s : State) (l : Loc) : Byte :=
  match l with
  | .spm c o => tableGet 0#8 (s.ctx c).spm o
  | .rim a _ => tableGet 0#8 s.rim a
  | .host p a => tableGet 0#8 s.hostMem (farKey p a)
  | .peer p a => tableGet 0#8 s.peerMem (farKey p a)

def State.setByte (s : State) (l : Loc) (b : Byte) : State :=
  match l with
  | .spm c o => s.modCtx c (fun x => { x with spm := tableSet 0#8 x.spm o b })
  | .rim a _ => { s with rim := tableSet 0#8 s.rim a b }
  | .host p a => { s with hostMem := tableSet 0#8 s.hostMem (farKey p a) b }
  | .peer p a => { s with peerMem := tableSet 0#8 s.peerMem (farKey p a) b }

/-- `n` bytes from a location up, as a little-endian number (R14). -/
def State.readNat (s : State) (l : Loc) (n : Nat) : Nat :=
  match n with
  | 0 => 0
  | n + 1 => (s.byteAt l).toNat + 256 * s.readNat (l.plus 1) n

/-- Write the low `n` bytes of a number, little-endian; nothing else changes. -/
def State.putNat (s : State) (l : Loc) (n v : Nat) : State :=
  match n with
  | 0 => s
  | n + 1 => (s.setByte l (BitVec.ofNat 8 v)).putNat (l.plus 1) n (v / 256)

/-- `n` bytes as a list, lowest address first. -/
def State.readList (s : State) (l : Loc) (n : Nat) : List Byte :=
  match n with
  | 0 => []
  | n + 1 => s.byteAt l :: s.readList (l.plus 1) n

/-- Write the bytes of a list whose mark is set; the others are unwritten (R376). -/
def State.putMasked (s : State) (l : Loc) (bs : List (Bool × Byte)) : State :=
  match bs with
  | [] => s
  | (m, b) :: t => (if m then s.setByte l b else s).putMasked (l.plus 1) t

/-! ### Host pages (R103) -/

/-- How the host answers an access. -/
inductive HostAnswer where
  | completes | refuses | silent
deriving DecidableEq, Repr

/-- The answer to an access at a place: a port that is down gives none (R33, R103). -/
def State.hostAnswer (s : State) (l : Loc) : HostAnswer :=
  match l with
  | .host p a =>
    if !s.portUp p then .silent
    else match s.env.holes.find? (fun h => h.port == p && decide (h.base ≤ a) && decide (a < h.base + h.size) && decide (h.since ≤ s.cycle)) with
      | some h => if h.silent then .silent else .refuses
      | none => .completes
  | _ => .completes

/-- A page of a peer that has been lost (R104). The windows of a lost module's contexts are recovered with their job (R141). -/
def State.peerGone (s : State) (l : Loc) : Bool :=
  match l with
  | .peer p _ => decide (p < 128) && (s.peer p).lost
  | _ => false

/-- 50 ms in core cycles. -/
def hostPatience : Nat := 85000000

/-! ### Words and full/empty bits (R57, R193, R205) -/

/-- The aligned 8-byte word a location lies in. -/
def Loc.word (l : Loc) : Loc :=
  match l with
  | .spm c o => .spm c (o / 8 * 8)
  | .rim a _ => .rim (a / 8 * 8) false
  | .host p a => .host p (a / 8 * 8)
  | .peer p a => .peer p (a / 8 * 8)

/-- The bit of the word at a location: full is true. Host memory has none, and reads as full; a peer's bits are kept above its
bytes. -/
def State.fullAt (s : State) (l : Loc) : Bool :=
  match l with
  | .spm c o => tableGet true (s.ctx c).spfe (o / 8)
  | .rim a _ => tableGet true s.rimfe (a / 8)
  | .host _ _ => true
  | .peer p a => tableGet 0#8 s.peerMem (farKey (p + 64) (a / 8)) == 0#8

def State.setFull (s : State) (l : Loc) (f : Bool) : State :=
  match l with
  | .spm c o => s.modCtx c (fun x => { x with spfe := tableSet true x.spfe (o / 8) f })
  | .rim a _ => { s with rimfe := tableSet true s.rimfe (a / 8) f }
  | .host _ _ => s
  | .peer p a => { s with peerMem := tableSet 0#8 s.peerMem (farKey (p + 64) (a / 8)) (if f then 0#8 else 1#8) }

/-! ### What comes before what (R73, R74, R199) -/

/-- The writer key of a strand, of a command of a queue of a context, and of the host. -/
def strandWriter (key : Nat) : Nat := 2 * key
def commandWriter (ctx q seq : Nat) : Nat := 2 * (ctx + 18446744073709551616 * (q + 16 * (seq + 1))) + 1
def hostWriter : Nat := 1

/-- A view after another has reached it through a synchronisation of a scope. -/
def View.join (v u : View) (scope : Nat) : View :=
  u.foldl (fun x p =>
    let k := p.1 / 8 * 8 + Nat.min (p.1 % 8) scope
    if tableGet 0 x k < p.2 then tableSet 0 x k p.2 else x) v

/-- A view with the writes of one writer up to a cycle. -/
def View.with (v : View) (writer scope cycle : Nat) : View :=
  if tableGet 0 v (8 * writer + scope) < cycle then tableSet 0 v (8 * writer + scope) cycle else v

/-- The writes of a writer at a cycle come before, through synchronisations of a scope or wider. -/
def View.sees (v : View) (writer scope cycle : Nat) : Bool :=
  v.any (fun p => p.1 / 8 == writer && decide (scope ≤ p.1 % 8) && decide (cycle ≤ p.2))

/-- The key of the aligned word a location lies in. -/
def Loc.wordKey (l : Loc) : Nat :=
  match l with
  | .spm c o => 4 * (c * 4194304 + o / 8)
  | .rim a _ => 4 * (a / 8) + 1
  | .host p a => 4 * (farKey p a / 8) + 2
  | .peer p a => 4 * (farKey p a / 8) + 3

/-- What a strand releases: what it has acquired, and its own accesses up to now. Where no write to a bank page waits for a fence there is
nothing to note. -/
def State.viewOf (s : State) (key : Nat) : View :=
  if s.unfenced = [] then [] else (s.strand key).view.with (strandWriter key) 4 s.cycle

/-- A strand acquires what has been released (R73, R203, R205). -/
def State.acquire (s : State) (key : Nat) (v : View) (scope : Nat) : State :=
  if v = [] then s else s.modStrand key (fun st => { st with view := st.view.join v scope })

/-! ### Writes that a reader may not see yet (R70, R73, R74, R190, R199, R200) -/

/-- The writes of the word at a location that some reader may not see yet. -/
def State.writesAt (s : State) (l : Loc) : List BankWrite := tableGet [] s.unfenced l.wordKey

/-- Note a write of the word at a location: every write of rim memory, and the writes of commands. A later write of a strand or of the host is
what every load shows from then on (R193, R200). -/
def State.noteWrite (s : State) (l : Loc) (writer : Nat) (unit engine : Bool) : State :=
  let ws := if unit || engine then s.writesAt l else (s.writesAt l).map (fun w => { w with shown := true })
  let rim := match l with | .rim _ _ => true | _ => false
  if rim || engine then
    { s with unfenced := tableSet [] s.unfenced l.wordKey (ws ++ [{ writer := writer, cycle := s.cycle, unit := unit, engine := engine,
                                                                    old := BitVec.ofNat 64 (s.readNat l.word 8) }]) }
  else if s.unfenced = [] then s
  else { s with unfenced := tableSet [] s.unfenced l.wordKey ws }

/-- A context lies in a scope of another: its own, its gang's, any (R196). -/
def State.inScope (s : State) (scope own ctx : Nat) : Bool :=
  if scope ≤ 1 then ctx == own
  else if scope = 2 then jobOf ctx == jobOf own && s.gangNo ctx == s.gangNo own
  else true

/-- A fence covers a write for a bank command of a strand: its own fence before the push, or one within whose scope it lies and with
which it had synchronised by then at that scope or wider (R73). -/
def State.coveredFor (s : State) (key : Nat) (view : View) (pushed : Nat) (w : BankWrite) : Bool :=
  w.covered.any (fun f => (f.1 == strandWriter key && decide (f.2.1 ≤ pushed))
    || (view.sees f.1 f.2.2 f.2.1 && (f.1 == hostWriter || s.inScope f.2.2 (ctxOf (f.1 / 2)) (ctxOf key))))

/-- The values a word may still show: the values it has held since the last write of the list a test accepts. -/
def openValues (p : BankWrite → Bool) (ws : List BankWrite) : List Word :=
  match ws with
  | [] => []
  | w :: t => if t.any p || p w then openValues p t else w.old :: openValues p t

/-- Which of `n` values a word shows, as the free choice has it. -/
def State.pickAt (s : State) (a n : Nat) : Nat := Config.pick s.free a s.cycle % (n + 1)

/-- The write of a bank command of a context. -/
def BankWrite.ofBank (w : BankWrite) (ctx : Nat) : Bool := w.unit && w.writer / 2 % 18446744073709551616 == ctx

/-- The word at a location as a bank unit reads it for a command of a strand: the value in memory, or, where no fence covers the last
writes, any value held since, as the free choice has it (R70, R73). In y, what the context's earlier bank commands wrote is seen without a
fence (R421). -/
def State.bankWord (s : State) (a key : Nat) (view : View) (pushed : Nat) (y : Bool) : Word :=
  let vs := openValues (s.coveredFor key view pushed) ((s.writesAt (.rim a false)).filter (fun w => !(y && w.ofBank (ctxOf key))))
  (vs[s.pickAt (a / 8) vs.length]?).getD (BitVec.ofNat 64 (s.readNat (.rim (a / 8 * 8) false) 8))

/-- The command of a context whose job goes on has written, and the strand has not acquired its completion (R199). -/
def State.unacquired (s : State) (key : Nat) (w : BankWrite) : Bool :=
  w.engine && (s.job (jobOf (w.writer / 2 % 18446744073709551616))).phase == .live && !(s.strand key).view.sees w.writer 0 w.cycle

/-- The writes of a word that a strand's loads may not show yet: results of bank units (R74), and what commands wrote whose completion it has not
acquired (R199, R200; log 13). -/
def State.hidden (s : State) (l : Loc) (key : Nat) : List BankWrite :=
  (s.writesAt l).filter (fun w => (w.unit || s.unacquired key w) && !w.shown && !w.past.contains key)

/-- Which of the values of a word a strand's load shows. -/
def State.shownAt (s : State) (l : Loc) (key : Nat) : Nat := s.pickAt (l.wordKey / 4) (s.hidden l key).length

/-- The word at a location as a load of a strand reads it. -/
def State.loadWord (s : State) (l : Loc) (key : Nat) : Word :=
  (((s.hidden l key)[s.shownAt l key]?).map BankWrite.old).getD (BitVec.ofNat 64 (s.readNat l.word 8))

/-- After such a load the strand sees nothing older (R193). -/
def State.loaded (s : State) (l : Loc) (key : Nat) : State :=
  let ws := s.hidden l key
  if ws = [] then s
  else
    let gone := ws.take (s.shownAt l key)
    { s with unfenced := tableSet [] s.unfenced l.wordKey ((s.writesAt l).map (fun w =>
        if gone.contains w then { w with past := w.past ++ [key] } else w)) }

/-- A strand has read the newest value of the word at a location: it sees nothing older from then on (R193). -/
def State.observe (s : State) (l : Loc) (key : Nat) : State :=
  if s.hidden l key = [] then s
  else { s with unfenced := tableSet [] s.unfenced l.wordKey ((s.writesAt l).map (fun w =>
      if w.past.contains key then w else { w with past := w.past ++ [key] })) }

/-- The bytes a location lies above its word. -/
def Loc.inWord (l : Loc) : Nat :=
  match l with
  | .spm _ o => o % 8
  | .rim a _ => a % 8
  | .host _ a => a % 8
  | .peer _ a => a % 8

/-- What a strand's load of `n` bytes inside a word returns (R74, R192). -/
def State.loadNat (s : State) (l : Loc) (n key : Nat) : Nat :=
  if s.hidden l key = [] then s.readNat l n else (s.loadWord l key).toNat / 256 ^ l.inWord % 256 ^ n

/-- `n` bytes from a word-aligned location on as a strand's load returns them, word by word (R74). -/
def State.loadBytes (s : State) (l : Loc) (n key : Nat) : List Byte :=
  (List.range n).map (fun i => BitVec.ofNat 8 (s.loadNat (l.plus i) 1 key))

/-- The state after that load. -/
def State.loadedBytes (s : State) (l : Loc) (n key : Nat) : State :=
  (List.range (n / 8)).foldl (fun x i => x.loaded (l.plus (8 * i)) key) s

/-! ### The range table (R58–R62) -/

/-- The set bits of a stack set, lowest first. -/
def stackList (m : BitVec 48) : List Nat := (List.range 48).filter (fun i => bitAt i m)

def RangeEntry.baseAddr (e : RangeEntry) : Nat := e.base.toNat * 65536
def RangeEntry.limitAddr (e : RangeEntry) : Nat := e.limit.toNat * 65536
def RangeEntry.sbaseAddr (e : RangeEntry) : Nat := e.sbase.toNat * 65536

/-- A physical address lies in a valid range. -/
def RangeEntry.covers (e : RangeEntry) (pa : Nat) : Bool :=
  e.valid && decide (e.baseAddr ≤ pa) && decide (pa < e.limitAddr)

/-- The stack and stack-local address of a physical address inside an entry, as a rim key (R60). -/
def RangeEntry.place (e : RangeEntry) (pa : Nat) : Nat :=
  let o := pa - e.baseAddr
  let gsz := 2 ^ (8 + e.gran.toNat)
  let c := o / gsz
  let l := stackList e.stackSet
  l.getD (c % l.length) 0 * 68719476736 + (e.sbaseAddr + c / l.length * gsz + o % gsz)

/-- The rim key of a physical address that no page names a range for (page tables, rings): in the range that holds it. -/
def State.rimKey (s : State) (pa : Nat) : Option Nat :=
  match (List.range 16).find? (fun n => (s.rangeEntry n).covers pa) with
  | some n => some ((s.rangeEntry n).place pa)
  | none => none

def stackOfKey (k : Nat) : Nat := k / 68719476736
def lineOfKey (k : Nat) : Nat := k % 68719476736 / 256

/-- Errors nobody has found that are there now, in the line of a rim key (R75). -/
def State.flawsAt (s : State) (k : Nat) : List Flaw :=
  s.env.flaws.filter (fun f => f.stack == stackOfKey k && f.line == lineOfKey k && decide (f.since ≤ s.cycle))

/-- The line of a rim key has an uncorrectable error, lies in a poisoned row, or belongs to stacks no port serves (R27, R75, R79). -/
def State.lineBad (s : State) (k : Nat) : Bool :=
  let st := s.stack (stackOfKey k)
  st.dark || st.bad.contains (lineOfKey k) || st.poisoned.contains (Config.rowOf (stackOfKey k) (lineOfKey k))
    || (s.flawsAt k).any (fun f => f.err == .uncorrectable)

/-- The same for a location. -/
def State.locBad (s : State) (l : Loc) : Bool :=
  match l with
  | .rim k _ => s.lineBad k
  | _ => false

/-! ### Translation (R186–R191) -/

/-- A walk ends with the leaf and its level, or with a cause. -/
inductive Walk where
  | leaf (level : Nat) (entry : Word)
  | fails (cause : Nat)
deriving DecidableEq, Repr

/-- The levels of a walk: number, lowest index bit, number of index bits (R186). -/
def walkLevels : List (Nat × Nat × Nat) := [(1, 33, 16), (2, 29, 4), (3, 21, 8), (4, 16, 5)]

/-- Page size of a leaf level, as a power of two. -/
def pageBits (level : Nat) : Nat :=
  match level with
  | 1 => 33
  | 2 => 29
  | 3 => 21
  | _ => 16

/-- A leaf breaks a rule of R188: target, layout, unused TSEL bits, address bits below the page size. -/
def leafMalformed (e : Word) (shift : Nat) : Bool :=
  natAt 7 2 e == 3 || natAt 9 2 e == 3
    || (natAt 7 2 e == 0 && natAt 15 2 e != 0)
    || (natAt 7 2 e == 1 && natAt 13 4 e != 0)
    || natAt 20 44 e * 256 % 2 ^ shift != 0

/-- An entry of a page table as a walk reads it: any value it has held since the last translation fence that covers the walk (R190, R191). -/
def State.pageEntry (s : State) (since : Nat) (k : Nat) : Word :=
  let vs := ((s.writesAt (.rim k false)).filter (fun w => decide (since ≤ w.cycle))).map BankWrite.old
  (vs[s.pickAt (k / 8) vs.length]?).getD (BitVec.ofNat 64 (s.readNat (.rim k false) 8))

/-- The walk from a table on (R186–R188, R190). A table outside every range fails with 0x2A. -/
def State.walkFrom (s : State) (since : Nat) (levels : List (Nat × Nat × Nat)) (table va : Nat) : Walk :=
  match levels with
  | [] => .fails 0x2B
  | (n, shift, bits) :: rest =>
    match s.rimKey (table + 8 * (va / 2 ^ shift % 2 ^ bits)) with
    | none => .fails 0x2A
    | some k =>
      let e := s.pageEntry since k
      if !bitAt 0 e then .fails (0x21 + n)
      else if natAt 17 3 e ≠ 0 then .fails 0x2B
      else if bitAt 1 e then (if leafMalformed e shift then .fails 0x2B else .leaf n e)
      else if n = 4 then .fails 0x2B
      else s.walkFrom since rest (natAt 20 44 e * 256) va

/-- The translation root of a tenant, with its low 19 bits taken as zero (R186). -/
def State.rootOf (s : State) (tenant : Nat) : Nat := (s.ten tenant).set.root.toNat / 524288 * 524288 % 4503599627370496

/-- A translation through a cache: the cached leaf of the page where there is one, else a walk (R190). -/
def State.translate (s : State) (tlb : Tlb) (tenant va : Nat) : Walk :=
  match tlb.entries.find? (fun t => t.tenant == tenant && t.page == va / 2 ^ pageBits t.level) with
  | some t => .leaf t.level t.leaf
  | none => s.walkFrom tlb.fencedAt walkLevels (s.rootOf tenant) va

/-- A cache after a translation: 64 entries, the oldest goes (R190; log 9). -/
def fillTlb (tlb : Tlb) (tenant va level : Nat) (leaf : Word) : Tlb :=
  let t : TlbEntry := ⟨tenant, level, va / 2 ^ pageBits level, leaf⟩
  if tlb.entries.contains t then tlb else { tlb with entries := (t :: tlb.entries).take 64 }

/-! ### The checks of an access (R182, R183, R189) -/

/-- What an access needs of its page (R189) and of its target. -/
structure Need where
  rd : Bool := false
  wr : Bool := false
  ex : Bool := false
  /-- A synchronising form: FE must be set (R208), and a host page gives 0x2C (R103). -/
  fe : Bool := false
  /-- An atomic that a host page does not take (R103). -/
  noHost : Bool := false
  /-- Bytes, and the alignment the address must have. -/
  size : Nat := 8
  align : Nat := 8
deriving DecidableEq, Repr

/-- What the checks make of an address: where it is, with the cache of the issuing tile after it; or the cause and TVAL. -/
inductive Resolved where
  | at (l : Loc) (tlb : Tlb)
  | fails (cause : Nat) (tval : Word)
deriving DecidableEq, Repr

/-- A global address, from translation on (R183 checks 5 to 7, R103, R104). -/
def State.resolveGlobal (s : State) (tlb : Tlb) (tenant : Nat) (n : Need) (va : Word) : Resolved :=
  let v := natAt 0 49 va
  match s.translate tlb tenant v with
  | .fails c => .fails c va
  | .leaf level e =>
    let shift := pageBits level
    let pa := natAt 20 44 e * 256 + v % 2 ^ shift
    let tlb' := fillTlb tlb tenant v level e
    if (n.rd && !bitAt 2 e) || (n.wr && !bitAt 3 e) || (n.ex && !bitAt 4 e) || !bitAt 5 e then .fails 0x26 va
    else if n.fe && !bitAt 6 e then .fails 0x28 va
    else match natAt 7 2 e with
    | 0 =>
      let r := natAt 11 4 e
      if (s.rangeEntry r).covers pa && bitAt r (s.ten tenant).set.mask then
        let k := (s.rangeEntry r).place pa
        if s.lineBad k then .fails 0x50 va else .at (.rim k (natAt 9 2 e != 0)) tlb'
      else .fails 0x2A va
    | 1 => if n.fe || n.noHost then .fails 0x2C va else .at (.host (natAt 11 2 e) pa) tlb'
    | _ =>
      let p := natAt 11 6 e
      if (s.peer p).routed && !(s.peer p).lost then .at (.peer p pa) tlb' else .fails 0x2D va

/-- Spaces of an address (R182). -/
def isLocal (va : Word) : Bool := natAt 25 39 va == 0
def isWindow (va : Word) : Bool := natAt 48 16 va == 0x0100 && natAt 25 7 va == 0
def isGlobal (va : Word) : Bool := bitAt 63 va && natAt 49 14 va == 0

/-- The spill carve-out of the issuing strand, for an access whose base register is g2 (R179). -/
structure Spill where
  splim : Word
  spovf : Word
deriving DecidableEq, Repr

/-- Where a window word lies: in the scratchpad of its context, or on the module that runs it (R102; log 44). -/
def State.windowLoc (s : State) (ctx off : Nat) : Loc :=
  match s.awayAt ctx with
  | some p => .peer (p + 128 * (1 + s.jobName (jobOf ctx))) (vtidOf ctx * 33554432 + off)
  | none => .spm ctx off

/-- The checks of R183 in order, for an access of a context. -/
def State.resolve (s : State) (ctx : Nat) (spill : Option Spill) (n : Need) (va : Word) : Resolved :=
  let j := s.job (jobOf ctx)
  let tlb := (s.tile (s.ptid ctx)).tlb
  if !isLocal va && !isWindow va && !isGlobal va then .fails 0x20 va
  else if va.toNat % n.align ≠ 0 then .fails 0x21 va
  else if isLocal va then
    match spill with
    | some sp =>
      if sp.splim.toNat ≤ va.toNat then
        if sp.spovf = 0#64 then .fails 0x20 va
        else if isGlobal (sp.spovf + (va - sp.splim)) then s.resolveGlobal tlb j.tenant n (sp.spovf + (va - sp.splim))
        else .fails 0x20 (sp.spovf + (va - sp.splim))
      else if va.toNat < recExtent j.record then .at (.spm ctx va.toNat) tlb
      else .fails 0x20 va
    | none => if va.toNat < recExtent j.record then .at (.spm ctx va.toNat) tlb else .fails 0x20 va
  else if isWindow va then
    if natAt 32 16 va < recTiles j.record ∧ natAt 0 25 va < recExtent j.record then
      .at (s.windowLoc (ctxKey (jobOf ctx) (natAt 32 16 va)) (natAt 0 25 va)) tlb
    else .fails 0x29 va
  else s.resolveGlobal tlb j.tenant n va

/-- The address after spill redirection, as TVAL and outstanding accesses report it (R183). -/
def spillAddr (spill : Option Spill) (va : Word) : Word :=
  match spill with
  | some sp => if isLocal va && decide (sp.splim.toNat ≤ va.toNat) then sp.spovf + (va - sp.splim) else va
  | none => va

/-- The cache of a context's tile after a translation. -/
def State.withTlb (s : State) (ctx : Nat) (tlb : Tlb) : State :=
  if tlb = (s.tile (s.ptid ctx)).tlb then s else s.modTile (s.ptid ctx) (fun t => { t with tlb := tlb })

end Sys2Proof.Machine
end

