-- ==== Sys2Proof/Machine/Ops.lean ====
section
/-! DEFINITION. The operations every meaning is built from: latencies, the end of an instruction with the loop redirect (R316),
blocking, traps and their return (R213–R220), faults routed to the driver (R222, R223), host completions (R89), packets (R155–R157,
R443), the end of a job (R100), outstanding operations and the one A-class trap (R220), wait lists (R206, R345), and the
performance of an access in M (R192–R197). -/

namespace Sys2Proof.Machine

/-! ### Latencies (R25–R27, R55, R150, R443) -/

/-- A router is dark (R28). -/
def State.darkTile (s : State) (p : Nat) : Bool := (s.tile p).code == 4#4 || (s.tile p).code == 6#4

/-- Distance of two numbers. -/
def dist (a b : Nat) : Nat := (a - b) + (b - a)

/-- A route passes a dark router: X first along row, then Y along the column (R26). -/
def State.crossesDark (s : State) (a b : Nat) : Bool :=
  s.tiles.any (fun t => s.darkTile t.1 && t.1 != a &&
    ((t.1 / 32 == a / 32 && decide (dist (t.1 % 32) (a % 32) + dist (t.1 % 32) (b % 32) = dist (a % 32) (b % 32)))
      || (t.1 % 32 == b % 32 && decide (dist (t.1 / 32) (a / 32) + dist (t.1 / 32) (b / 32) = dist (a / 32) (b / 32)))))

/-- Mesh hops between two tiles, along the route of R26. -/
def State.hops (s : State) (a b : Nat) : Nat :=
  dist (a % 32) (b % 32) + dist (a / 32) (b / 32) + (if s.crossesDark a b then Config.detour a b else 0)

/-- The tiles that carry the rim ports of a quadrant: north row 0, east column 31, south row 31, west column 0 (R25). -/
def portTiles (quadrant : Nat) : List Nat :=
  match quadrant with
  | 0 => List.range 32
  | 1 => (List.range 32).map (fun r => 32 * r + 31)
  | 2 => (List.range 32).map (fun c => 992 + c)
  | _ => (List.range 32).map (fun r => 32 * r)

/-- Hops to the nearest port in service of a stack's quadrant (R27, R55). -/
def State.rimHops (s : State) (ptid stack : Nat) : Nat :=
  ((portTiles (stack / 12)).filter (fun t => !s.darkTile t)).foldl (fun m t => Nat.min m (s.hops ptid t)) 62

/-- Unloaded latency of a rim access (R55). -/
def State.rimLatency (s : State) (ptid stack : Nat) (vector : Bool) : Nat :=
  let h := s.rimHops ptid stack
  (if h = 0 then 200 else 210 + 14 * h) + (if vector then 8 else 0)

/-- The context's network interface needs no fetch to translate another context of its job (R109). -/
def State.knows (s : State) (ctx c : Nat) : Bool := c == ctx || (s.tile (s.ptid ctx)).vtids.contains (vtidOf c)

/-- What a translation of a VTID adds: a miss fetches the entry, at the latency of a rim load (R109; log 54). -/
def State.xltCost (s : State) (ctx c : Nat) : Nat :=
  if s.knows ctx c then 0 else s.rimLatency (s.ptid ctx) (Config.xltStack (jobOf c) (vtidOf c) % 48) false

/-- A VTID enters a cache of 1,024 (R109; log 54). -/
def Tile.learn (t : Tile) (cycle v : Nat) : Tile :=
  { t with vtids := (if t.vtids.length < 1024 then t.vtids else t.vtids.eraseIdx (Config.xltVictim cycle % 1024)) ++ [v] }

/-- The context's network interface holds the entry of the context it sends to (R109). -/
def State.seek (s : State) (ctx c : Nat) : State :=
  if s.knows ctx c then s else s.modTile (s.ptid ctx) (fun t => t.learn s.cycle (vtidOf c))

/-- An access of a context is on its way to a place. -/
def State.seekAt (s : State) (ctx : Nat) (l : Loc) : State :=
  match l with
  | .spm c _ => s.seek ctx c
  | _ => s

/-- A context's entry is invalidated in every network interface that hosts a context of its job (R109). -/
def State.invalidate (s : State) (ctx : Nat) : State :=
  { s with tiles := tableMap {} s.tiles (fun _ t =>
      if t.usedBy.map jobOf = some (jobOf ctx) then { t with vtids := t.vtids.filter (· ≠ vtidOf ctx) } else t) }

/-- Latency of an access of a context to a place (R55, R109, R149, R443). -/
def State.latency (s : State) (ctx : Nat) (l : Loc) (vector : Bool) : Nat :=
  match l with
  | .spm c _ => if c = ctx then 12 else 24 + 28 * s.hops (s.ptid ctx) (s.ptid c) + s.xltCost ctx c
  | .rim k _ => s.rimLatency (s.ptid ctx) (stackOfKey k) vector
  | .host p a => Config.farLatency (farKey p a)
  | .peer p a => Config.farLatency (farKey (p + 4) a)

/-! ### Energy charges (R246, R248, R249) -/

/-- A charge to a gang's counter in nJ, which saturates (R249). -/
def Gang.chargeNj (g : Gang) (nj : Nat) : Gang :=
  if g.energy + nj < 281474976710656 then { g with energy := g.energy + nj } else { g with energy := 281474976710655, sat := true }

/-- A dynamic charge of a context: whole nanojoules pass from its tile's accumulator to its gang (R248). Where no tile hosts the context its
whole nanojoules pass at once, and the remainder is dropped (log 24). -/
def State.charge (s : State) (ctx pj : Nat) : State :=
  let here := (s.tile (s.ptid ctx)).usedBy == some ctx
  let acc := (if here then (s.tile (s.ptid ctx)).pj else 0) + pj
  (if here then s.modTile (s.ptid ctx) (fun t => { t with pj := acc % 1000 }) else s).modGang (jobOf ctx) (s.gangNo ctx) (fun g => g.chargeNj (acc / 1000))

/-- The charge of an access by its place (R246). -/
def Loc.pj (l : Loc) (vector : Bool) : Nat :=
  if vector then 1400 else
  match l with
  | .spm _ _ => 12
  | .rim _ _ => 180
  | .host _ _ => 400
  | .peer _ _ => 400

/-- An access of a strand is charged to its gang. -/
def State.chargeAt (s : State) (key : Nat) (l : Loc) (vector : Bool) : State := s.charge (ctxOf key) (l.pj vector)

/-- The device overhead account (R250). -/
def State.chargeOverhead (s : State) (nj : Nat) : State := { s with overhead := (s.overhead + nj) % 18446744073709551616 }

/-- Work that no gang is charged for: profile records 0, park-queue traffic 1, scheduler work 2. The spec gives no amount, so it is free
(R246; log 24). -/
def State.overheadFor (s : State) (kind : Nat) : State := s.chargeOverhead (Config.overheadNj kind s.free s.cycle)

/-! ### The end of an instruction (R147, R148, R316) -/

/-- The loop redirect of level 0 after an instruction at `a`: the next PC and the strand's loop registers (R316). -/
def redirect0 (st : Strand) (a : Word) : Strand :=
  if bitAt 0 st.lstat && a == st.loops.le0 then
    if 1 < st.loops.lc0.toNat then { st with loops := { st.loops with lc0 := st.loops.lc0 - 1 }, pc := st.loops.lb0 }
    else { st with loops := { st.loops with lc0 := 0 }, lstat := st.lstat &&& 2#2, pc := a + 4 }
  else { st with pc := a + 4 }

/-- The PC after an instruction at the strand's PC that does not redirect it itself: level 1 first, then level 0 (R316). -/
def Strand.advance (st : Strand) : Strand :=
  if bitAt 1 st.lstat && st.pc == st.loops.le1 then
    if 1 < st.loops.lc1.toNat then { st with loops := { st.loops with lc1 := st.loops.lc1 - 1 }, pc := st.loops.lb1 }
    else redirect0 { st with loops := { st.loops with lc1 := 0 }, lstat := st.lstat &&& 1#2 } st.pc
  else redirect0 st st.pc

/-- An instruction has completed: the strand may issue again from the next cycle, every window is shorter by one (R151), and a
STEPI pending on the strand stops it at this boundary (R243). -/
def Strand.done (st : Strand) (cycle : Nat) : Strand :=
  { st with state := .ready, wait := .none, readyAt := cycle + 1, skipBp := false, grant := [], haltReq := st.haltReq || st.stepi.isSome,
            out := st.out.map (fun o => { o with window := o.window - 1 }) }

/-- Note progress of a job (R126). -/
def State.progress (s : State) (h : Nat) : State := s.modJob h (fun j => { j with progress := s.ticks })

/-- The strand's instruction completes with the strand as `f` leaves it, and the PC goes on (R316). -/
def State.retireWith (s : State) (key : Nat) (f : Strand → Strand) : State :=
  (s.modStrand key (fun st => ((f st).advance).done s.cycle)).progress (jobOf (ctxOf key))

/-- As `retireWith`, for a write of a loop register: the redirect is decided by the values before the write (R318). -/
def State.retireAfter (s : State) (key : Nat) (f : Strand → Strand) : State :=
  (s.modStrand key (fun st => (f st.advance).done s.cycle)).progress (jobOf (ctxOf key))

/-- The strand's instruction completes and itself sets the PC. -/
def State.jumpWith (s : State) (key : Nat) (pc : Word) (f : Strand → Strand) : State :=
  (s.modStrand key (fun st => ({ f st with pc := pc }).done s.cycle)).progress (jobOf (ctxOf key))

/-- The instruction does not issue: the strand waits with its PC at it (R147, R219). -/
def State.block (s : State) (key : Nat) (st : StrandState) (w : Wait) : State :=
  s.modStrand key (fun x => { x with state := st, wait := w })

/-- A result is usable from the first slot at or after `lam` cycles (R149); past the next slot the strand waits in a class of R147. -/
def State.delay (s : State) (key lam : Nat) (w : StrandState) : State :=
  s.modStrand key (fun st =>
    if lam ≤ 16 ∨ st.state ≠ .ready then { st with readyAt := Nat.max st.readyAt (s.cycle + lam) }
    else { st with state := w, wait := .timed, readyAt := Nat.max st.readyAt (s.cycle + lam) })

/-! ### Host completions and interrupts (R83, R89) -/

/-- Where a byte of a ring lies: host memory on a port, or rim memory by physical address (R85, R222). -/
def State.ringLoc (s : State) (loc : Bool) (port : Nat) (addr : Nat) : Option Loc :=
  if loc then (s.rimKey addr).map (fun k => Loc.rim k false) else some (.host port addr)

/-- Write bytes of a ring, posted in order; a rim address in no range is written nowhere. -/
def State.putRing (s : State) (loc : Bool) (port addr n v : Nat) : State :=
  match s.ringLoc loc port addr with
  | some l => s.putNat l n v
  | none => s

/-- A completion of a record: bytes 0–23, then 24–31 with PHASE, then CTAIL and the interrupt (R89), by the fields of the queue's block as they
stand then: the model's choice where they were written since the record started (log 59). -/
def State.complete (s : State) (q : Nat) (seq : BitVec 32) (epoch type status value : Nat) : State :=
  let b := s.queue q
  let n := 2 ^ (4 + b.size.toNat)
  let c := b.ctail.toNat
  let addr := b.cbase.toNat * 32 + c % n * 32
  let s1 := s.putRing b.loc b.port.toNat addr 8 (seq.toNat + type * 4294967296 + status * 1099511627776)
  let s2 := s1.putRing b.loc b.port.toNat (addr + 8) 8 value
  let s3 := s2.putRing b.loc b.port.toNat (addr + 16) 8 s.time
  let s4 := s3.putRing b.loc b.port.toNat (addr + 24) 8 (1 - c / n % 2)
  let s5 := s4.modQueue q (fun x => { x with ctail := x.ctail + 1, records := x.records.eraseP (fun r => (r.index + 1) % 4294967296 == seq.toNat && r.epoch == epoch) })
  if b.vec = 0#11 then s5
  else { s5 with msix := s5.msix ++ [(b.port.toNat, (if b.pfq then none else some b.ten.toNat), b.vec.toNat)] }

/-- The host has read a counter of errors since a cycle: those of a stack at 0x4000, those of a tile at 0x8000 (R81, R82, R83). -/
def State.countersRead (s : State) (since : Nat) : Bool :=
  s.env.reads.any (fun r => decide (since < r.1) && decide (r.1 ≤ s.cycle) && r.2.1 == ⟨0, none⟩ &&
    ((decide (0x4000 ≤ r.2.2.toNat) && decide (r.2.2.toNat < 0x4180)) || (decide (0x8000 ≤ r.2.2.toNat) && decide (r.2.2.toNat < 0xA000))))

/-- MSI-X vector 0 of port 0's physical function; several events between two reads of the counters raise one interrupt (R83). -/
def State.rasInterrupt (s : State) : State :=
  match s.rasAt with
  | some t =>
    if s.countersRead t then { s with msix := s.msix ++ [(0, none, 0)], rasAt := some s.cycle } else s
  | none => { s with msix := s.msix ++ [(0, none, 0)], rasAt := some s.cycle }

/-! ### Packets (R110, R118, R155–R157, R202, R348, R443) -/

/-- The header word of a packet (R348). -/
def packetHeader (src cls len kind : Nat) (tag : BitVec 32) : Word :=
  tag ++ (0#5 ++ BitVec.ofNat 2 kind ++ BitVec.ofNat 6 len ++ BitVec.ofNat 3 cls ++ BitVec.ofNat 16 src)

/-- Words of a packet in a staging area: its payload so far, and its end word (R443). -/
def InPacket.staged (p : InPacket) : Nat := p.words.length + (if p.hdr.isSome then 1 else 0)

/-- Words staged for a class (R443). -/
def Ctx.staged (c : Ctx) (cls : Nat) : Nat := ((c.staging.filter (fun p => p.cls == cls && !p.onLinks)).map InPacket.staged).foldl (· + ·) 0

/-- The staging area of a class has room for a packet with its end word. -/
def Ctx.holdsWhole (c : Ctx) (p : InPacket) : Bool := decide (c.staged p.cls + p.words.length + 1 ≤ 64)

/-- Packets that wait on the links enter the staging area of their class as it gains room, in their order (R443). -/
def Ctx.land (c : Ctx) (cls now fuel : Nat) : Ctx :=
  match fuel with
  | 0 => c
  | fuel + 1 =>
    match c.staging.find? (fun p => p.cls == cls && p.onLinks) with
    | none => c
    | some p =>
      if c.holdsWhole p then
        { c with staging := c.staging.erase p ++ [{ p with onLinks := false, readyAt := now }] }.land cls now fuel
      else c

/-- The staging area of a context after packets of a class have left it. -/
def Ctx.landed (c : Ctx) (cls now : Nat) : Ctx := c.land cls now c.staging.length

/-- The packets of a staging area that have ended, with those on the links behind them. -/
def Ctx.ended? (c : Ctx) : List InPacket := (c.staging.filter (fun p => p.hdr.isSome)).map (fun p => { p with onLinks := false })

/-- Words an inbox holds. -/
def Ctx.fill (c : Ctx) (cls : Nat) : Nat := (tableGet [] c.inbox cls).length

/-- The words of a packet as they stand in an inbox, header first. -/
def inboxWords (p : InPacket) (hdr : Word) : List InWord :=
  ⟨hdr, true, p.merge, p.view⟩ :: p.words.map (fun w => ⟨w, false, none, []⟩)

/-- A packet enters its inbox whole, and a strand waiting in IDLE or a receive for it may go on (R156, R157). -/
def State.enterInbox (s : State) (ctx : Nat) (p : InPacket) (hdr : Word) : State :=
  (s.modCtx ctx (fun c =>
    { c with inbox := tableSet [] c.inbox p.cls (tableGet [] c.inbox p.cls ++ inboxWords p hdr) })).progress (jobOf ctx)

/-- Bytes a park-queue entry occupies (R118, R225). -/
def ParkEntry.bytes (e : ParkEntry) : Nat :=
  match e with
  | .packet p => 8 + 8 * p.words.length
  | .access _ _ => 24
  | .again _ _ => 24
  | .chunk _ _ _ _ => 24
  | .arrival _ _ _ => 16

def parkBytes (l : List ParkEntry) : Nat := (l.map ParkEntry.bytes).foldl (· + ·) 0

/-- How a packet or an access travels to a context (R110, R116, R136). -/
inductive Path where
  | direct | park | noQueue | gone | moving
deriving DecidableEq, Repr

/-- The path to a context (R109, R110, R121, R135). A stopping gang still takes words (R219); what goes to another module leaves by its
links (R37). -/
def State.path (s : State) (ctx : Nat) : Path :=
  let j := s.job (jobOf ctx)
  let e := j.entry (vtidOf ctx)
  if e.done || j.phase == .ended then .gone
  else if (s.awayAt ctx).isSome then .direct
  else if e.move then .moving
  else if e.res && !e.drain then .direct
  else if (s.gangOf ctx).parkAlloc || e.res then .park
  else .noQueue

/-- Record a tile fault against a gang: 0x30, or 0x3F with a summons first in its tenant's order (R119, R120, R224). -/
def State.tileFault (s : State) (ctx : Nat) (full : Bool) : State :=
  let s1 := { s with sched := { s.sched with tfaults := s.sched.tfaults + 1 } }
  s1.modGang (jobOf ctx) (s.gangNo ctx) (fun x =>
    { x with first := x.first || full }.nowEligible s.ticks)

/-- A gang gets a park queue, outside PQSIZE if need be (R121). -/
def State.allocPark (s : State) (ctx : Nat) : State := s.modGang (jobOf ctx) (s.gangNo ctx) (fun g => { g with parkAlloc := true })

/-- Put an entry at the tail of a gang's park queue: a packet or an access records a tile fault (R119, R224); an arrival on a peg makes
the gang eligible and is no fault (R122, R225). -/
def State.parkPut (s : State) (ctx : Nat) (e : ParkEntry) : State :=
  let s1 := s.modGang (jobOf ctx) (s.gangNo ctx) (fun g => { g with park := g.park ++ [e] })
  ((match e with
   | .arrival _ _ _ => s1.modGang (jobOf ctx) (s.gangNo ctx) (fun g => g.nowEligible s.ticks)
   | _ => s1.tileFault ctx false).overheadFor 1).progress (jobOf ctx)

/-- A context that is stopping, for a swap or a move, admits every arriving word (R116, R219). -/
def State.admitsAll (s : State) (ctx : Nat) : Bool :=
  (s.gangOf ctx).state == .stopping || s.moves.any (fun m => m.ctx == ctx || m.other == some ctx)

/-- A whole packet reaches a context's network interface: it waits on the links where its staging area has no room (R443). -/
def State.stageWhole (s : State) (p : InPacket) : State :=
  s.modCtx p.dest (fun c => { c with staging := c.staging ++ [{ p with
    readyAt := s.cycle, onLinks := !(c.holdsWhole p && !c.staging.any (fun q => q.cls == p.cls && q.onLinks)) && !s.admitsAll p.dest }] })

/-- A whole packet sent at once to a context: an engine completion of LNCH, or one that no strand holds open (R100, R110). -/
def State.sendWhole (s : State) (p : InPacket) : State :=
  match s.path p.dest with
  | .gone => s.modJob (jobOf p.dest) (fun j => { j with discards := j.discards + 1 })
  | .direct => s.stageWhole p
  | .moving => s.stageWhole p
  | .park => s.parkPut p.dest (.packet p)
  | .noQueue => s.parkPut p.dest (.packet p)

/-! ### Tenants (R127, R128) -/

/-- A cache without the entries of a tenant (R127). -/
def Tlb.without (t : Tlb) (tenant : Nat) : Tlb := { t with entries := t.entries.filter (fun e => e.tenant ≠ tenant) }

/-- TENANT records take effect at a gang completion or swap-out: their values replace the old ones, and a changed root empties every
cache that may hold entries of the tenant (R127). -/
def State.applyTenants (s : State) : State :=
  s.tenants.foldl (fun s p =>
    match p.2.pending with
    | none => s
    | some t =>
      let s1 := s.modTen p.1 (fun x => { x with set := t, pending := none })
      if t.root = p.2.set.root then s1
      else { s1 with tiles := tableMap {} s1.tiles (fun _ q => { q with tlb := q.tlb.without p.1 }),
                     cpTlb := s1.cpTlb.without p.1 }) s

/-- A context leaves a tile: what is left of its charges is dropped (R248), and its locked lines are unlocked (R178). -/
def Tile.vacate (t : Tile) : Tile :=
  { t with usedBy := none, pj := 0, icache := t.icache.map (fun l => { l with locked := false }) }

/-- A context begins to run on a tile, whose translation caches are empty (R109, R190). -/
def Tile.host (t : Tile) (c : Nat) : Tile := { t with usedBy := some c, tlb := { t.tlb with entries := [] }, vtids := [] }

/-- Release the tiles whose context meets a test. -/
def State.releaseWhere (s : State) (p : Nat → Bool) : State :=
  { s with tiles := tableMap {} s.tiles (fun _ t =>
      match t.usedBy with
      | some c => if p c then t.vacate else t
      | none => t) }

/-- Release the tiles a gang holds (R113, R116), and those of a job. -/
def State.releaseTiles (s : State) (h n : Nat) : State := s.releaseWhere (fun c => jobOf c == h && s.gangNo c == n)
def State.releaseJob (s : State) (h : Nat) : State := s.releaseWhere (fun c => jobOf c == h)

/-! ### The end of a job (R100, R107, R126, R223) -/

/-- A move where a job has ended (R100, R134): it is dropped with its context; a partner of another job goes on alone to the tile that is
left (log 41). -/
def Move.without (m : Move) (h : Nat) : List Move :=
  if jobOf m.ctx = h then
    match m.other with
    | some p => if jobOf p = h then [] else [{ ctx := p, old := m.new, new := m.old, other := none }]
    | none => []
  else
    match m.other with
    | some p => if jobOf p = h then [{ m with other := none }] else [m]
    | none => [m]

/-- The tiles to which contexts move alone are theirs (R134). -/
def State.reserveMoves (s : State) : State :=
  s.moves.foldl (fun x m => if m.other.isNone then x.modTile m.new (fun t => { t with usedBy := some (t.usedBy.getD m.ctx) }) else x) s

/-- The other modules of a live job learn that it has failed (R107; log 44). -/
def State.tellEnd (s : State) (h status cause : Nat) : State :=
  let j := s.job h
  if status ≠ 0 ∧ j.phase = .live ∧ !j.restored then s.sendCtl (peerList (s.othersOf h)) (.ended (s.jobName h) status cause) else s

/-- A strand and a context of a job that has ended: they do nothing more, and their registers and memory stay as they are. -/
def Strand.ended (st : Strand) : Strand :=
  { st with state := if st.state = .inactive then .inactive else .exited, wait := .none, cut := .none, grant := [], out := [], suspended := [], held := none, pend := none
            haltReq := false, stopReq := false, stopped := false, stepi := none, arrived := false, pegfreed := false, packet := none }
def Ctx.ended (c : Ctx) : Ctx :=
  { c with live := false, retired := true, cmds := [], running := [], posted := [], staging := [], inflight := [], vq := [], lease := {}, locks := [] }

/-- A job ends: its strands and engines do nothing more, its waits are gone, its tiles are free, and its launcher learns of it with the status and
the cause (R100). -/
def State.endJob (s : State) (h status cause : Nat) : State :=
  let j := s.job h
  if j.phase = .ended then s else
  let s0 := s.tellEnd h status cause
  let s1 := (({ s0 with
    strands := s.strands.map (fun (p : Nat × Strand) => if jobOf (ctxOf p.1) = h then (p.1, p.2.ended) else p)
    ctxs := s.ctxs.map (fun (p : Nat × Ctx) => if jobOf p.1 = h then (p.1, p.2.ended) else p)
    waiters := s.waiters.filter (fun w => jobOf (ctxOf w.key) ≠ h)
    moves := s.moves.flatMap (fun (m : Move) => m.without h) }).releaseJob h).reserveMoves
  let s2 := (s1.modJob h (fun j => { j with phase := .ended, gangs := [], prof := none, bps := [], owed := 0#64, savers := [], rollOwed := 0#64 })).applyTenants
  match j.origin with
  | .host q seq epoch => s2.complete q (BitVec.ofNat 32 seq) epoch 0x01 status (if status = 0 then h else cause)
  | .remote _ => s2
  | .strand k =>
    if (s.strand k).state = .exited then s2
    else
      let c := ctxOf k
      s2.sendWhole { dest := c, cls := 7, sender := k,
                     words := [BitVec.ofNat 64 (status + 256 * cause), recUser j.record],
                     hdr := some (packetHeader (vtidOf c) 7 2 2 (BitVec.ofNat 32 h)) }

/-! ### Faults routed to the driver (R222, R223) -/

/-- A fault record of a strand. -/
def faultRecord (key cause kind : Nat) (tval pc : Word) : FaultRecord :=
  { cause := BitVec.ofNat 8 cause, kind := BitVec.ofNat 8 kind, strand := BitVec.ofNat 8 (stridOf key),
    vtid := BitVec.ofNat 16 (vtidOf (ctxOf key)), handle := BitVec.ofNat 64 (jobOf (ctxOf key)), tval := tval, pc := pc }

/-- A record waits for room in the tenant's fault ring. -/
def State.queueFault (s : State) (tenant : Nat) (r : FaultRecord) : State :=
  s.modRing tenant (fun f => { f with waiting := f.waiting ++ [r] })

/-- A stop of the strand is asked for (R219). -/
def Strand.stops (st : Strand) : Bool := st.stopReq || st.haltReq

/-- A stop is requested of every strand of a gang (R116, R219). What a strand or a copy of it stalls at gets its park queue (R121). -/
def State.stopGang (s : State) (h n : Nat) (why : StopReason) (frozen : Bool) : State :=
  let stop (x : State) (key : Nat) : State :=
    (match (s.strand key).wait with
     | .noPark c => x.allocPark c
     | _ => x).modStrand key (fun st => { st with stopReq := true })
  let queues (x : State) (c : Nat) : State :=
    (s.ctx c).running.foldl (fun y r => match r.waitsOn with | some d => y.allocPark d | none => y) x
  let s1 := (s.members h n).foldl (fun y c => (List.range 16).foldl (fun x i => stop x (strandKey c i)) (queues y c)) s
  s1.modGang h n (fun g => { g with state := .stopping, reason := why, frozen := g.frozen || frozen })

/-- Hold a strand for a cause of route H: it writes no trap register, keeps its PC and waits in MEMWAIT; with EN = 0 the job ends
(R222, R223). -/
def State.hold (s : State) (key cause : Nat) (tval : Word) : State :=
  let h := jobOf (ctxOf key)
  let tn := (s.job h).tenant
  let s1 := s.modStrand key (fun st => { st with state := .memwait, wait := .none, held := some (BitVec.ofNat 8 cause, tval) })
  if (s.ring tn).en then s1.queueFault tn (faultRecord key cause 0 tval (s.strand key).pc)
  else s1.endJob h 0x08 cause

/-- The PC of the faulting instruction of a trap: TVAL where the cause is one of a flag of an instruction (R213, R214, R222). -/
def faultPc (cause : Nat) (val resume : Word) : Word := if 0x10 ≤ cause ∧ cause ≤ 0x15 then val else resume

/-- A strand-routed trap that no handler takes: the gang stops and is reported with the PC of the faulting instruction; with EN = 0 the job
ends (R217, R222, R223). -/
def State.routeToHost (s : State) (key cause : Nat) (tval pc resume : Word) : State :=
  let c := ctxOf key
  let h := jobOf c
  let tn := (s.job h).tenant
  let s1 := s.modStrand key (fun st => { st with pc := resume, state := .ready, wait := .none, haltReq := st.haltReq || st.stepi.isSome })
  if (s.ring tn).en then (s1.stopGang h (s.gangNo c) .doubleTrap true).queueFault tn (faultRecord key cause 1 tval pc)
  else s1.endJob h 0x08 cause

/-! ### Trap entry and return (R215–R218) -/

/-- SSTAT of a strand: PRV, LEASE, HALTREQ, OUTST, LLOP (R181). -/
def State.sstat (s : State) (key : Nat) : BitVec 15 :=
  let st := s.strand key
  let count (p : OutKind → Bool) : Nat := (st.out.filter (fun o => p o.kind)).length
  BitVec.ofNat 3 (count (fun k => k == .long || k == .vector)) ++ BitVec.ofNat 4 (count (fun k => k == .relaxed)) ++ 0#4
    ++ BitVec.ofBool st.haltReq ++ 0#1 ++ BitVec.ofBool ((s.ctx (ctxOf key)).lease.holder == some (stridOf key)) ++ 0#1

/-- An open joint aborts with a code, unless it has aborted already (R211). -/
def Strand.abortJoint (st : Strand) (code : BitVec 4) : Strand :=
  if st.joint.isOpen && st.joint.code == 0#4 then { st with joint := { st.joint with code := code } } else st

/-- An outstanding operation with an access that is not performed. -/
def OutOp.stuck (o : OutOp) : Bool := o.access.isSome || !o.elems.isEmpty

/-- A parked access of a strand. -/
def ParkEntry.isOf (key : Nat) (e : ParkEntry) : Bool :=
  match e with
  | .access _ r => r.key == key
  | .again _ k => k == key
  | _ => false

/-- A strand leaves every wait list and every park queue (R119, R207). -/
def State.leaveLists (s : State) (key : Nat) : State :=
  ({ s with waiters := s.waiters.filter (fun w => w.key ≠ key) }).modJob (jobOf (ctxOf key)) (fun j =>
    { j with gangs := tableMap {} j.gangs (fun _ g => { g with park := g.park.filter (fun e => !e.isOf key) }) })

/-- The waits of outstanding WAITs of a strand are given up as it enters a trap (R197; log 22). -/
def State.dropWaits (s : State) (key : Nat) : State :=
  if (s.strand key).out.any OutOp.stuck then s.leaveLists key else s

/-- The registers a trap entry writes, and the PC at the handler (R217). -/
def Strand.enter (st : Strand) (cause : Nat) (val resume : Word) (sstat : BitVec 15) : Strand :=
  { st with
    trap := { st.trap with tpc := resume &&& ~~~3#64, tcause := BitVec.ofNat 7 cause, tval := val, sstats := sstat, lact := st.lstat,
                           ha := true }
    shadow := st.loops, lstat := 0#2, pc := st.trap.tvec, cut := .none
    suspended := st.suspended ++ st.out.filter OutOp.stuck, out := st.out.filter (fun o => !o.stuck) }

/-- TAKING A TRAP (R217): once every outstanding operation has completed. An open joint aborts with STOP; a handler that is active or
absent sends the trap to the driver, with `fpc` as the PC of the faulting instruction. -/
def State.takeTrapAt (s : State) (key cause : Nat) (val resume fpc : Word) : State :=
  let s0 := (s.dropWaits key).modStrand key (fun st => st.abortJoint 7#4)
  let st := s0.strand key
  if st.trap.ha then s0.routeToHost key 0x52 val fpc resume
  else if st.trap.tvec = 0#64 then s0.routeToHost key cause val fpc resume
  else
    let x := s0.sstat key
    (s0.modStrand key (fun st => (st.enter cause val resume x).done s.cycle)).progress (jobOf (ctxOf key))

/-- The same where the cause says which instruction is at fault (R213, R214). -/
def State.takeTrap (s : State) (key cause : Nat) (val resume : Word) : State := s.takeTrapAt key cause val resume (faultPc cause val resume)

/-- What ERET restores (R218): the WAITs the entry has cancelled are outstanding again, with the instructions they had left in their windows. -/
def Strand.leave (st : Strand) : Strand :=
  { st with loops := st.shadow, lstat := st.trap.lact, trap := { st.trap with ha := false }
            out := st.suspended.map (fun o => { o with window := o.window + 1 }) ++ st.out, suspended := [] }

/-- RETURN FROM A TRAP (R218). -/
def State.trapReturn (s : State) (key : Nat) : State := s.jumpWith key (s.strand key).trap.tpc Strand.leave

/-- The route-H causes that hold a strand (R223). -/
def holds (cause : Nat) : Bool :=
  cause == 0x22 || cause == 0x23 || cause == 0x24 || cause == 0x25 || cause == 0x2A || cause == 0x2B || cause == 0x50

end Sys2Proof.Machine
end

