-- ==== Sys2Proof/Machine/Errors.lean ====
section
/-! DEFINITION. Errors that accesses and scrubs find in HBM4E lines: counters, hot lists, retirement and poison (R75–R79, R81, R83). -/

namespace Sys2Proof.Machine

/-! ### Times and orders (R45; log 4) -/

/-- Ticks of a number of nanoseconds. -/
def ticksOf (ns : Nat) : Nat := 17 * ns

/-- 24 hours in ticks. -/
def dayTicks : Nat := ticksOf 86400000000000

/-- The lexicographic order of two lists of numbers. -/
def lexLt (a b : List Nat) : Bool :=
  match a, b with
  | [], [] => false
  | [], _ => true
  | _, [] => false
  | x :: xs, y :: ys => decide (x < y) || (x == y && lexLt xs ys)

/-- An element of a list with the smallest key, the earliest of equals. -/
def smallest (key : α → List Nat) (l : List α) : Option α :=
  l.foldl (fun m x => match m with
    | none => some x
    | some y => if lexLt (key x) (key y) then some x else some y) none

/-! ### Rows (R77–R79) -/

/-- The errors of the last 24 h. -/
def State.recent (s : State) (l : List Nat) : List Nat := l.filter (fun t => decide (s.ticks < t + dayTicks))

/-- The errors of a row. -/
def Stack.rowErrs (st : Stack) (row : Nat) : RowErrors := tableGet {} st.errs row

/-- The score of a row: its corrected errors of the last 24 h (R77). -/
def State.score (s : State) (st : Stack) (row : Nat) : Nat :=
  (s.recent ((st.rowErrs row).before ++ (st.rowErrs row).now)).length

/-- A row enters the hot list, if it is not on it; a full list loses its row of lowest score, oldest last error (R77). -/
def State.noteHot (s : State) (k row : Nat) : State :=
  let st := s.stack k
  if st.hot.contains row then s
  else if st.hot.length < 4096 then s.modStack k (fun st => { st with hot := st.hot ++ [row] })
  else
    match smallest (fun r => [s.score st r, ((st.rowErrs r).before ++ (st.rowErrs r).now).foldl Nat.max 0]) st.hot with
    | none => s
    | some v => s.modStack k (fun st => { st with hot := st.hot.filter (fun r => r != v) ++ [row], hotovf := true })

/-- A row with a lasting fault is retired to a spare of its bank, or poisoned where there is none; so is a row whose spare has a lasting
fault in its turn (R78, R79). SPAREOUT is set with the last spare (R81). -/
def State.retireRow (s : State) (k row : Nat) : State :=
  let st := s.stack k
  if st.poisoned.contains row then s
  else
    let bank := Config.bankOf k row
    let used := (st.retiredRows.filter (fun r => Config.bankOf k r == bank)).length
    (if used < Config.spareRows k bank then
      s.modStack k (fun st => { st with
        retiredRows := st.retiredRows ++ [row]
        spareout := st.spareout || decide (Config.spareRows k bank ≤ used + 1)
        retired := if st.retired = 0xFFF#12 then st.retired else st.retired + 1
        errs := tableSet {} st.errs row { now := [], before := (st.rowErrs row).before ++ (st.rowErrs row).now } })
    else s.modStack k (fun st => { st with poisoned := st.poisoned ++ [row], spareout := true })).rasInterrupt

/-- A corrected error joins the errors of its row. -/
def State.noteError (s : State) (k row : Nat) : State :=
  s.modStack k (fun st => { st with
    ce := if st.ce = 0xFFFFFF#24 then st.ce else st.ce + 1
    errs := tableSet {} st.errs row { st.rowErrs row with now := (st.rowErrs row).now ++ [s.ticks] } })

/-- What ECC finds in a line of a stack (R75–R79, R81, R83): three corrected errors of a row's cells within 24 h are a lasting fault, and so
is one uncorrectable error. After a retirement only errors of the spare's cells count toward the next three, though the score keeps those of
before: the model's choice (log 56). -/
def State.lineError (s : State) (k line : Nat) (e : LineError) : State :=
  let row := Config.rowOf k line
  match e with
  | .none => s
  | .corrected =>
    let s1 := (s.noteHot k row).noteError k row
    if 3 ≤ (s1.recent ((s1.stack k).rowErrs row).now).length then s1.retireRow k row else s1
  | .uncorrectable =>
    ((s.modStack k (fun st => { st with
      ue := if st.ue = 0xFFF#12 then st.ue else st.ue + 1
      bad := if st.bad.contains line then st.bad else st.bad ++ [line] })).rasInterrupt).retireRow k row

/-- An access or a scrub reads the line of a rim key: the errors that stand in it are found (R75, R77). -/
def State.meetLine (s : State) (k : Nat) : State :=
  (s.flawsAt k).foldl (fun x f => ({ x with env := { x.env with flaws := x.env.flaws.erase f } }).lineError f.stack f.line f.err) s

/-- The same for a location. -/
def State.meet (s : State) (l : Loc) : State :=
  match l with
  | .rim k _ => s.meetLine k
  | _ => s

/-- An access to a global address whose line is bad meets the errors that stand there (R75). -/
def State.meetVa (s : State) (tlb : Tlb) (tenant : Nat) (va : Word) : State :=
  match s.translate tlb tenant (natAt 0 49 va) with
  | .leaf level e =>
    if natAt 7 2 e = 0 then s.meetLine ((s.rangeEntry (natAt 11 4 e)).place (natAt 20 44 e * 256 + natAt 0 49 va % 2 ^ pageBits level)) else s
  | .fails _ => s

end Sys2Proof.Machine
end

