-- ==== Sys2Proof/Machine/Access.lean ====
section
/-! DEFINITION. How an access is performed in M, and what else it sets off: joints that see the write (R210), waiters that are served
(R206, R345), parked and discarded tile-window accesses (R185, R119), and the outstanding operations of a strand with their one
A-class trap (R150, R151, R220). -/

namespace Sys2Proof.Machine

/-! ### Performing one access (R193, R205, R343–R345, R376) -/

/-- A word of a joint meets `n` bytes of a context's scratchpad. -/
def JointWord.touched (w : JointWord) (c o n : Nat) : Bool :=
  match w.loc with
  | .spm c' o' => c' == c && decide (o' < o + n) && decide (o < o' + 8)
  | _ => false

/-- A write of `n` bytes to a context's scratchpad aborts every open joint of its strands whose word set holds one of the words, with
CONFLICT (R210, R211). -/
def State.noteJoints (s : State) (l : Loc) (n : Nat) : State :=
  match l with
  | .spm c o =>
    (List.range 16).foldl (fun x i =>
      let k := strandKey c i
      let st := x.strand k
      if st.joint.isOpen && st.joint.words.any (fun w => w.touched c o n) then x.setStrand k (st.abortJoint 1#4) else x) s
  | _ => s

/-- Two byte ranges share a byte. -/
def Loc.meets (l : Loc) (n : Nat) (k : Loc) (m : Nat) : Bool :=
  match l, k with
  | .spm c o, .spm c' o' => c == c' && decide (o < o' + m) && decide (o' < o + n)
  | .rim a _, .rim a' _ => decide (a < a' + m) && decide (a' < a + n)
  | .host p a, .host p' a' => p == p' && decide (a < a' + m) && decide (a' < a + n)
  | .peer p a, .peer p' a' => p == p' && decide (a < a' + m) && decide (a' < a + n)
  | _, _ => false

/-- A word of the range is locked by the joint of another strand (R210). -/
def State.lockedFor (s : State) (key : Nat) (l : Loc) (n : Nat) : Bool :=
  s.strands.any (fun p => p.1 != key && p.2.joint.locked && p.2.joint.words.any (fun w => w.loc.meets 8 l n))

/-- Some word is locked. -/
def State.anyLocked (s : State) : Bool := s.strands.any (fun p => p.2.joint.locked)

/-- Write `n` bytes at a place for a strand, with everything that watches the place told (R73, R210). -/
def State.writeNat (s : State) (l : Loc) (n v key : Nat) : State :=
  ((s.noteWrite l (strandWriter key) false false).putNat l n v).noteJoints l n

/-- The new value an AMO or CAS writes, if any (R343): `x` the word, `y` the operand, `c` the compared value, all below 256^size. -/
def atomicNew (fn size x y c : Nat) : Option Nat :=
  let m := 256 ^ size
  let sx : Int := if 2 * x < m then x else (x : Int) - m
  let sy : Int := if 2 * y < m then y else (y : Int) - m
  match fn with
  | 0 => some y
  | 1 => some ((x + y) % m)
  | 2 => some (x &&& y)
  | 3 => some (x ||| y)
  | 4 => some (x ^^^ y)
  | 5 => some (if sx ≤ sy then x else y)
  | 6 => some (if sx ≤ sy then y else x)
  | 7 => some (Nat.min x y)
  | 8 => some (Nat.max x y)
  | _ => if x = c then some y else none

/-- The test of a WAIT form (R345). -/
def waitTest (fn : Nat) (v y : Word) : Bool :=
  match fn with
  | 10 => v == y
  | 11 => decide (y.toNat ≤ v.toNat)
  | _ => v != y

/-- A loaded value in 64 bits (R338). -/
def extend (size : Nat) (signed : Bool) (v : Nat) : Word :=
  if signed && decide (256 ^ size ≤ 2 * v) then BitVec.ofNat 64 (v + 2 ^ 64 - 256 ^ size) else BitVec.ofNat 64 v

/-- The bytes of a vector register with their marks, lowest first (R376). -/
def maskedBytes (x : Row) (m : Pred) : List (Bool × Byte) :=
  (List.range 256).map (fun i => (bitAt i m, fieldAt (8 * i) 8 x))

/-- A row made of bytes, lowest first. -/
def rowOfBytes (bs : List Byte) : Row := BitVec.ofNat 2048 (bs.foldr (fun b n => b.toNat + 256 * n) 0)

/-- A row with the marked bytes taken from another. -/
def mergeRow (m : Pred) (new old : Row) : Row :=
  let k : Row := BitVec.ofNat 2048 ((List.range 256).foldl (fun n i => if bitAt i m then n + 255 * 2 ^ (8 * i) else n) 0)
  (new &&& k) ||| (old &&& ~~~k)

/-- What an access leaves in registers. -/
structure Gains where
  gw : List (BitVec 5 × Word) := []
  vw : List (BitVec 4 × Row) := []
deriving DecidableEq, Repr

/-- Bytes an access covers. -/
def AccessOp.bytes (op : AccessOp) : Nat :=
  match op with
  | .load size _ => size
  | .store size _ => size
  | .atomic _ size _ _ => size
  | .fullEmpty _ _ => 8
  | .waitForm _ _ => 8
  | .vload _ _ => 256
  | .vstore _ _ => 256

/-- An access reads its place; it writes it. -/
def AccessOp.reads (op : AccessOp) : Bool :=
  match op with
  | .store _ _ => false
  | .vstore _ _ => false
  | .fullEmpty fn _ => fn == 0 || fn == 1 || fn == 4
  | _ => true

def AccessOp.writes (op : AccessOp) : Bool :=
  match op with
  | .load _ _ => false
  | .vload _ _ => false
  | .waitForm _ _ => false
  | .fullEmpty fn _ => fn != 1 && fn != 4
  | _ => true

/-- The scope at which an access synchronises: that of its prefix, device for a full/empty form, system for an unprefixed access (R194,
R196, R205). -/
def Access.syncScope (a : Access) : Nat :=
  match a.op with
  | .fullEmpty _ _ => 3
  | _ => if a.order = .plain then 4 else a.scope

/-- What an access does to the order between writers, where writes to bank pages wait for a fence: one that is not relaxed acquires what
the word's last release left, and releases what its strand sees; a relaxed store leaves nothing to acquire (R73, R194, R205; log 13). -/
def State.synchronise (s : State) (key : Nat) (a : Access) : State :=
  if s.unfenced = [] then s
  else
    let k := a.loc.wordKey
    let s1 := if a.op.reads && a.order != .rx && a.order != .release then s.acquire key (tableGet [] s.released k) a.syncScope else s
    if !a.op.writes then s1
    else if a.order = .rx ∨ a.order = .acquire then
      (match a.op with
       | .atomic _ _ _ _ => s1
       | _ => { s1 with released := tableSet [] s1.released k [] })
    else
      let old : View := match a.op with | .atomic _ _ _ _ => tableGet [] s1.released k | _ => []
      { s1 with released := tableSet [] s1.released k (old.join (s1.viewOf key) a.syncScope) }

/-- Perform an access at its place, for a strand; none where its condition does not hold and it waits (R205, R345). -/
def State.performAt (s : State) (key : Nat) (a : Access) : Option (State × Gains) :=
  match a.op with
  | .load size signed => some (s.loaded a.loc key, { gw := [(a.dest, extend size signed (s.loadNat a.loc size key))] })
  | .store size data => some (s.writeNat a.loc size (data.toNat % 256 ^ size) key, {})
  | .atomic fn size y c =>
    let x := s.readNat a.loc size
    let m := 256 ^ size
    match atomicNew fn size x (y.toNat % m) (c.toNat % m) with
    | some v => some (s.writeNat a.loc size v key, { gw := [(a.dest, BitVec.ofNat 64 x)] })
    | none => some (s.observe a.loc key, { gw := [(a.dest, BitVec.ofNat 64 x)] })
  | .fullEmpty fn data =>
    let full := s.fullAt a.loc
    match fn with
    | 0 => if full then some (((s.loaded a.loc key).setFull a.loc false).noteJoints a.loc 8, { gw := [(a.dest, BitVec.ofNat 64 (s.loadNat a.loc 8 key))] }) else none
    | 1 => if full then some (s.loaded a.loc key, { gw := [(a.dest, BitVec.ofNat 64 (s.loadNat a.loc 8 key))] }) else none
    | 2 => if full then none else some ((s.writeNat a.loc 8 data.toNat key).setFull a.loc true, {})
    | 3 => some ((s.writeNat a.loc 8 data.toNat key).setFull a.loc true, {})
    | 4 => some (s, { gw := [(a.dest, boolWord full)] })
    | 5 => some ((s.setFull a.loc true).noteJoints a.loc 8, {})
    | _ => some ((s.setFull a.loc false).noteJoints a.loc 8, {})
  | .waitForm fn y =>
    let v := BitVec.ofNat 64 (s.readNat a.loc 8)
    if waitTest fn v y then some (s.observe a.loc key, { gw := [(a.dest, v)] }) else none
  | .vload vd mask =>
    some (s.loadedBytes a.loc 256 key, { vw := [(vd, mergeRow mask (rowOfBytes (s.loadBytes a.loc 256 key)) ((s.strand key).rv vd))] })
  | .vstore data mask =>
    let s1 := (List.range 32).foldl (fun x i =>
      if natAt (8 * i) 8 mask = 0 then x else (x.noteWrite (a.loc.plus (8 * i)) (strandWriter key) false false).noteJoints (a.loc.plus (8 * i)) 8) s
    some (s1.putMasked a.loc (maskedBytes data mask), {})

/-- A posted write: a relaxed store to a host page, which no completion answers (R103). -/
def Access.posted (a : Access) : Bool := a.order == .rx && !a.op.reads

/-- An access that cannot be performed: its line is bad (R75), its peer is lost (R104), another joint has locked its word (R210), or the host
does not complete it (R103). -/
def State.barsAccess (s : State) (key : Nat) (a : Access) : Bool :=
  s.locBad a.loc || s.peerGone a.loc || s.lockedFor key a.loc a.op.bytes || (s.hostAnswer a.loc != .completes && !(a.posted && s.portUp (match a.loc with | .host p _ => p | _ => 0)))

/-- The same, with the line's errors met (R75) and the order it makes (R73). A posted write that the host does not take is lost. -/
def State.performRaw (s : State) (key : Nat) (a : Access) : Option (State × Gains) :=
  if s.barsAccess key a then none
  else if s.hostAnswer a.loc ≠ .completes then some (s, {})
  else
    match (s.meet a.loc).performAt key a with
    | some (s1, g) => some (s1.synchronise key a, g)
    | none => none

/-- An access may write: the words it covers are looked at by their waiters afterwards. -/
def AccessOp.span (op : AccessOp) : Nat :=
  match op with
  | .load _ _ => 0
  | .store size _ => size
  | .atomic _ size _ _ => size
  | .fullEmpty fn _ => if fn = 1 ∨ fn = 4 then 0 else 8
  | .waitForm _ _ => 0
  | .vload _ _ => 0
  | .vstore _ _ => 256

/-- Registers take what an access or an operation left (R152). -/
def Strand.gain (st : Strand) (gw : List (BitVec 5 × Word)) (vw : List (BitVec 4 × Row)) : Strand :=
  vw.foldl (fun x p => x.setV p.1 p.2) (gw.foldl (fun x p => x.setG p.1 p.2) st)

/-- A served waiter's access is done: an outstanding WAIT of its window (R345), or the instruction the strand waits at. -/
def State.served (s : State) (w : WaitReq) (g : Gains) : State :=
  if (s.strand w.key).out.any (fun o => o.access == some w.acc) then
    ({ s with waiters := s.waiters.filter (fun x => x ≠ w) } : State).modStrand w.key (fun st => { st with
      out := st.out.map (fun o => if o.access == some w.acc then { o with access := none, gw := g.gw, vw := g.vw, doneAt := s.cycle } else o) })
  else (s.chargeAt w.key w.acc.loc false).retireWith w.key (fun st => st.gain g.gw g.vw)

/-- A request of a WAIT form. -/
def WaitReq.isWait (w : WaitReq) : Bool :=
  match w.acc.op with
  | .waitForm _ _ => true
  | _ => false

/-- The first of the waiters of a word that may go on, with the state after its access: the first full/empty request, which none overtakes,
or a WAIT form whose test holds, in arrival order (R206, R345; log 16). -/
def State.firstServed (s : State) (ws : List WaitReq) (blocked : Bool) : Option (WaitReq × State × Gains) :=
  match ws with
  | [] => none
  | w :: t =>
    if !w.isWait && blocked then s.firstServed t blocked
    else match s.performRaw w.key w.acc with
      | some (s1, g) => some (w, s1, g)
      | none => s.firstServed t (blocked || !w.isWait)

/-- Serve the waiters of one word after a write: each WAIT form is tested, full/empty requests are served in arrival order up to the first
whose condition does not hold, and a served request that writes is such a write (R206, R345). -/
def State.serveWord (s : State) (l : Loc) (fuel : Nat) : State :=
  match fuel with
  | 0 => s
  | fuel + 1 =>
    match s.firstServed (s.waiters.filter (fun w => w.acc.loc.word == l)) false with
    | none => s
    | some (w, s1, g) => ({ s1 with waiters := s1.waiters.erase w }.served w g).serveWord l fuel

/-- A word lies in the `n` bytes from a place up. -/
def Loc.within (w l : Loc) (n : Nat) : Bool :=
  match w, l with
  | .spm c o, .spm c' o' => c == c' && decide (o < o' + n) && decide (o' < o + 8)
  | .rim a _, .rim a' _ => decide (a < a' + n) && decide (a' < a + 8)
  | .host p a, .host p' a' => p == p' && decide (a < a' + n) && decide (a' < a + 8)
  | .peer p a, .peer p' a' => p == p' && decide (a < a' + n) && decide (a' < a + 8)
  | _, _ => false

/-- After a write of `n` bytes at a place, the waiters of its words are looked at (R206, R345). -/
def State.serve (s : State) (l : Loc) (n : Nat) : State :=
  if n = 0 then s
  else ((s.waiters.map (fun w => w.acc.loc.word)).filter (fun w => w.within l n)).dedup.foldl
    (fun x w => x.serveWord w (x.waiters.length)) s

/-- Perform an access and serve the waiters its write lets go on. -/
def State.perform (s : State) (key : Nat) (a : Access) : Option (State × Gains) :=
  match s.performRaw key a with
  | none => none
  | some (s1, g) => some (s1.serve a.loc a.op.span, g)

/-! ### Wait lists (R57, R206, R207) -/

/-- The controller a wait is held at: a stack, or a bank of a context's scratchpad. -/
def Loc.controller (l : Loc) : Nat × Nat × Nat :=
  match l with
  | .spm c o => (0, c, o / 256 % 64)
  | .rim a _ => (1, stackOfKey a, 0)
  | .host p _ => (2, p, 0)
  | .peer p a => (3, p, a)

/-- Requests a controller holds at most: 64 for each scratchpad bank, 1,024 for each stack (R57, R206). -/
def Loc.waitRoom (l : Loc) : Nat :=
  match l with
  | .spm _ _ => 64
  | _ => 1024

def State.waitFull (s : State) (l : Loc) : Bool :=
  decide (l.waitRoom ≤ (s.waiters.filter (fun w => w.acc.loc.controller == l.controller)).length)

/-- A refused request is reissued after 64 cc (scratchpad) or 256 cc (HBM4E) (R57, R206). -/
def Loc.reissue (l : Loc) : Nat :=
  match l with
  | .spm _ _ => 64
  | _ => 256

/-- The wait an access takes up. -/
def AccessOp.wait (op : AccessOp) : Wait :=
  match op with
  | .waitForm _ _ => .waitForm
  | _ => .fullEmpty

/-! ### Outstanding operations (R150, R151, R220) -/

/-- An operation has completed: its results are written and its flags set. -/
def Strand.settle (st : Strand) (o : OutOp) : Strand :=
  let x := st.gain o.gw o.vw
  { o.kw.foldl (fun y p => y.setK p.1 p.2) x with fflags := x.fflags ||| o.flags }

/-- The lowest flag set (R215). -/
def lowestFlag (f : BitVec 6) : Nat := (List.range 6).findIdx (fun i => bitAt i f)

/-- An access is performed before a later one of its strand: they share a byte (R193), or a read of a host port comes behind a store to
it (R192). -/
def Access.ahead (a b : Access) : Bool :=
  a.loc.meets a.op.bytes b.loc b.op.bytes ||
    (match a.loc, b.loc with
     | .host p _, .host q _ => p == q && a.op.writes && b.op.reads
     | _, _ => false)

/-- The accesses of an outstanding operation that are not yet performed. -/
def OutOp.pending (o : OutOp) : List Access := o.access.toList ++ o.elems.map (·.2)

/-- An outstanding WAIT whose test does not hold yet. -/
def OutOp.waits (o : OutOp) : Bool :=
  match o.access with
  | some a => match a.op with | .waitForm _ _ => true | _ => false
  | none => false

/-- An outstanding access other than a WAIT that is not performed: an error in its line, a silent host, a locked word (R103, R210, R337). -/
def OutOp.barred (o : OutOp) : Bool := o.stuck && !o.waits

/-- Some access of one outstanding operation must be performed before one of another. -/
def OutOp.ahead (o p : OutOp) : Bool := o.pending.any (fun a => p.pending.any (fun b => a.ahead b))

/-- Two relaxed stores of a strand that may merge: they are to one word (R195). -/
def Access.mates (a b : Access) : Bool :=
  a.order == .rx && b.order == .rx && a.loc.word == b.loc.word &&
    (match a.op, b.op with
     | .store _ _, .store _ _ => true
     | _, _ => false)

/-- Two operations have stores that may merge. -/
def OutOp.mates (o p : OutOp) : Bool := o.pending.any (fun a => p.pending.any (fun b => a.mates b))

/-- The outstanding operations, with their places, that are performed with the one at a place, oldest first: those before it that must be
performed before it or before one that must (R192, R193), and, where stores merge, those with a store to its word (R195). -/
def performedWith (out : List OutOp) (i : Nat) (o : OutOp) (merge : Bool) : List (OutOp × Nat) :=
  out.zipIdx.foldr (fun (x : OutOp × Nat) (acc : List (OutOp × Nat)) => if x.2 = i || (merge && x.1.mates o) || (decide (x.2 < i) && acc.any (fun y => x.1.ahead y.1)) then x :: acc else acc) []

/-- One access of an outstanding operation: the operation's place, the element it belongs to (R378), and the access. -/
abbrev OutItem := Nat × Option Nat × Access

/-- The accesses of an outstanding operation, in the order of its elements. -/
def OutOp.items (o : OutOp) (i : Nat) : List OutItem := o.access.toList.map (fun a => (i, none, a)) ++ o.elems.map (fun e => (i, some e.1, e.2))

/-- A row with some elements of `w` bytes replaced. -/
def putElements (w : Nat) (old : Row) (vs : List (Nat × Nat)) : Row :=
  vs.foldl (fun x p => mergeRow (BitVec.ofNat 256 ((2 ^ w - 1) * 2 ^ (w * p.1))) (BitVec.ofNat 2048 (p.2 * 2 ^ (8 * w * p.1))) x) old

/-- The value an element load has brought. -/
def Gains.value (g : Gains) : Nat :=
  match g.gw with
  | p :: _ => p.2.toNat
  | [] => 0

/-- An operation after one of its accesses. -/
def OutOp.gainItem (o : OutOp) (e : Option Nat) (a : Access) (g : Gains) : OutOp :=
  match e with
  | none => { o with access := none, gw := g.gw, vw := g.vw }
  | some j => { o with elems := o.elems.filter (fun x => x.1 ≠ j), vw := o.vw.map (fun p => (p.1, putElements a.op.bytes p.2 [(j, g.value)])) }

/-- Perform outstanding accesses in their order. A store that merges with the next one is not seen by itself: its word's waiters are not
looked at between the two (R195). The bits of `m` say which do. -/
def State.performItems (s : State) (key m : Nat) (l : List OutItem) : State :=
  match l with
  | [] => s
  | (i, e, a) :: t =>
    match s.performRaw key a with
    | none => s.performItems key m t
    | some (s1, g) =>
      let s2 := if m % 2 = 1 && t.any (fun x => a.mates x.2.2) then s1 else s1.serve a.loc a.op.span
      (s2.modStrand key (fun st => { st with out := st.out.mapIdx (fun n x => if n = i then x.gainItem e a g else x) })).performItems key (m / 2) t

/-- The accesses of an outstanding operation are performed, after those they must follow; one whose condition does not hold stays
(R193, R195, R197). Whether relaxed stores to one word merge is a free choice. -/
def State.performOp (s : State) (key : Nat) (o : OutOp) : State :=
  let out := (s.strand key).out
  if !out.contains o then s
  else
    let i := out.idxOf o
    if out.zipIdx.any (fun (x : OutOp × Nat) => x.2 != i && x.1.mates o) || decide (1 < o.elems.length) then
      let m := Config.schedule s.free
      { s with free := s.free + 1 }.performItems key (m / 2) ((performedWith out i o (m % 2 == 1)).flatMap (fun (x : OutOp × Nat) => x.1.items x.2))
    else s.performItems key 0 ((performedWith out i o false).flatMap (fun (x : OutOp × Nat) => x.1.items x.2))

/-- A store to a host page on a port that is not performed yet. -/
def Access.postedTo (a : Access) (p : Nat) : Bool := a.op.writes && (match a.loc with | .host q _ => p == q | _ => false)

/-- A read of a host port performs the stores posted to that port before it, whoever posted them (R103, R192). -/
def State.flushPort (s : State) (p : Nat) : State :=
  s.strands.foldl (fun x q => (q.2.out.filter (fun o => o.pending.any (fun a => a.postedTo p))).foldl (fun y o => y.performOp q.1 o) x) s

/-- The stores posted to the port that an access reads (R192). -/
def State.flushFor (s : State) (a : Access) : State :=
  match a.loc with
  | .host p _ => if a.posted then s else s.flushPort p
  | _ => s

/-- An outstanding operation that is not yet performed is performed now. -/
def State.performOut (s : State) (key : Nat) (o : OutOp) : State :=
  if !o.stuck then s
  else (o.pending.foldl State.flushFor s).performOp key o

/-- Perform the outstanding accesses a test selects, oldest first (R194, R197). -/
def State.force (s : State) (key : Nat) (p : OutOp → Bool) : State :=
  ((s.strand key).out.filter p).foldl (fun x o => x.performOut key o) s

/-- A performed operation raised a flag that the strand enables. -/
def OutOp.traps (o : OutOp) (fen : BitVec 6) : Bool := !o.stuck && o.flags &&& fen != 0#6

/-- The waits of a strand are cancelled with no effect: its places in wait lists and its parked accesses (R119, R197, R219). A PEGW keeps
its peg in view (R364), and a strand waiting in LEASE its place in the mask (R360). -/
def State.cancelWaits (s : State) (key : Nat) : State :=
  (s.leaveLists key).modStrand key (fun st =>
    match st.wait with
    | .pegw _ _ _ => { st with state := .ready }
    | w => { st with state := .ready, wait := .none, cut := w })

/-- Every outstanding operation that is performed completes, with its flags. The oldest that raised an enabled flag gives the one trap, with
`resume` as TPC, and the strand's waits are cancelled (R197, R215, R220). The second component says whether a trap was taken. -/
def State.settleAll (s : State) (key : Nat) (resume : Word) : State × Bool :=
  let st := s.strand key
  let s1 := s.setStrand key { (st.out.filter (fun o => !o.stuck)).foldl Strand.settle st with out := st.out.filter OutOp.stuck }
  match st.out.find? (fun o => o.traps st.fen) with
  | some o => ((s1.cancelWaits key).takeTrap key (0x10 + lowestFlag (o.flags &&& st.fen)) o.pc resume, true)
  | none => (s1, false)

/-- Complete the outstanding operations a test selects that are performed, oldest first. If one of them raises an enabled flag, all the
others complete too, and the one trap has TPC the first instruction not issued (R215, R220); it is taken once every outstanding access
but a WAIT is performed (R197, R217; log 22). The second component says that the strand goes no further: a trap was taken, or waits. -/
def State.completeOps (s : State) (key : Nat) (p : OutOp → Bool) : State × Bool :=
  let s1 := s.force key p
  let st := s1.strand key
  if (st.out.filter p).any (fun o => o.traps st.fen) then
    let s2 := s1.force key (fun _ => true)
    if (s2.strand key).out.any OutOp.barred then (s2, true) else s2.settleAll key (s2.strand key).pc
  else
    (s1.setStrand key { (st.out.filter (fun o => p o && !o.stuck)).foldl Strand.settle st with
      out := st.out.filter (fun o => !(p o && !o.stuck)) }, false)

/-- Issue an operation of latency `lam` with lookahead `l`: the PC goes on; without a window the operation completes before the next
instruction, with one it stays outstanding (R149–R151). -/
def State.issueLong (s : State) (key lam : Nat) (l : BitVec 4) (o : OutOp) : State :=
  let op := { o with pc := (s.strand key).pc, window := l.toNat, doneAt := s.cycle + lam }
  let s1 := (s.retireWith key id).modStrand key (fun st => { st with out := st.out ++ [op] })
  if l = 0#4 then
    ((s1.completeOps key (fun x => decide (x = op))).1).delay key lam (if o.kind = .long ∨ o.kind = .vector then .engwait else .memwait)
  else s1

/-- A P-class condition of the strand's instruction: earlier operations complete first, and one that raises an enabled flag gives the
trap instead (R213, R220); then a route-H cause holds the strand, and every other traps with TPC the instruction. -/
def State.raise (s : State) (key cause : Nat) (tval : Word) : State :=
  let s0 := s.force key (fun _ => true)
  if (s0.strand key).out.any OutOp.barred then s0.block key .memwait .lookahead
  else
    match s0.settleAll key (s0.strand key).pc with
    | (s1, true) => s1
    | (s1, false) =>
      if holds cause then
        (if cause = 0x50 then s1.meetVa (s1.tile (s1.ptid (ctxOf key))).tlb (s1.job (jobOf (ctxOf key))).tenant tval else s1).hold key cause tval
      else s1.takeTrap key cause tval (s1.strand key).pc

/-- What has become of an access of an operation that completes at a cycle, where its response is an error (R103, R104, R337). -/
def State.errorOf (s : State) (doneAt : Nat) (a : Access) : Option Nat :=
  if s.locBad a.loc then some 0x50
  else if s.peerGone a.loc then some 0x2D
  else match s.hostAnswer a.loc with
    | .refuses => some 0x2C
    | .silent => if doneAt + hostPatience ≤ s.cycle then some 0x2C else none
    | .completes => none

/-- An outstanding WAIT whose word will not answer: its line has gone bad, or its peer is lost (R75, R104). -/
def State.waitGone (s : State) (o : OutOp) : Bool := o.waits && o.pending.any (fun a => s.locBad a.loc || s.peerGone a.loc)

/-- The first outstanding access that cannot be performed. -/
def State.firstBarred (s : State) (key : Nat) : Option OutOp := (s.strand key).out.find? (fun o => o.barred || s.waitGone o)

/-- The request at whose instruction the strand waits, where its response is an error, and the cause (R75, R104). -/
def State.failedWait (s : State) (key : Nat) : Option (WaitReq × Nat) :=
  match s.waiters.find? (fun w => w.key == key && (s.errorOf s.cycle w.acc).isSome && !(s.strand key).out.any (fun o => o.access == some w.acc)) with
  | some w => some (w, (s.errorOf s.cycle w.acc).getD 0)
  | none => none

/-- The first outstanding access whose response is an error, with every access but a WAIT before it performed: its operation, its address and
the cause (R103, R104, R337). -/
def State.failed (s : State) (key : Nat) : Option (OutOp × Word × Nat) :=
  match s.firstBarred key with
  | some o =>
    if s.cycle < o.doneAt then none
    else match o.pending.find? (fun a => (s.errorOf o.doneAt a).isSome) with
      | some a => some (o, a.va, (s.errorOf o.doneAt a).getD 0)
      | none => none
  | none => none

/-- The strand has accesses outstanding that are not performed: what a fence, a release or a message end waits for (R194, R346). -/
def State.unperformed (s : State) (key : Nat) : Bool := (s.strand key).out.any OutOp.stuck

/-- Perform every earlier access of the strand; false where one must still wait (R194, R346). -/
def State.settleAccesses (s : State) (key : Nat) : State × Bool :=
  let s1 := s.force key (fun _ => true)
  (s1, !s1.unperformed key)

end Sys2Proof.Machine
end

