-- ==== Sys2Proof/Machine/Flags.lean ====
section
/-! DEFINITION. Number formats, rounding, conversions and the flags they raise (R251–R261, R266, R271–R274).

A finite value is a dyadic rational, `(-1)^neg * m * 2^e`; quotients, roots and the special functions carry a sticky bit for the
part below `m`. Format codes are those of R371 (0 fp64, 1 fp32, 2 fp16, 3 bf16, 4 e4m3, 5 e5m2, 6 lut4, 8–11 i8–i64,
12–15 n8–n64); 16, 17 and 18 stand for mx6a, mx6b and mx4. -/

namespace Sys2Proof.Machine

/-- FFLAGS and its bits (R273). -/
abbrev Flags := BitVec 6

def fInvalid : Flags := 1#6
def fDivzero : Flags := 2#6
def fOverflow : Flags := 4#6
def fUnderflow : Flags := 8#6
def fInexact : Flags := 16#6
def fRange : Flags := 32#6

/-- A flag where a condition holds. -/
def flagIf (c : Bool) (f : Flags) : Flags := if c then f else 0#6

/-- What a command may raise: never inexact (R275). -/
def commandFlags (f : Flags) : Flags := f &&& 0b101111#6

/-- The value of an element (R252, R253): absent, a NaN (signalling or quiet), an infinity, or a finite value. -/
inductive Num where
  | absent
  | nan (signalling : Bool)
  | inf (neg : Bool)
  | fin (neg : Bool) (m : Nat) (e : Int)
deriving DecidableEq, Repr

/-! ### The formats (R251, R252) -/

/-- A floating-point format. -/
structure Fmt where
  /-- Width, and width of the exponent and of the fraction. -/
  w : Nat
  ew : Nat
  fw : Nat
  bias : Nat
  /-- e = 0, f ≠ 0 is flushed. -/
  flush : Bool
  /-- An exponent of all ones is infinity or NaN. -/
  ieee : Bool
  /-- No NaN and no negative zero: an MX element. -/
  mx : Bool
  /-- The largest finite code and the canonical NaN. -/
  top : Nat
  qnan : Nat
deriving DecidableEq, Repr

def fp64 : Fmt := ⟨64, 11, 52, 1023, false, true, false, 0x7FEFFFFFFFFFFFFF, 0x7FF8000000000000⟩
def fp32 : Fmt := ⟨32, 8, 23, 127, false, true, false, 0x7F7FFFFF, 0x7FC00000⟩
def fp16 : Fmt := ⟨16, 5, 10, 15, true, true, false, 0x7BFF, 0x7E00⟩
def bf16 : Fmt := ⟨16, 8, 7, 127, true, true, false, 0x7F7F, 0x7FC0⟩
def e4m3 : Fmt := ⟨8, 4, 3, 7, true, false, false, 0x7E, 0x7F⟩
def e5m2 : Fmt := ⟨8, 5, 2, 15, true, true, false, 0x7B, 0x7E⟩
def mx6a : Fmt := ⟨6, 2, 3, 1, false, false, true, 0b011111, 0⟩
def mx6b : Fmt := ⟨6, 3, 2, 3, false, false, true, 0b011111, 0⟩
def mx4 : Fmt := ⟨4, 2, 1, 1, false, false, true, 0b0111, 0⟩

/-- The floating-point format of a code; fp64 for a code that is none. -/
def fmtOf (fc : Nat) : Fmt :=
  match fc with
  | 1 => fp32
  | 2 => fp16
  | 3 => bf16
  | 4 => e4m3
  | 5 => e5m2
  | 16 => mx6a
  | 17 => mx6b
  | 18 => mx4
  | _ => fp64

def isFloat (fc : Nat) : Bool := decide (fc ≤ 5)
def isInt (fc : Nat) : Bool := decide (8 ≤ fc) && decide (fc ≤ 11)
def isNat (fc : Nat) : Bool := decide (12 ≤ fc) && decide (fc ≤ 15)
def isMx (fc : Nat) : Bool := decide (16 ≤ fc)

/-- Width in bits of the elements of a format. -/
def fcBits (fc : Nat) : Nat :=
  match fc with
  | 0 => 64
  | 1 => 32
  | 2 => 16
  | 3 => 16
  | 4 => 8
  | 5 => 8
  | 6 => 4
  | 8 => 8
  | 9 => 16
  | 10 => 32
  | 11 => 64
  | 12 => 8
  | 13 => 16
  | 14 => 32
  | 15 => 64
  | 16 => 6
  | 17 => 6
  | 18 => 4
  | _ => 8

/-- Absent codes (R251): all ones, the negative zero of the MX formats, the most negative integer, lut4 code 8. -/
def Fmt.absent (f : Fmt) : Nat := if f.mx then 2 ^ (f.w - 1) else 2 ^ f.w - 1

/-- The absent code of a format, none for the n types. -/
def absentCode (fc : Nat) : Option Nat :=
  if isNat fc then none
  else if isInt fc || fc == 6 then some (2 ^ (fcBits fc - 1))
  else some (fmtOf fc).absent

/-- A code is the absent code of its format. -/
def isAbsent (fc c : Nat) : Bool := absentCode fc == some c

/-! ### Reading a code (R252, R256) -/

/-- A signed value of `w` bits. -/
def signedOf (w c : Nat) : Int := if 2 * (c % 2 ^ w) < 2 ^ w then ((c % 2 ^ w : Nat) : Int) else ((c % 2 ^ w : Nat) : Int) - 2 ^ w

/-- An integer as an element value. -/
def Num.ofInt (i : Int) : Num := .fin (decide (i < 0)) i.natAbs 0

/-- The value of a floating-point code (R252, R259). -/
def Fmt.read (f : Fmt) (c : Nat) : Num :=
  if c = f.absent then .absent
  else
    let neg := decide (2 ^ (f.w - 1) ≤ c)
    let e := c / 2 ^ f.fw % 2 ^ f.ew
    let fr := c % 2 ^ f.fw
    if f.ieee && e == 2 ^ f.ew - 1 then
      if fr = 0 then .inf neg else .nan (decide (fr < 2 ^ (f.fw - 1)))
    else if !f.mx && !f.ieee && c % 2 ^ (f.w - 1) == f.qnan then .nan false
    else if e = 0 then
      (if f.flush then .fin neg 0 0 else .fin neg fr (1 - (f.bias : Int) - (f.fw : Int)))
    else .fin neg (2 ^ f.fw + fr) ((e : Int) - (f.bias : Int) - (f.fw : Int))

/-- Entry `c` of a lut4 table, as a signed number; none where the code is absent (R256). -/
def lutValue (tbl : BitVec 128) (c : Nat) : Option Int :=
  let e := natAt (8 * c) 8 tbl
  if c = 8 ∨ e = 0x80 then none else some (signedOf 8 e)

/-- The value of a code of any format; `tbl` is the lut4 table, `s` the scale of an MX element (R255, R271). -/
def readNum (fc c : Nat) (tbl : BitVec 128) (s : Nat) : Num :=
  if fc = 6 then (match lutValue tbl c with | some v => .ofInt v | none => .absent)
  else if isNat fc then .fin false c 0
  else if isInt fc then (if isAbsent fc c then .absent else .ofInt (signedOf (fcBits fc) c))
  else if isMx fc then
    if s = 0xFF then .absent
    else match (fmtOf fc).read c with
      | .fin n m e => .fin n m (e + (s : Int) - 127)
      | x => x
  else (fmtOf fc).read c

/-! ### Rounding (R258, R259, R274) -/

/-- `m * 2^e` plus a part below it where `sticky`, in units of `2^t`, rounded under a mode; the second component says it was not
exact. A sticky part is only rounded where `e < t`. -/
def roundUnits (mode : Nat) (neg : Bool) (m : Nat) (e : Int) (sticky : Bool) (t : Int) : Nat × Bool :=
  if t ≤ e then (m * 2 ^ (e - t).toNat, sticky)
  else
    let d := (t - e).toNat
    let q := m / 2 ^ d
    let r := m % 2 ^ d
    let inexact := r != 0 || sticky
    let up := match mode with
      | 0 => decide (2 ^ d < 2 * r) || (2 * r == 2 ^ d && (sticky || q % 2 == 1))
      | 1 => false
      | 2 => !neg && inexact
      | _ => neg && inexact
    (if up then q + 1 else q, inexact)

/-- A sign bit over a magnitude. -/
def Fmt.signed (f : Fmt) (neg : Bool) (mag : Nat) : Nat := if neg then 2 ^ (f.w - 1) + mag else mag

/-- What overflow gives (R259 step 2). -/
def Fmt.overflowed (f : Fmt) (mode : Nat) (neg : Bool) : Nat :=
  let toInf := f.ieee && (mode == 0 || (mode == 2 && !neg) || (mode == 3 && neg))
  f.signed neg (if toInf then (2 ^ f.ew - 1) * 2 ^ f.fw else f.top)

/-- Zero of a sign; an MX element has no negative zero. -/
def Fmt.zero (f : Fmt) (neg : Bool) : Nat := if f.mx then 0 else f.signed neg 0

/-- The number of bits of a magnitude less one, as an exponent. -/
def expOf (m : Nat) (e : Int) : Int := (Nat.log2 m : Int) + e

/-- Round a finite non-zero value to a format (R259). -/
def Fmt.round (f : Fmt) (mode : Nat) (neg : Bool) (m : Nat) (e : Int) (sticky : Bool) : Nat × Flags :=
  if m = 0 then (f.zero neg, flagIf sticky (fUnderflow ||| fInexact))
  else
    let emin : Int := 1 - (f.bias : Int)
    -- step 1, the exponent unbounded
    let free := roundUnits mode neg m e sticky (expOf m e - (f.fw : Int))
    let k := expOf free.1 (expOf m e - (f.fw : Int))
    let tiny := decide (k < emin)
    if tiny && f.flush then (f.zero neg, fUnderflow ||| fInexact)
    else
      let t := if expOf m e < emin then emin - (f.fw : Int) else expOf m e - (f.fw : Int)
      let r := roundUnits mode neg m e sticky t
      if r.1 = 0 then (f.zero neg, fUnderflow ||| fInexact)
      else
        let kr := expOf r.1 t
        let mag : Nat :=
          if kr < emin then r.1
          else ((kr + (f.bias : Int)).toNat) * 2 ^ f.fw + (r.1 * 2 ^ f.fw / 2 ^ (Nat.log2 r.1)) % 2 ^ f.fw
        if f.top < mag then (f.overflowed mode neg, fOverflow ||| fInexact)
        else (f.signed neg mag, flagIf r.2 fInexact ||| flagIf (tiny && r.2) fUnderflow)

/-- Write an element value to a floating-point format, with the flags of the rounding: an infinity saturates where the format has
none, a NaN is canonical, and +0 in an MX format (R259, R271). -/
def Fmt.write (f : Fmt) (mode : Nat) (x : Num) : Nat × Flags :=
  match x with
  | .absent => (f.absent, 0#6)
  | .nan _ => (f.qnan, 0#6)
  | .inf neg => if f.ieee then (f.signed neg ((2 ^ f.ew - 1) * 2 ^ f.fw), 0#6) else (f.signed neg f.top, fOverflow)
  | .fin neg m e => if m = 0 then (f.zero neg, 0#6) else f.round mode neg m e false

/-- A value rounded to an integer under a mode, and whether it was not exact. -/
def roundInt (mode : Nat) (neg : Bool) (m : Nat) (e : Int) : Int × Bool :=
  let r := roundUnits mode neg m e false 0
  (if neg then -(r.1 : Int) else (r.1 : Int), r.2)

/-! ### Conversions (R254, R271, R272) -/

/-- A number of `w` bits that stands for an integer. -/
def codeOf (w : Nat) (i : Int) : Nat := (i % 2 ^ w).toNat

/-- Saturate to the symmetric range of an i type (R254). -/
def saturate (w : Nat) (i : Int) : Int × Flags :=
  let top : Int := 2 ^ (w - 1) - 1
  if top < i then (top, fOverflow) else if i < -top then (-top, fOverflow) else (i, 0#6)

/-- A value as an integer of an i type, as a number; NaN gives 0 (R271). -/
def toInt (w mode : Nat) (x : Num) : Int × Flags :=
  match x with
  | .absent => (-(2 ^ (w - 1)), 0#6)
  | .nan _ => (0, fInvalid)
  | .inf neg => (if neg then -(2 ^ (w - 1) - 1) else 2 ^ (w - 1) - 1, fOverflow)
  | .fin neg m e =>
    let r := roundInt mode neg m e
    let q := saturate w r.1
    (q.1, q.2 ||| flagIf (r.2 || q.2 != 0#6) fInexact)

/-- A value as an n type (R271). -/
def toNatType (w mode : Nat) (x : Num) : Nat × Flags :=
  match x with
  | .absent => (0, fInvalid)
  | .nan _ => (0, fInvalid)
  | .inf neg => (if neg then 0 else 2 ^ w - 1, fOverflow)
  | .fin neg m e =>
    let r := roundInt mode neg m e
    if r.1 < 0 then (0, fOverflow ||| fInexact)
    else if (2 ^ w - 1 : Int) < r.1 then (2 ^ w - 1, fOverflow ||| fInexact)
    else (r.1.toNat, flagIf r.2 fInexact)

/-- The nearest present entry of a lut4 table, lowest code among equals: code and entry (R272). -/
def lutNearest (tbl : BitVec 128) (v : Int) (codes : List Nat) : Option (Nat × Int) :=
  match codes with
  | [] => none
  | c :: t =>
    match lutValue tbl c, lutNearest tbl v t with
    | some x, some (c', y) => if (v - x).natAbs ≤ (v - y).natAbs then some (c, x) else some (c', y)
    | some x, none => some (c, x)
    | none, r => r

/-- A finite value equals an integer. -/
def equalsInt (neg : Bool) (m : Nat) (e : Int) (i : Int) : Bool :=
  let r := roundInt 1 neg m e
  r.1 == i && !r.2

/-- A value as a lut4 code (R272). -/
def toLut (tbl : BitVec 128) (mode : Nat) (x : Num) : Nat × Flags :=
  match x with
  | .absent => (8, 0#6)
  | .nan _ =>
    (match lutNearest tbl 0 (List.range 16) with
     | some (c, _) => (c, fInvalid)
     | none => (8, fInvalid))
  | .inf neg =>
    (match lutNearest tbl (if neg then -127 else 127) (List.range 16) with
     | some (c, _) => (c, fOverflow)
     | none => (8, fOverflow ||| fInvalid))
  | .fin neg m e =>
    let q := toInt 8 mode x
    (match lutNearest tbl q.1 (List.range 16) with
     | some (c, y) => (c, (q.2 &&& fOverflow) ||| flagIf (!equalsInt neg m e y) fInexact)
     | none => (8, (q.2 &&& fOverflow) ||| fInvalid))

/-- A value as a code of any format; `tbl` is the lut4 table and `s` the scale of an MX target. A signalling NaN raises invalid in
every conversion (R271). -/
def writeNum (fc mode : Nat) (x : Num) (tbl : BitVec 128) (s : Nat) : Nat × Flags :=
  if fc = 6 then toLut tbl mode x
  else if isNat fc then toNatType (fcBits fc) mode x
  else if isInt fc then (codeOf (fcBits fc) (toInt (fcBits fc) mode x).1, (toInt (fcBits fc) mode x).2)
  else if isMx fc then
    match x with
    | .nan _ => (0, fInvalid)
    | .fin neg m e => (fmtOf fc).write mode (.fin neg m (e + 127 - (s : Int)))
    | y => (fmtOf fc).write mode y
  else
    let r := (fmtOf fc).write mode x
    (r.1, r.2 ||| flagIf (x == .nan true) fInvalid)

/-- A conversion (R271). -/
def convert (src dst mode : Nat) (tbl : BitVec 128) (c : Nat) : Nat × Flags :=
  writeNum dst mode (readNum src c tbl 127) tbl 127

/-! ### Operations (R253, R309, R310) -/

/-- A signalling operand. -/
def Num.sig (x : Num) : Bool := x == .nan true

/-- A finite zero. -/
def Num.isZero (x : Num) : Bool :=
  match x with
  | .fin _ m _ => m == 0
  | _ => false

def Num.isNan (x : Num) : Bool :=
  match x with
  | .nan _ => true
  | _ => false

def Num.isInf (x : Num) : Bool :=
  match x with
  | .inf _ => true
  | _ => false

def Num.neg (x : Num) : Num :=
  match x with
  | .inf n => .inf (!n)
  | .fin n m e => .fin (!n) m e
  | y => y

/-- The sign bit. -/
def Num.sgn (x : Num) : Bool :=
  match x with
  | .inf n => n
  | .fin n _ _ => n
  | _ => false

/-- The exact product of two present values, and invalid for 0 × ∞ or a signalling operand (R274). -/
def mulNum (x y : Num) : Num × Flags :=
  let f := flagIf (x.sig || y.sig) fInvalid
  if x.isNan || y.isNan then (.nan false, f)
  else if (x.isZero && y.isInf) || (x.isInf && y.isZero) then (.nan false, fInvalid)
  else match x, y with
    | .fin a m e, .fin b n k => (.fin (a != b) (m * n) (e + k), 0#6)
    | _, _ => (.inf (x.sgn != y.sgn), 0#6)

/-- A finite value in units of `2^t`, as an integer. -/
def unitsOf (t : Int) (x : Num) : Int :=
  match x with
  | .fin n m e => if n then -((m * 2 ^ (e - t).toNat : Nat) : Int) else ((m * 2 ^ (e - t).toNat : Nat) : Int)
  | _ => 0

/-- The smallest exponent of finite values. -/
def leastExp (xs : List Num) (d : Int) : Int :=
  xs.foldl (fun t x => match x with | .fin _ _ e => min t e | _ => t) d

/-- The exact sum of present values, and invalid for ∞ − ∞, whatever the other operands, or a signalling operand (R253). A zero sum is −0 where every addend is −0, or
when rounding down and the addends are not all +0 (R309). -/
def sumNums (mode : Nat) (xs : List Num) : Num × Flags :=
  let f := flagIf (xs.any Num.sig || (xs.any (· == .inf false) && xs.any (· == .inf true))) fInvalid
  if xs.any Num.isNan then (.nan false, f)
  else if xs.any (· == .inf false) && xs.any (· == .inf true) then (.nan false, fInvalid)
  else if xs.any (· == .inf false) then (.inf false, 0#6)
  else if xs.any (· == .inf true) then (.inf true, 0#6)
  else
    let t := leastExp xs 0
    let s := (xs.map (unitsOf t)).foldl (· + ·) 0
    if s = 0 then
      (if xs.all (fun x => x.isZero && x.sgn) then .fin true 0 0
       else if xs.all (fun x => x.isZero && !x.sgn) then .fin false 0 0
       else .fin (mode == 3) 0 0, 0#6)
    else (.fin (decide (s < 0)) s.natAbs t, 0#6)

/-- A sum of present values and products, rounded once. -/
def Fmt.sum (f : Fmt) (mode : Nat) (xs : List (Num × Flags)) : Nat × Flags :=
  let s := sumNums mode (xs.map (·.1))
  let r := f.write mode s.1
  (r.1, xs.foldl (fun a p => a ||| p.2) (s.2 ||| r.2))

/-- The quotient of two present values, rounded once (R310, R383). -/
def Fmt.quotient (f : Fmt) (mode : Nat) (x y : Num) : Nat × Flags :=
  let neg := x.sgn != y.sgn
  if x.isNan || y.isNan then (f.qnan, flagIf (x.sig || y.sig) fInvalid)
  else if (x.isZero && y.isZero) || (x.isInf && y.isInf) then (f.qnan, fInvalid)
  else if x.isInf then f.write mode (.inf neg)
  else if y.isInf || x.isZero then (f.zero neg, 0#6)
  else if y.isZero then ((f.write mode (.inf neg)).1, fDivzero)
  else match x, y with
    | .fin _ m e, .fin _ n k =>
      let sh := 130 + Nat.log2 n - Nat.log2 m
      f.round mode neg (m * 2 ^ sh / n) (e - k - (sh : Int)) (m * 2 ^ sh % n != 0)
    | _, _ => (f.qnan, fInvalid)

/-- The largest number whose square does not exceed `n`, found bit by bit from `2^k` down. -/
def sqrtBits (n k r : Nat) : Nat :=
  match k with
  | 0 => if (r + 1) * (r + 1) ≤ n then r + 1 else r
  | k + 1 => sqrtBits n k (if (r + 2 ^ (k + 1)) * (r + 2 ^ (k + 1)) ≤ n then r + 2 ^ (k + 1) else r)

def isqrt (n : Nat) : Nat := sqrtBits n (Nat.log2 n / 2 + 1) 0

/-- The square root of a present value, rounded once (R310, R383). -/
def Fmt.root (f : Fmt) (mode : Nat) (x : Num) : Nat × Flags :=
  match x with
  | .nan s => (f.qnan, flagIf s fInvalid)
  | .inf neg => if neg then (f.qnan, fInvalid) else f.write mode x
  | .fin neg m e =>
    if m = 0 then (f.zero neg, 0#6)
    else if neg then (f.qnan, fInvalid)
    else
      let sh : Nat := 140 + (if (e - 140) % 2 = 0 then 0 else 1)
      let n := m * 2 ^ sh
      let r := isqrt n
      f.round mode false r ((e - (sh : Int)) / 2) (r * r != n)
  | .absent => (f.absent, 0#6)

/-- Order of two present values that are not NaN. −0 is below +0 where `zeros`. -/
def lessNum (zeros : Bool) (x y : Num) : Bool :=
  match x, y with
  | .inf a, .inf b => a && !b
  | .inf a, _ => a
  | _, .inf b => !b
  | _, _ =>
    let t := leastExp [x, y] 0
    let i := unitsOf t x
    let j := unitsOf t y
    decide (i < j) || (zeros && i == j && x.sgn && !y.sgn)

/-- Minimum (`max = false`) or maximum of two present values (R262, R310). -/
def Fmt.extreme (f : Fmt) (max : Bool) (x y : Num) : Nat × Flags :=
  if x.isNan || y.isNan then (f.qnan, flagIf (x.sig || y.sig) fInvalid)
  else ((f.write 0 (if lessNum true x y != max then x else y)).1, 0#6)

/-- A compare: 0 eq, 1 ne, 2 lt, 4 le (R261, R283). -/
def compareNums (cond : Nat) (x y : Num) : Bool × Flags :=
  if x == .absent || y == .absent then (false, 0#6)
  else if x.isNan || y.isNan then
    (cond == 1, flagIf (x.sig || y.sig || cond == 2 || cond == 4) fInvalid)
  else
    let eq := !lessNum false x y && !lessNum false y x
    (match cond with
     | 0 => eq
     | 1 => !eq
     | 2 => lessNum false x y
     | _ => lessNum false x y || eq, 0#6)

/-- An operation of one, two or three operands on codes of a format: absent where one is absent, with no flag (R260, R309). -/
def Fmt.apply (f : Fmt) (xs : List Nat) (op : List Num → Nat × Flags) : Nat × Flags :=
  if xs.any (· == f.absent) then (f.absent, 0#6) else op (xs.map f.read)

def opAdd (f : Fmt) (mode : Nat) (xs : List Num) : Nat × Flags := f.sum mode (xs.map (fun x => (x, 0#6)))

def opSub (f : Fmt) (mode : Nat) (xs : List Num) : Nat × Flags :=
  match xs with
  | [x, y] => f.sum mode [(x, 0#6), (y.neg, flagIf y.sig fInvalid)]
  | _ => (f.qnan, fInvalid)

def opMul (f : Fmt) (mode : Nat) (xs : List Num) : Nat × Flags :=
  match xs with
  | [x, y] => ((f.write mode (mulNum x y).1).1, (mulNum x y).2 ||| (f.write mode (mulNum x y).1).2)
  | _ => (f.qnan, fInvalid)

def opFma (f : Fmt) (mode : Nat) (xs : List Num) : Nat × Flags :=
  match xs with
  | [x, y, z] => f.sum mode [mulNum x y, (z, 0#6)]
  | _ => (f.qnan, fInvalid)

def opDiv (f : Fmt) (mode : Nat) (xs : List Num) : Nat × Flags :=
  match xs with
  | [x, y] => f.quotient mode x y
  | _ => (f.qnan, fInvalid)

def opSqrt (f : Fmt) (mode : Nat) (xs : List Num) : Nat × Flags :=
  match xs with
  | [x] => f.root mode x
  | _ => (f.qnan, fInvalid)

def opExtreme (f : Fmt) (max : Bool) (xs : List Num) : Nat × Flags :=
  match xs with
  | [x, y] => f.extreme max x y
  | _ => (f.qnan, fInvalid)

end Sys2Proof.Machine
end

