-- ==== Sys2Proof/Machine/Operands.lean ====
section
/-! DEFINITION. Operand forms shared by the meanings: immediates, the word of an instruction, register results with and without
latency, addresses, lanes and predicates (R277, R281, R304, R336, R366–R368). -/

namespace Sys2Proof.Machine

/-! ### Immediates and words (R277, R289) -/

def sext (x : BitVec w) : Word := x.signExtend 64
def zext (x : BitVec w) : Word := x.zeroExtend 64

/-- The word of an instruction, as TVAL holds it (R214). -/
def wordVal (i : Instr) : Word := zext ((encodeWord i).getD 0#32)

/-- A direct target: the address of the instruction plus 4 × disp (R277, R311). -/
def target (pc : Word) (disp : BitVec w) : Word := pc + 4#64 * sext disp

/-! ### Results (R149, R304) -/

/-- The instruction completes with a result in a general register. -/
def State.writeG (s : State) (d : BitVec 5) (x : Word) : State := s.retireWith s.cur (fun st => st.setG d x)

/-- A free value for what the spec leaves unstated, and the counter moved on (log 15). -/
def State.openWord (s : State) : Word := Config.openWord s.free
def State.bump (s : State) : State := { s with free := s.free + 1 }

/-- General registers as the dependence rule counts them (R151): g0 depends on nothing. -/
def gUse (rs : List (BitVec 5)) : List Nat := (rs.filter (fun r => r ≠ 0#5)).map (·.toNat)

/-- A long-latency scalar operation with a result in a general register and flags (R150, R273, R304). -/
def State.longG (s : State) (lam : Nat) (l : BitVec 4) (d : BitVec 5) (x : Word) (f : Flags) (reads : List (BitVec 5)) : State :=
  s.issueLong s.cur lam l { kind := .long, pc := 0, window := 0, doneAt := 0, flags := f, gw := [(d, x)], reads := gUse reads }

/-- The current instruction meets a P-class condition (R213). -/
def State.trapP (s : State) (cause : Nat) (tval : Word) : State := s.raise s.cur cause tval

/-! ### Signed readings (R304) -/

/-- An integer modulo 2^64. -/
def wrap (i : Int) : Word := BitVec.ofInt 64 i

/-- A condition of R283: eq 0, ne 1, lt 2, ge 3, le 4, gt 5, ltu 6, geu 7, leu 8, gtu 9. -/
def condHolds (c : Nat) (x y : Word) : Bool :=
  match c with
  | 0 => x == y
  | 1 => x != y
  | 2 => decide (x.toInt < y.toInt)
  | 3 => decide (y.toInt ≤ x.toInt)
  | 4 => decide (x.toInt ≤ y.toInt)
  | 5 => decide (y.toInt < x.toInt)
  | 6 => decide (x.toNat < y.toNat)
  | 7 => decide (y.toNat ≤ x.toNat)
  | 8 => decide (x.toNat ≤ y.toNat)
  | _ => decide (y.toNat < x.toNat)

/-- Set bits of a word. -/
def popcount (x : BitVec w) : Nat := ((List.range w).filter (fun i => bitAt i x)).length

/-- Zero bits above the highest set bit, and below the lowest. -/
def leadingZeros (x : Word) : Nat := if x = 0#64 then 64 else 63 - Nat.log2 x.toNat
def trailingZeros (x : Word) : Nat := if x = 0#64 then 64 else (List.range 64).findIdx (fun i => bitAt i x)

/-! ### Lanes of a vector register (R366, R367) -/

/-- Element `i` of a row, of `w` bits. -/
def lane (w i : Nat) (x : Row) : Nat := natAt (w * i) w x

/-- A row from its elements of `w` bits, lowest first. -/
def rowOf (w : Nat) (xs : List Nat) : Row := BitVec.ofNat 2048 (xs.foldr (fun x n => x % 2 ^ w + 2 ^ w * n) 0)

/-- The elements of a row. -/
def lanes (w : Nat) (x : Row) : List Nat := (List.range (2048 / w)).map (fun i => lane w i x)

end Sys2Proof.Machine
end

