-- ==== Sys2Proof/Machine/Front.lean ====
section
/-! DEFINITION. The front end of an access: effective address, the checks of R183 and R189, the accesses that must be performed
before it (R194–R196), the path to another context (R110, R119, R121, R185), and the performance or the wait (R206, R336). -/

namespace Sys2Proof.Machine

/-- An access as its instruction asks for it. -/
structure Req where
  op : AccessOp
  need : Need
  va : Word
  /-- The base register is g2, so that spill redirection applies (R179). -/
  g2 : Bool
  dest : BitVec 5
  order : Order
  scope : Nat
  l : BitVec 4
  reads : List Nat
deriving DecidableEq, Repr

/-- A place in host or peer memory. -/
def Loc.far (l : Loc) : Bool :=
  match l with
  | .host _ _ => true
  | .peer _ _ => true
  | _ => false

/-- A store to a host or peer page. -/
def Access.farStore (a : Access) : Bool := a.loc.far && (match a.op with | .store _ _ => true | .vstore _ _ => true | _ => false)

/-- An outstanding operation whose accesses are stores to host and peer pages: what a release or fence below .y does not wait for (R196). -/
def OutOp.farStore (o : OutOp) : Bool := o.stuck && o.pending.all Access.farStore

/-- An earlier access must be performed before a later one: they share a byte or a host port (R192, R193), the later one releases (R194),
or it acquires at system scope and the earlier one is a store to a host or peer page (R196). -/
def OutOp.before (o : OutOp) (b : Access) : Bool :=
  o.pending.any (fun a =>
    a.ahead b || ((b.order == .release || b.order == .both) && (b.scope == 4 || !a.farStore))
      || (b.order == .acquire && b.scope == 4 && a.farStore))

/-- Latency a translation adds: 160 cc for each level a walk read (R190). -/
def walkCost (old new : Tlb) : Nat :=
  if new = old then 0 else match new.entries with
    | [] => 0
    | t :: _ => 160 * t.level

/-- What an access to a retired context leaves: loads give 0 (R185, R342, R344). -/
def State.goneGains (s : State) (key : Nat) (a : Access) : Gains :=
  match a.op with
  | .load _ _ => { gw := [(a.dest, 0#64)] }
  | .store _ _ => {}
  | .atomic _ _ _ _ => { gw := [(a.dest, 0#64)] }
  | .fullEmpty fn _ => if fn = 0 ∨ fn = 1 ∨ fn = 4 then { gw := [(a.dest, 0#64)] } else {}
  | .waitForm _ _ => { gw := [(a.dest, 0#64)] }
  | .vload vd mask => { vw := [(vd, mergeRow mask 0#2048 ((s.strand key).rv vd))] }
  | .vstore _ _ => {}

/-- The outstanding operation an access becomes. -/
def Req.out (r : Req) (a : Option Access) (g : Gains) : OutOp :=
  { kind := if r.order = .rx then .relaxed else .unprefixed, pc := 0, window := 0, doneAt := 0, gw := g.gw, vw := g.vw,
    access := a, reads := r.reads }

/-- The access completes with what it left in registers (R149). -/
def State.finishAccess (s : State) (key lam : Nat) (r : Req) (g : Gains) : State :=
  s.issueLong key lam r.l (r.out none g)

/-- Park-queue capacity in bytes: PQSIZE in units of 64 KiB (R118, R130). -/
def State.parkCap (s : State) : Nat := s.sched.eff.pqsize.toNat * 65536

/-- Room for an entry in the park queue of a context's gang. -/
def State.parkRoom (s : State) (ctx n : Nat) : Bool := decide (parkBytes (s.gangOf ctx).park + n ≤ s.parkCap)

/-- The strand stalls on a gang that cannot take its access; the tile fault is recorded when the stall begins (R120, R121). -/
def State.stallOn (s : State) (key ctx : Nat) (st : StrandState) (w : Wait) : State :=
  (if (s.strand key).wait = w then s else s.tileFault ctx true).block key st w

/-- A request joins the tail of the wait list of its word (R206). -/
def State.join (s : State) (key : Nat) (a : Access) : State := { s with waiters := s.waiters ++ [⟨key, a⟩] }

/-- A request a full wait list refuses: the strand stays parked until its reissue (R57, R206). -/
def State.refuse (s : State) (key : Nat) (l : Loc) : State :=
  (s.block key .memwait .refused).modStrand key (fun st => { st with readyAt := s.cycle + l.reissue })

/-- A vector access of 256 bytes. -/
def AccessOp.isVector (op : AccessOp) : Bool :=
  match op with
  | .vload _ _ => true
  | .vstore _ _ => true
  | _ => false

/-- An access at its place, once every earlier access it must follow is performed. One without lookahead is performed in M in the cycle it
issues, where R439 has 96 cc after issue for its programs; it completes when R55 says (log 55). -/
def State.accessHere (s : State) (key lam : Nat) (r : Req) (a : Access) : State :=
  let late := r.order = .rx ∧ r.l ≠ 0#4
  let paid := fun (x : State) => x.chargeAt key a.loc a.op.isVector
  match r.op with
  | .waitForm _ _ =>
    (match s.perform key a with
     | some (s1, g) => (paid s1).finishAccess key lam r g
     | none =>
       if s.waitFull a.loc then s.refuse key a.loc
       else if r.l = 0#4 then (s.join key a).block key .memwait .waitForm
       else ((paid s).join key a).issueLong key lam r.l (r.out (some a) {}))
  | _ =>
    if late then (paid s).issueLong key lam r.l (r.out (some a) {})
    else match (s.flushFor a).perform key a with
      | some (s1, g) => (paid s1).finishAccess key lam r g
      | none =>
        if s.waitFull a.loc then s.refuse key a.loc
        else (s.join key a).block key .memwait a.op.wait

/-- A relaxed access with lookahead whose place is reached stays outstanding; the earlier accesses it meets are performed before it, when
it is performed (R193, R195). -/
def State.joins (s : State) (key : Nat) (r : Req) (a : Access) : Bool :=
  r.order == .rx && r.l != 0#4 && (match r.op with | .waitForm _ _ => false | _ => true) &&
    (match a.loc with
     | .spm c _ => c == ctxOf key || (match s.path c with | .direct => true | _ => false)
     | .host _ _ => s.hostAnswer a.loc == .completes
     | _ => true)

/-- The wait for a completion of the host, from its start on (R103). -/
def State.hostWait (s : State) (key : Nat) (va : Word) : Wait :=
  match (s.strand key).wait with
  | .hostPort va' t => if va' = va then .hostPort va t else .hostPort va s.cycle
  | _ => .hostPort va s.cycle

/-- An access of a strand to a place, along the path of R110; a word that another strand's JCLOSE has locked is waited for (R210). -/
def State.accessAt (s : State) (key lam : Nat) (r : Req) (a : Access) : State :=
  let first := fun (o : OutOp) => o.before a && (o.waits || !s.joins key r a)
  let s1 := s.force key first
  if (s1.strand key).out.any first then s1.block key .memwait .lookahead
  else if s1.lockedFor key a.loc a.op.bytes then s1.block key .memwait .locked
  else
    match a.loc with
    | .spm c _ =>
      if c = ctxOf key then s1.accessHere key lam r a
      else match s1.path c with
        | .direct => s1.accessHere key lam r a
        | .gone =>
          ((s1.chargeAt key a.loc a.op.isVector).modJob (jobOf c) (fun j => { j with discards := j.discards + 1 })).finishAccess key lam r (s1.goneGains key a)
        | .park =>
          if s1.parkRoom c 24 then (s1.parkPut c (.access c ⟨key, a⟩)).block key .memwait .window
          else s1.stallOn key c .memwait (.noPark c)
        | .noQueue => s1.stallOn key c .memwait (.noPark c)
        | .moving => s1.refuse key a.loc
    | .host p _ =>
      let answer := s1.hostAnswer a.loc
      if answer = .completes ∨ (r.order = .rx ∧ s1.portUp p ∧ (r.l ≠ 0#4 ∨ !a.op.reads)) then s1.accessHere key lam r a
      else if answer = .refuses then s1.raise key 0x2C a.va
      else s1.block key .memwait (s1.hostWait key a.va)
    | _ => s1.accessHere key lam r a

/-- The spill carve-out an access of a strand is redirected by (R179). -/
def Strand.spill (st : Strand) (g2 : Bool) : Option Spill := if g2 then some ⟨st.splim, st.spovf⟩ else none

/-- AN ACCESS OF THE CURRENT STRAND (R336). -/
def State.access (s : State) (r : Req) : State :=
  let key := s.cur
  let c := ctxOf key
  let sp := s.me.spill r.g2
  match s.resolve c sp r.need r.va with
  | .fails cause tv => s.raise key cause tv
  | .at l tlb =>
    ((s.withTlb c tlb).seekAt c l).accessAt key (s.latency c l r.op.isVector + walkCost (s.tile (s.ptid c)).tlb tlb) r
      { op := r.op, loc := l, va := spillAddr sp r.va, dest := r.dest, order := r.order, scope := r.scope }

/-! ### WAITs that are issued again (R197, R345) -/

/-- A WAIT whose request stands in no list reaches its place: it is tested, and joins the wait list where its test fails (R345). -/
def State.waitHere (s : State) (key : Nat) (a : Access) : State :=
  if s.lockedFor key a.loc a.op.bytes then s
  else match s.perform key a with
    | some (s1, g) => s1.served ⟨key, a⟩ g
    | none => if s.waitFull a.loc then s else s.join key a

/-- The request of an outstanding WAIT stands in a wait list or a park queue. -/
def State.listed (s : State) (key : Nat) (a : Access) : Bool :=
  s.waiters.contains ⟨key, a⟩ ||
    (match a.loc with
     | .spm c _ => (s.gangOf c).park.contains (.access c ⟨key, a⟩)
     | _ => false)

/-- Outstanding WAITs that a stop or a trap has cancelled are issued again (R197, R207; log 22); the second component is false where one
stalls at a gang that cannot take it (R120, R121). -/
def State.rejoin (s : State) (key : Nat) : State × Bool :=
  ((s.strand key).out.filter OutOp.waits).foldl (fun x o =>
    match o.access with
    | none => x
    | some a =>
      if x.1.listed key a then x
      else match a.loc with
      | .spm c _ =>
        if c = ctxOf key then (x.1.waitHere key a, x.2)
        else match x.1.path c with
          | .direct => (x.1.waitHere key a, x.2)
          | .gone => ((x.1.modJob (jobOf c) (fun j => { j with discards := j.discards + 1 })).served ⟨key, a⟩ (x.1.goneGains key a), x.2)
          | .park => if x.1.parkRoom c 24 then (x.1.parkPut c (.access c ⟨key, a⟩), x.2) else (x.1.stallOn key c .memwait (.noPark c), false)
          | .noQueue => (x.1.stallOn key c .memwait (.noPark c), false)
          | .moving => x
      | _ => (x.1.waitHere key a, x.2)) (s, true)

/-! ### A read inside an instruction that does more than access memory (JTAB, engines' tables) -/

/-- A read of `n` bytes, or the state in which the instruction traps or waits. -/
inductive Peek where
  | value (s : State) (x lam : Nat)
  | stopped (s : State)

/-- The strand waits for a context that is not reached: its access parks, with a tile fault, and its instruction re-executes once the
destination serves it; without room it stalls (R119, R120, R121; log 42). -/
def State.parkAgain (s : State) (key ctx : Nat) : State :=
  match s.path ctx with
  | .park =>
    if s.parkRoom ctx 24 then (s.parkPut ctx (.again ctx key)).block key .memwait .window
    else s.stallOn key ctx .memwait (.noPark ctx)
  | _ => s.stallOn key ctx .memwait (.noPark ctx)

/-- The destination has delivered an access of the strand's instruction from its park queue, which drains (R118; log 42). -/
def State.letIn (s : State) (key ctx : Nat) : Bool :=
  (s.strand key).grant.contains ctx && ((s.job (jobOf ctx)).entry (vtidOf ctx)).res

/-- An unprefixed read of the current strand (R194, R313). -/
def State.peek (s : State) (g2 : Bool) (n : Nat) (va : Word) : Peek :=
  let key := s.cur
  let c := ctxOf key
  match s.resolve c (s.me.spill g2) { rd := true, size := n, align := n } va with
  | .fails cause tv => .stopped (s.raise key cause tv)
  | .at l tlb =>
    let a : Access := { op := .load n false, loc := l, va := va, dest := 0#5 }
    let s1 := ((s.withTlb c tlb).seekAt c l).force key (fun o => o.before a)
    let lam := s.latency c l false + walkCost (s.tile (s.ptid c)).tlb tlb
    let got := fun (x : State) => Peek.value ((x.loaded l key).synchronise key a) (x.loadNat l n key) lam
    if (s1.strand key).out.any (fun o => o.before a) then .stopped (s1.block key .memwait .lookahead)
    else if s1.lockedFor key l n then .stopped (s1.block key .memwait .locked)
    else match l with
      | .spm c' _ =>
        if c' = c then got (s1.chargeAt key l false)
        else (match s1.path c' with
          | .direct => got (s1.chargeAt key l false)
          | .gone => .value (s1.modJob (jobOf c') (fun j => { j with discards := j.discards + 1 })) 0 lam
          | .moving => .stopped (s1.refuse key l)
          | _ => if s1.letIn key c' then got (s1.chargeAt key l false) else .stopped (s1.parkAgain key c'))
      | .host _ _ =>
        (match s1.hostAnswer l with
         | .completes => got ((s1.chargeAt key l false).flushFor a)
         | .refuses => .stopped (s1.raise key 0x2C va)
         | .silent => .stopped (s1.block key .memwait (s1.hostWait key va)))
      | _ => got ((s1.chargeAt key l false).meet l)

end Sys2Proof.Machine
end

