-- ==== Sys2Proof/Machine/Energy.lean ====
section
/-! DEFINITION. Energy accounting (R245–R250), slot counters and the profile buffer (R233–R238), and the retirement of contexts, gangs and
jobs (R113, R236, R248). -/

namespace Sys2Proof.Machine

/-! ### Energy (R245–R250) -/

/-- The counter as programs read it takes its value (R250). -/
def Gang.update (g : Gang) : Gang := { g with shown := g.energy, shownSat := g.sat }

/-- The remainder of a tile's accumulator is discarded (R248). -/
def State.dropPj (s : State) (ptid : Nat) : State := s.modTile ptid (fun t => { t with pj := 0 })

/-- Traffic of copies, the chain engine, saves, restores and moves: 150 pJ for each 256 bytes (R246). -/
def trafficPj (bytes : Nat) : Nat := bytes * 150 / 256

/-! ### The profile buffer (R237, R238) -/

/-- A field of a 64-byte record: `n` bytes at byte `off`. -/
def recField (off n v : Nat) : Nat := v % 256 ^ n * 256 ^ off

/-- A place in the tenant's memory that a record is written to; none where it does not translate. -/
def State.profAt (s : State) (h : Nat) (va : Word) : Option Loc :=
  match s.resolveGlobal {} (s.job h).tenant { rd := true, wr := true } va with
  | .at l _ => some l
  | .fails _ _ => none

/-- Write bytes of the profile buffer, with whatever watches its words (R237). -/
def State.profPut (s : State) (h : Nat) (va : Word) (n v : Nat) : State :=
  match s.profAt h va with
  | some l => ((s.meet l).writeNat l n v 0).serve l n
  | none => s

/-- Write a record: AMO add of 64 on NEXT, then the record where it fits, else DROPPED rises (R237). A word that no longer translates is
not written (log 18). The traffic goes to the overhead account (R246). -/
def State.profRecord (s : State) (h v : Nat) : State :=
  match (s.job h).prof with
  | none => s
  | some (buf, len, n) =>
    match s.profAt h buf with
    | none => s
    | some l =>
      let next := s.readNat l 8
      let s1 := (s.profPut h buf 8 (next + 64)).overheadFor 0
      if next + 64 ≤ len then
        (s1.profPut h (buf + BitVec.ofNat 64 next) 64 v).modJob h (fun j => { j with prof := some (buf, len, n + 1) })
      else match s.profAt h (buf + 8#64) with
        | some l2 => s1.profPut h (buf + 8#64) 8 (s.readNat l2 8 + 1)
        | none => s1

/-- The bytes every record of a context has: TYPE, byte 1, VTID, PTID (R238). -/
def State.profHead (s : State) (ctx type b1 : Nat) : Nat :=
  recField 0 1 type + recField 1 1 b1 + recField 2 2 (vtidOf ctx) + recField 4 2 (s.ptid ctx)

/-- A PC record of a table entry (R238). -/
def State.pcRecord (s : State) (ctx : Nat) (e : Word × Nat × Nat) : State :=
  s.profRecord (jobOf ctx) (s.profHead ctx 3 e.2.1 + recField 8 8 s.time + recField 16 8 e.1.toNat + recField 24 4 e.2.2)

/-- The slot record of a strand (R238). -/
def State.slotRecord (s : State) (ctx i : Nat) : State :=
  let st := s.strand (strandKey ctx i)
  let c := fun k => tableGet 0 st.slots k
  s.profRecord (jobOf ctx) (s.profHead ctx 1 i + recField 8 8 s.time + recField 16 8 st.pc.toNat + recField 24 4 (c 0) + recField 28 4 (c 1)
    + recField 32 4 (c 2) + recField 36 4 (c 3) + recField 40 4 (c 4))

/-- The histogram record (R238). -/
def State.histRecord (s : State) (ctx : Nat) : State :=
  s.profRecord (jobOf ctx) ((List.range 17).foldl (fun v k => v + recField (8 + 3 * k) 3 (tableGet 0 (s.ctx ctx).hist k)) (s.profHead ctx 2 0))

/-- A flush of a context (R236). -/
def State.flushProfile (s : State) (ctx : Nat) : State :=
  if (s.job (jobOf ctx)).prof = none then s
  else
    let live := (List.range 16).filter (fun i => (s.strand (strandKey ctx i)).state != .inactive)
    let s1 := live.foldl (fun x i => x.slotRecord ctx i) s
    let s2 := s1.histRecord ctx
    let s3 := (s.ctx ctx).pctable.foldl (fun x e => x.pcRecord ctx e.2) s2
    let s4 := (List.range 16).foldl (fun x i => x.modStrand (strandKey ctx i) (fun st => { st with slots := [] })) s3
    s4.modCtx ctx (fun c => { c with pctable := [], hist := [] })

/-- Counting starts again from zero on the tile that next hosts a context: what was counted since its flush is dropped (R236). -/
def State.dropProfile (s : State) (ctx : Nat) : State :=
  ((List.range 16).foldl (fun x i => x.modStrand (strandKey ctx i) (fun st => { st with slots := [] })) s).modCtx ctx
    (fun c => { c with pctable := [], hist := [] })

/-- The place of a PC and reason in the PC table (R235). -/
def pcIndex (pc : Word) (reason : Nat) : Nat :=
  (natAt 2 12 pc ^^^ natAt 14 12 pc ^^^ natAt 26 12 pc ^^^ (reason * 0x2A5)) % 4096

/-- Count a slot of a strand in the PC table (R235). -/
def State.countPc (s : State) (ctx : Nat) (pc : Word) (reason : Nat) : State :=
  let i := pcIndex pc reason
  let put (x : State) (e : Word × Nat × Nat) : State :=
    x.modCtx ctx (fun c => { c with pctable := tableSet (0#64, 0, 0) c.pctable i e })
  let e := tableGet (0#64, 0, 0) (s.ctx ctx).pctable i
  if e.2.2 ≠ 0 ∧ natAt 2 47 e.1 = natAt 2 47 pc ∧ e.2.1 = reason then
    if e.2.2 + 1 = 4294967295 then put (s.pcRecord ctx (pc, reason, 4294967295)) (0#64, 0, 0)
    else put s (e.1, reason, e.2.2 + 1)
  else put (if e.2.2 ≠ 0 then s.pcRecord ctx e else s) (pc, reason, 1)

/-- Reason of a slot that is not issued, by the class of the strand's state (R147, R233). -/
def slotReason (st : StrandState) : Nat :=
  match st with
  | .ready => 4
  | .memwait => 1
  | .msgwait => 2
  | .engwait => 3
  | .inactive => 4
  | .halted => 4
  | .exited => 4

/-- A slot issued in this rotation. Key 17 of the histogram counts the slots issued so far, key 18 names the rotation they belong to, so
that what is left of another rotation does not count (R234, R236). -/
def State.countIssued (s : State) (ctx : Nat) : State :=
  let rot := s.cycle / 16
  s.modCtx ctx (fun c =>
    let n := if tableGet 0 c.hist 18 = rot then tableGet 0 c.hist 17 else 0
    { c with hist := tableSet 0 (tableSet 0 c.hist 17 (n + 1)) 18 rot })

/-- Close a rotation: its bin of the histogram rises, a full bin flushes the context (R234, R236). -/
def State.closeRotation (s : State) (ctx : Nat) : State :=
  let h := (s.ctx ctx).hist
  let k := if tableGet 0 h 18 = s.cycle / 16 then tableGet 0 h 17 else 0
  let s1 := s.modCtx ctx (fun c => { c with hist := tableSet 0 (tableSet 0 h k (tableGet 0 h k + 1)) 17 0 })
  if tableGet 0 h k + 1 = 16777215 then s1.flushProfile ctx else s1

/-- Count a slot of a strand with its PC as the slot found it: the five counters, the histogram, the PC table (R233–R235). -/
def State.countSlot (s : State) (key reason : Nat) (pc : Word) (quiet : Bool) : State :=
  let ctx := ctxOf key
  if (s.job (jobOf ctx)).prof = none then s
  else
    let n := tableGet 0 (s.strand key).slots reason + 1
    let s1 := s.modStrand key (fun st => { st with slots := tableSet 0 st.slots reason n })
    let s2 := if quiet then s1 else s1.countPc ctx pc reason
    let s3 := if reason = 0 then s2.countIssued ctx else s2
    let s4 := if n = 4294967295 then s3.flushProfile ctx else s3
    if stridOf key = 15 then s4.closeRotation ctx else s4

/-- The rotation in which a context retires counts as one that has ended (R234, R439). -/
def State.lastRotation (s : State) (key : Nat) : State :=
  if stridOf key = 15 ∨ (s.job (jobOf (ctxOf key))).prof = none then s else s.closeRotation (ctxOf key)

/-- The accounts of a slot in which a strand issued: its charge, its context's activity and the counters (R132, R233, R246). -/
def State.countIssue (s : State) (key : Nat) (pc : Word) (pj : Nat) : State :=
  ((s.charge (ctxOf key) pj).modCtx (ctxOf key) (fun y => { y with activity := y.activity + 1 })).countSlot key 0 pc false

/-! ### Retirement (R113, R100) -/

/-- Every strand of a context has exited or never started, and its engines hold nothing (R113). -/
def State.idleContext (s : State) (ctx : Nat) : Bool :=
  let c := s.ctx ctx
  c.live && c.running.isEmpty && [0, 4, 5, 6, 8].all (fun q => (tableGet [] c.cmds q).isEmpty)
    && (List.range 16).all (fun i => let x := (s.strand (strandKey ctx i)).state; x == .inactive || x == .exited)

/-- Waiters at words of a context that retires: their accesses end as to a retired context (R185). -/
def State.freeWaiters (s : State) (ctx : Nat) : State :=
  let mine := fun (w : WaitReq) => match w.acc.loc with | .spm c _ => c == ctx | _ => false
  (s.waiters.filter mine).foldl (fun x w =>
    ({ x with waiters := x.waiters.erase w }.modJob (jobOf ctx) (fun j => { j with discards := j.discards + 1 })).served w
      (x.goneGains w.key w.acc)) s

/-- What is parked at a gang that retires: an access ends as one to a retired context, an instruction and a chunk go on (R119, R185, R410). -/
def State.freeParked (s : State) (e : ParkEntry) : State :=
  match e with
  | .access c r => (s.modJob (jobOf c) (fun j => { j with discards := j.discards + 1 })).served r (s.goneGains r.key r.acc)
  | .again _ key => s.modStrand key (fun st => { st with state := .ready, wait := .none })
  | .chunk _ ctx q n => s.modCtx ctx (fun c => { c with running := c.running.map (fun r =>
      if r.queue == q && r.entry.seq == n then { r with waitSince := none, hostSince := none, waitsOn := none } else r) })
  | _ => s

/-- A gang whose contexts have all retired: its tiles are free, its last energy record is written, and a job without other gangs
completes (R112, R113, R100, R238). -/
def State.retireGang (s : State) (h n : Nat) : State :=
  let j := s.job h
  let g := j.gang n
  let s1 := s.profRecord h (recField 0 1 4 + recField 2 2 (n * j.size) + recField 8 8 s.time + recField 16 8 h + recField 24 6 g.energy
    + (if g.sat then 256 ^ 30 else 0) + recField 32 8 (recEnergy j.record).toNat)
  let lost := (g.park.filter (fun e => match e with | .packet _ => true | _ => false)).length
  let s2 := (s1.modGang h n (fun x => { x with state := .retired, park := [], parkAlloc := false })).modJob h
    (fun x => { x with discards := x.discards + lost })
  let s3 := ((((g.park.foldl State.freeParked s2).releaseTiles h n).applyTenants).progress h).sendCtl (peerList (s.othersOf h)) (.retired (s.jobName h) n)
  if (List.range j.gangCount).all (fun k => ((s3.job h).gang k).state == .retired) then s3.endJob h 0 0 else s3

/-- A gang whose contexts have all retired is RETIRED (R112, R113), and so is one that is stopping when the last of them retires (log 23). -/
def State.retireIfDone (s : State) (h n : Nat) : State :=
  if ((s.gang h n).state = .resident ∨ (s.gang h n).state = .stopping) ∧ (s.members h n).all (fun c => ((s.job h).entry (vtidOf c)).done) then s.retireGang h n else s

/-- A context that is idle retires: its counters are flushed, its entry shows DONE, and its gang follows when it was the last (R113, R236,
R248, R250). -/
def State.checkRetire (s : State) (ctx : Nat) : State :=
  if !s.idleContext ctx || !((s.gangOf ctx).state == .resident || (s.gangOf ctx).state == .stopping) then s
  else
    let h := jobOf ctx
    let n := s.gangNo ctx
    let p := s.ptid ctx
    let s1 := (s.flushProfile ctx).modCtx ctx (fun c => { c with live := false, retired := true, locks := [] })
    let s2 := (s1.dropPj p).modTile p (fun t => { t with icache := t.icache.map (fun l => { l with locked := false }) })
    let s3 := ((s2.modJob h (fun j => j.setEntry (vtidOf ctx) { j.entry (vtidOf ctx) with done := true })).invalidate ctx).modGang h n Gang.update
    let s4 := s3.freeWaiters ctx
    s4.retireIfDone h n

end Sys2Proof.Machine
end

