-- ==== Sys2Proof/Machine/Engine.lean ====
section
/-! DEFINITION. What every engine shares: the merge of command flags (R225, R226), pegs (R172–R175), queue heads
and guards (R161–R163), starting a command, its completion (R158, R397–R399), and the memory accesses of commands (R407–R410). -/

namespace Sys2Proof.Machine

/-! ### Flags from commands (R225, R226) -/

/-- Merge a command's flags into the strand that pushed it; an exited strand's are discarded, a non-resident one's wait in PENDFLAGS. -/
def State.mergeFlags (s : State) (key : Nat) (f : BitVec 6) : State :=
  if f = 0#6 ∨ (s.strand key).state = .exited then s
  else if ¬ ((s.gangOf (ctxOf key)).state = .resident ∨ (s.gangOf (ctxOf key)).state = .stopping) then
    s.modStrand key (fun st => { st with pendflags := st.pendflags ||| f })
  else s.modStrand key (fun st => { st with
    fflags := st.fflags ||| f
    pend := match st.pend with
      | some p => some (p ||| f)
      | none => if f &&& st.fen ≠ 0#6 then some f else none })

/-! ### Pegs (R172–R175) -/

def Ctx.peg (c : Ctx) (i : Nat) : Peg := tableGet {} c.pegs i
def Ctx.setPeg (c : Ctx) (i : Nat) (p : Peg) : Ctx := { c with pegs := tableSet {} c.pegs i p }

/-- A handle is valid (R173). -/
def Ctx.validHandle (c : Ctx) (h : Word) : Bool :=
  natAt 5 11 h == 0 && natAt 48 15 h == 0 && !bitAt 63 h && (c.peg (natAt 0 5 h)).live && (c.peg (natAt 0 5 h)).gen == fieldAt 32 16 h

/-- The handle of a command header is valid. -/
def Ctx.validPeg (c : Ctx) (idx : BitVec 5) (gen : BitVec 16) : Bool := (c.peg idx.toNat).live && (c.peg idx.toNat).gen == gen

/-- Strands waiting in PEGW that a change of their peg releases, with what they get: 1 where the phase has moved on, 0 where the entry
is back in the pool; a stopped strand notes the latter (R174, R175, R364). -/
def State.releasePeg (s : State) (ctx idx : Nat) : State :=
  (List.range 16).foldl (fun x i =>
    let k := strandKey ctx i
    let st := x.strand k
    let p := (x.ctx ctx).peg idx
    match st.wait with
    | .pegw j ph d =>
      if j ≠ idx then x
      else if !p.live then
        (if st.stopped ∨ st.state = .halted then x.setStrand k { st with pegfreed := true } else x.retireWith k (fun y => y.setG d 0#64))
      else if p.phase ≠ ph ∧ !st.stopped ∧ st.state ≠ .halted then (x.acquire k p.view 5).retireWith k (fun y => y.setG d 1#64)
      else x
    | _ => x) s

/-- One arrival on a peg, with what it releases (R174, R199). -/
def Peg.arrive (p : Peg) (v : View) : Peg :=
  let all := p.coming.join v 5
  if p.arrived + 1 = p.expect then { p with arrived := 0, phase := p.phase + 1, view := p.view.join all 5, coming := [] }
  else { p with arrived := p.arrived + 1, coming := all }

/-- The reference count goes down; at 0 the entry returns to the pool (R175). -/
def Peg.unref (p : Peg) : Peg := if p.refs ≤ 1 then { p with refs := 0, live := false } else { p with refs := p.refs - 1 }

def State.pegArrive (s : State) (ctx idx : Nat) (v : View) : State :=
  (s.modCtx ctx (fun c => c.setPeg idx ((c.peg idx).arrive v))).releasePeg ctx idx

def State.pegUnref (s : State) (ctx idx : Nat) : State :=
  (s.modCtx ctx (fun c => c.setPeg idx (c.peg idx).unref)).releasePeg ctx idx

/-! ### Completions (R158, R397–R399) -/

/-- The status word (R399); BADCMD and DISCARDED carry neither flags nor a value. -/
def statusWord (status cause : Nat) (f : BitVec 6) (value : Nat) : Word :=
  BitVec.ofNat 64 (status + 256 * cause + (if status = 1 ∨ status = 2 then 0 else 65536 * f.toNat + 16777216 * value))

/-- Cause of a status (R399). -/
def statusCause (status : Nat) : Nat :=
  match status with
  | 1 => 0x42
  | 3 => 0x43
  | 4 => 0x44
  | 5 => 0x45
  | 6 => 0x46
  | 7 => 0x27
  | _ => 0

/-- TAG of a completion header (R398). -/
def completionTag (h : CmdHdr) : BitVec 32 := h.issuer ++ h.queue ++ h.cop ++ h.tag

/-- The context takes words directly: it is resident and not being saved. -/
def State.hosted (s : State) (ctx : Nat) : Bool :=
  (s.gangOf ctx).state == .resident || (s.gangOf ctx).state == .stopping

/-- A completion packet: held by the engine until the inbox can take it (R158), or parked with its flags already merged (R225). -/
def State.post (s : State) (ctx : Nat) (c : Completion) : State :=
  if s.hosted ctx then s.modCtx ctx (fun x => { x with posted := x.posted ++ [{ c with postedAt := s.cycle }] })
  else (s.parkPut ctx (.packet { dest := ctx, cls := 7, sender := strandKey ctx 0, words := [c.status, c.detail], hdr := some c.hdr, view := c.view })).mergeFlags
    (match c.merge with | some m => m.1 | none => 0) (match c.merge with | some m => m.2 | none => 0#6)

/-- What a command's completion releases, for the strand that dequeues it or returns from PEGW: its own writes, and for MARK those of every
earlier command of its queue (R74, R199, R423). -/
def State.commandView (s : State) (ctx : Nat) (h : CmdHdr) : View :=
  if s.unfenced = [] then []
  else ((if h.cop = 0xF0#8 then List.range (h.seq + 1) else [h.seq]).map (fun n => (8 * commandWriter ctx h.queue.toNat n + 5, s.cycle))).foldl
    (fun v p => tableSet 0 v p.1 p.2) []

/-- A command completes: its arrival on a peg whose handle was valid at its push, otherwise its completion packet, and its flags to the
strand that pushed it (R293, R397, R398). -/
def State.finishCommand (s : State) (ctx : Nat) (h : CmdHdr) (counted : Bool) (status : Nat) (f : BitVec 6) (value detail : Nat) : State :=
  let fl := if status = 1 ∨ status = 2 then 0#6 else commandFlags f
  let key := strandKey ctx h.issuer.toNat
  let pkt (m : Option (Nat × BitVec 6)) : Completion :=
    { queue := h.queue.toNat, hdr := packetHeader (vtidOf ctx) 7 2 1 (completionTag h),
      status := statusWord status (statusCause status) fl value, detail := BitVec.ofNat 64 detail, merge := m, view := s.commandView ctx h }
  let s0 := s.progress (jobOf ctx)
  (if h.peg && counted then
    let s1 :=
      if s0.hosted ctx then ((s0.mergeFlags key fl).pegArrive ctx h.pegIdx.toNat (s.commandView ctx h)).pegUnref ctx h.pegIdx.toNat
      else (s0.mergeFlags key fl).parkPut ctx (.arrival ctx h.pegIdx.toNat (s.commandView ctx h))
    if h.errpost && status != 0 && status != 2 then s1.post ctx (pkt none) else s1
  else s0.post ctx (pkt (some (key, fl)))).checkRetire ctx

/-! ### Queue heads (R159, R161–R163) -/

def Ctx.cmdList (c : Ctx) (q : Nat) : List CmdEntry := tableGet [] c.cmds q
def Ctx.rowList (c : Ctx) (q : Nat) : List Row := tableGet [] c.rows q
def Ctx.setCmds (c : Ctx) (q : Nat) (l : List CmdEntry) : Ctx := { c with cmds := tableSet [] c.cmds q l }
def Ctx.setRows (c : Ctx) (q : Nat) (l : List Row) : Ctx := { c with rows := tableSet [] c.rows q l }

/-- Depth of a queue (R159). -/
def queueDepth (q : Nat) : Nat :=
  match q with
  | 5 => 8
  | 6 => 8
  | 0 => 16
  | 4 => 16
  | 7 => 16
  | 8 => 16
  | _ => 64

/-- The header of an entry of a queue. -/
def CmdEntry.hdr (e : CmdEntry) (q : Nat) : CmdHdr := cmdHdrOf (BitVec.ofNat 4 q) e.issuer e.seq e.word

/-- A truss command counts in the sequence of its context (R415). -/
def countsTruss (q : Nat) (h : CmdHdr) : Bool := q == 6 && h.cop != 0xF0#8 && h.cop != 0xF1#8

/-- Leave one truss operation behind. -/
def Ctx.passTruss (c : Ctx) (q : Nat) (h : CmdHdr) : Ctx :=
  if countsTruss q h then { c with trussSeq := c.trussSeq + 1 } else c

/-- Completions of an engine that the inbox has not admitted: it holds the first 16, those after them belong to commands that cannot complete
yet (R158). -/
def Ctx.unadmitted (c : Ctx) (q : Nat) : Nat := (c.posted.filter (fun p => p.queue == q)).length

/-- An engine holds fewer than 16 completions the inbox has not admitted (R158). -/
def Ctx.mayStart (c : Ctx) (q : Nat) : Bool := decide (c.unadmitted q < 16)

/-- Commands of the chain engine complete in queue order: none while another is in progress (R170). -/
def Ctx.inOrder (c : Ctx) (q : Nat) : Bool := q != 5 || !c.running.any (fun r => r.queue == 5)

/-- A discarded command can complete: on its peg, or to an engine that holds fewer than 16 completions (R158, R162, R170). -/
def Ctx.mayDiscard (c : Ctx) (q : Nat) (e : CmdEntry) : Bool := c.inOrder q && (((e.hdr q).peg && e.counted) || c.mayStart q)

/-- Accesses that were outstanding and are still to be performed (R163, R198). -/
def State.pendingOf (s : State) (l : List (Nat × Word × Nat)) : Bool :=
  l.any (fun x => ((s.strand x.1).suspended ++ (s.strand x.1).out).any (fun o => o.stuck && o.pc == x.2.1 && o.doneAt == x.2.2))

/-- A command touches memory (R198): all but CNOP, MARK, and those of the matrix engine other than MDRAIN. -/
def touchesMemory (h : CmdHdr) : Bool := h.cop != 0xF0#8 && h.cop != 0xF1#8 && (h.queue != 0#4 || h.cop == 0x03#8)

/-- What its push and its guard release to a command is performed (R163, R198). -/
def State.cleared (s : State) (h : CmdHdr) (e : CmdEntry) : Bool := !touchesMemory h || !s.pendingOf e.after

/-- The head of a queue meets its guard: true lets it start, false discards it, and so on for the entry that is then the head (R162). A
head that has met its guard keeps what it found: a GCLR after that does not hold it again, though it has not started (R163 leaves it open;
log 41). -/
def State.settleHead (s : State) (ctx q fuel : Nat) : State :=
  match fuel with
  | 0 => s
  | fuel + 1 =>
    match (s.ctx ctx).cmdList q with
    | [] => s
    | e :: t =>
      match e.guard with
      | none => s
      | some n =>
        match tableGet Guard.unresolved (s.ctx ctx).guards n.toNat with
        | .unresolved => s
        | .isTrue => s.modCtx ctx (fun c => c.setCmds q ({ e with guard := none, after := e.after ++ tableGet [] c.guardAfter n.toNat } :: t))
        | .isFalse =>
          if !(s.ctx ctx).mayDiscard q e then s
          else ((s.modCtx ctx (fun c => (c.setCmds q t).passTruss q (e.hdr q))).finishCommand ctx (e.hdr q) e.counted 2 0#6 0 0).settleHead ctx q fuel

/-- Every command queue's head meets its guard. -/
def State.settleHeads (s : State) (ctx : Nat) : State :=
  [0, 4, 5, 6, 8].foldl (fun x q => x.settleHead ctx q 17) s

/-- What a command of a context is checked against (R293, R357, R414). -/
def State.cmdEnv (s : State) (ctx : Nat) (counted : Bool) : CmdEnv :=
  let j := s.job (jobOf ctx)
  { extent := recExtent j.record, pegOk := counted, root := vtidOf ctx % j.size == 0, members := j.members (s.gangNo ctx) }

/-- The instruction of an entry of a queue: a command, or one that is BADCMD (R293). -/
def State.entryInstr (s : State) (ctx q : Nat) (e : CmdEntry) : Instr :=
  decodeCommand (s.cmdEnv ctx e.counted) (BitVec.ofNat 4 q) e.issuer e.seq e.word

/-- The head of a queue whose guard is resolved, as an instruction. -/
def State.headInstr (s : State) (ctx q : Nat) : Option (CmdEntry × Instr) :=
  match (s.ctx ctx).cmdList q with
  | e :: _ => if e.guard = none then some (e, s.entryInstr ctx q e) else none
  | [] => none

/-! ### Starting, progress and end of a command -/

/-- The command of a header in progress. -/
def Ctx.findRun (c : Ctx) (h : CmdHdr) : Option Running :=
  c.running.find? (fun r => r.queue == h.queue.toNat && r.entry.seq == h.seq)

/-- Change a command in progress. -/
def Ctx.modRun (c : Ctx) (h : CmdHdr) (f : Running → Running) : Ctx :=
  { c with running := c.running.map (fun r => if r.queue == h.queue.toNat && r.entry.seq == h.seq then f r else r) }

def State.modRun (s : State) (ctx : Nat) (h : CmdHdr) (f : Running → Running) : State := s.modCtx ctx (fun c => c.modRun h f)

/-- Commands in progress of a queue, without MARK (R423). -/
def Ctx.inProgress (c : Ctx) (q : Nat) : List Running :=
  c.running.filter (fun r => r.queue == q && (r.entry.hdr q).cop != 0xF0#8)

/-- The command of a header is at the head of its queue with its guard resolved. -/
def Ctx.atHead (c : Ctx) (h : CmdHdr) : Option CmdEntry :=
  match c.cmdList h.queue.toNat with
  | e :: _ => if e.seq = h.seq ∧ e.guard = none then some e else none
  | [] => none

/-- The head of a queue leaves it and is in progress; the next head meets its guard. -/
def State.startHead (s : State) (ctx : Nat) (h : CmdHdr) (e : CmdEntry) (f : Running → Running) : State :=
  let q := h.queue.toNat
  (s.modCtx ctx (fun c => { c.setCmds q (c.cmdList q).tail with running := c.running ++ [f { entry := e, queue := q }] })).settleHead ctx q 17

/-- The command in progress of a header, started now where it is at its head and its engine may start it. -/
def State.started (s : State) (ctx : Nat) (h : CmdHdr) (may : Ctx → Bool) (f : Running → Running) : Option (State × Running) :=
  match (s.ctx ctx).findRun h with
  | some r => some (s, r)
  | none =>
    match (s.ctx ctx).atHead h with
    | none => none
    | some e =>
      if (s.ctx ctx).mayStart h.queue.toNat && s.cleared h e && may (s.ctx ctx) then
        some (s.startHead ctx h e f, f { entry := e, queue := h.queue.toNat })
      else none

/-- A command in progress ends with a status, and its queue's head meets its guard (R162, R170). -/
def State.endRun (s : State) (ctx : Nat) (h : CmdHdr) (status : Nat) (f : BitVec 6) (value detail : Nat) : State :=
  let counted := match (s.ctx ctx).findRun h with | some r => r.entry.counted | none => false
  ((s.modCtx ctx (fun c => { c with
    running := c.running.filter (fun r => !(r.queue == h.queue.toNat && r.entry.seq == h.seq)) })).finishCommand ctx h counted status f value detail).settleHead ctx h.queue.toNat 17

/-! ### Memory accesses of commands (R407–R410) -/

/-- The command an access is for: its context, queue and sequence number, since when the host has not answered this access, the context at whose
gang it waits, and those that have let it in. -/
structure EngBy where
  ctx : Nat
  queue : Nat
  seq : Nat
  since : Option Nat
  on : Option Nat
  grant : List Nat

def Running.eng (r : Running) (ctx : Nat) : EngBy := ⟨ctx, r.queue, r.entry.seq, r.hostSince, r.waitsOn, r.grant⟩

/-- What a command's access waits for: the context whose gang it waits at, the host, or something that ends by itself. -/
inductive EngWait where
  | gang (c : Nat)
  | host
  | brief
deriving DecidableEq, Repr

def EngWait.gang? (w : EngWait) : Option Nat := match w with | .gang c => some c | _ => none

/-- Where a command's access goes. -/
inductive EngPlace where
  | at (s : State) (l : Loc)
  | gone
  | waits (s : State) (on : EngWait)
  | fails (va : Word)

/-- A piece of memory of a command inside one aligned 256-byte block: the checks of R183 and R189, then the path of R110. Where it meets a gang
that is not resident, its access parks with a tile fault as soon as there is room, and stalls until then (R119–R121, R224, R410); the host
fails it 50 ms after it begins to wait for it (R103). A read of a host page performs what is posted to its port (R192). -/
def State.engPlace (s : State) (b : EngBy) (n : Need) (va : Word) (len : Nat) : EngPlace :=
  match s.resolve b.ctx none { n with size := 1, align := 1 } va, s.resolve b.ctx none { n with size := 1, align := 1 } (va + BitVec.ofNat 64 (len - 1)) with
  | .at l tlb, .at _ _ =>
    let s1 := (s.withTlb b.ctx tlb).seekAt b.ctx l
    if s1.lockedFor 0 l len then .waits s1 .brief
    else match l with
    | .spm c _ =>
      if c = b.ctx then .at s1 l
      else match s1.path c with
        | .direct => .at s1 l
        | .gone => .gone
        | .moving => .waits s1 .brief
        | .park =>
          if b.grant.contains c && ((s1.job (jobOf c)).entry (vtidOf c)).res then .at s1 l
          else if (s1.gangOf c).park.contains (.chunk c b.ctx b.queue b.seq) then .waits s1 (.gang c)
          else if s1.parkRoom c 24 then .waits (s1.parkPut c (.chunk c b.ctx b.queue b.seq)) (.gang c)
          else .waits (if b.on = some c then s1 else s1.tileFault c true) (.gang c)
        | .noQueue => .waits (if b.on = some c then s1 else s1.tileFault c true) (.gang c)
    | .host p _ =>
      (match s1.hostAnswer l with
       | .completes => .at (if n.rd then s1.flushPort p else s1) l
       | .refuses => .fails va
       | .silent => if (match b.since with | some t => decide (t + hostPatience ≤ s.cycle) | none => false) then .fails va else .waits s1 .host)
    | _ => .at (s1.meet l) l
  | .at _ _, .fails _ _ => .fails (va + BitVec.ofNat 64 (len - 1))
  | .fails _ _, _ => .fails va

/-- A chunk fails at an address: where its line is bad, the errors that stand there are found (R75, R410). -/
def State.failAt (s : State) (ctx : Nat) (va : Word) : State := s.meetVa (s.tile (s.ptid ctx)).tlb (s.job (jobOf ctx)).tenant va

/-- The pieces of `n` bytes that lie in aligned 256-byte blocks; `fuel` pieces at most. -/
def pieces (fuel : Nat) (va : Word) (n : Nat) : List (Word × Nat) :=
  match fuel with
  | 0 => []
  | fuel + 1 =>
    if n = 0 then []
    else
      let m := Nat.min n (256 - va.toNat % 256)
      (va, m) :: pieces fuel (va + BitVec.ofNat 64 m) (n - m)

/-- What a command's read or write comes to. -/
inductive EngOut (α : Type) where
  | ok (s : State) (x : α)
  | waits (s : State) (on : EngWait)
  | fails (s : State) (va : Word)

/-- Count a discard of a job (R110). -/
def State.discard (s : State) (h : Nat) : State := s.modJob h (fun j => { j with discards := j.discards + 1 })

/-- The bytes of the pieces of a read (R410). -/
def State.engReadPieces (s : State) (b : EngBy) (ps : List (Word × Nat)) : EngOut (List Byte) :=
  match ps with
  | [] => .ok s []
  | (va, n) :: t =>
    match s.engPlace b { rd := true } va n with
    | .fails a => .fails (s.failAt b.ctx a) a
    | .waits s1 on => .waits s1 on
    | .gone =>
      (match (s.discard (jobOf b.ctx)).engReadPieces b t with
       | .ok s2 bs => .ok s2 (List.replicate n 0#8 ++ bs)
       | .waits s2 on => .waits s2 on
       | .fails s2 a => .fails s2 a)
    | .at s1 l =>
      (match s1.engReadPieces b t with
       | .ok s2 bs => .ok s2 (s1.readList l n ++ bs)
       | .waits s2 on => .waits s2 on
       | .fails s2 a => .fails s2 a)

def State.engRead (s : State) (b : EngBy) (va : Word) (n : Nat) : EngOut (List Byte) :=
  s.engReadPieces b (pieces (n / 256 + 2) va n)

/-- A list of bytes as a little-endian number. -/
def natOfBytes (bs : List Byte) : Nat := bs.foldr (fun b n => b.toNat + 256 * n) 0

/-- Full/empty bits of the words of a range (R408). -/
def State.setFulls (s : State) (l : Loc) (words : Nat) (full : Bool) : State :=
  (List.range words).foldl (fun x i => x.setFull (l.plus (8 * i)) full) s

/-- The bytes from a location up to the end of its word. -/
def Loc.toWordEnd (l : Loc) : Nat := 8 - l.inWord

/-- Note the writes of a command or of the host, word by word (R73, R199, R200). -/
def State.noteWrites (s : State) (l : Loc) (n writer : Nat) : State :=
  (List.range (n / 8 + 2)).foldl (fun x i =>
    let d := if i = 0 then 0 else l.toWordEnd + 8 * (i - 1)
    if d < n then x.noteWrite (l.plus d) writer false (decide (36893488147419103232 ≤ writer)) else x) s

/-- The write of a piece at its place: bytes, full/empty bits under FEOP, then whatever watches the words (R206, R210, R345, R408). -/
def State.engPut (s : State) (l : Loc) (bs : List Byte) (feop writer : Nat) : State :=
  let s1 := (s.noteWrites l bs.length writer).putNat l bs.length (natOfBytes bs)
  let s2 := if feop = 0 then s1 else s1.setFulls l ((bs.length + 7) / 8) (feop == 1)
  (s2.noteJoints l bs.length).serve l bs.length

/-- The places of the pieces of a write with their bytes; what meets a retired context is written nowhere (R410). -/
def State.engPlacePieces (s : State) (b : EngBy) (feop : Nat) (ps : List (Word × Nat)) (bs : List Byte) : EngOut (List (Loc × List Byte)) :=
  match ps with
  | [] => .ok s []
  | (va, n) :: t =>
    match s.engPlace b { wr := true, fe := feop != 0 } va n with
    | .fails a => .fails (s.failAt b.ctx a) a
    | .waits s1 on => .waits s1 on
    | .gone => (s.discard (jobOf b.ctx)).engPlacePieces b feop t (bs.drop n)
    | .at s1 l =>
      (match s1.engPlacePieces b feop t (bs.drop n) with
       | .ok s2 ws => .ok s2 ((l, bs.take n) :: ws)
       | .waits s2 on => .waits s2 on
       | .fails s2 a => .fails s2 a)

/-- The places of a write of bytes from an address on. -/
def State.engPlaces (s : State) (b : EngBy) (feop : Nat) (va : Word) (bs : List Byte) : EngOut (List (Loc × List Byte)) :=
  s.engPlacePieces b feop (pieces (bs.length / 256 + 2) va bs.length) bs

/-- The pieces of a write that lie in aligned 8-byte words, lowest first: each is one write in M (R193, R200). -/
def wordPieces (fuel : Nat) (l : Loc) (bs : List Byte) (feop : Nat) : List LateWrite :=
  match fuel with
  | 0 => []
  | fuel + 1 =>
    if bs.isEmpty then []
    else
      let a := match l with | .spm _ o => o | .rim a _ => a | .host _ a => a | .peer _ a => a
      let n := 8 - a % 8
      { loc := l, bytes := bs.take n, feop := feop } :: wordPieces fuel (l.plus n) (bs.drop n) feop

/-! ### Chunks (R200, R407, R410) -/

/-- The gang of the context named is in a state. -/
def State.inGang (s : State) (ctx : Nat) (g : GangState) : Bool := (s.gangOf ctx).state == g

/-- The contexts of a move. -/
def Move.ctxs (m : Move) : List Nat := m.ctx :: (match m.other with | some o => [o] | none => [])

/-- The engines of a context reach their stop points: its gang stops or has stopped, or the context is being moved (R134, R219, R221). -/
def State.engStop (s : State) (ctx : Nat) : Bool := !s.inGang ctx .resident || s.moves.any (fun m => m.ctxs.contains ctx)

/-- A chunk of a command's writes: its source in memory or its data, its destination, its charge, and the progress after it. -/
structure Chunk where
  src : Option Word := none
  data : List Byte := []
  dst : Word
  len : Nat
  feop : Nat := 0
  pj : Nat := 0
  done : Nat
  count : Nat := 0
  /-- The rows the command holds are still needed. -/
  keep : Bool := true
deriving DecidableEq, Repr

/-- Bytes of a chunk from an address on: up to the end of its 256-byte block, and at most `n`. -/
def chunkLen (dst : Word) (n : Nat) : Nat := Nat.min (256 - dst.toNat % 256) n

/-- A chunk counts once where it meets a retired context (R110). -/
def State.discardOnce (s s0 : State) (h : Nat) : State :=
  if (s.job h).discards = (s0.job h).discards then s else s.modJob h (fun j => { j with discards := (s0.job h).discards + 1 })

/-- Read a chunk and decide on its writes, word by word (R407, R410). -/
def State.readChunk (s : State) (b : EngBy) (k : Chunk) : EngOut (List LateWrite) :=
  let h := jobOf b.ctx
  let undo := fun (x : State) => x.modJob h (fun j => { j with discards := (s.job h).discards })
  match (match k.src with | none => EngOut.ok s k.data | some a => s.engRead b a k.len) with
  | .fails s1 va => .fails s1 va
  | .waits s1 on => .waits (undo s1) on
  | .ok s1 bs =>
    match s1.engPlaces b k.feop k.dst bs with
    | .fails s2 va => .fails (s2.discardOnce s h) va
    | .waits s2 on => .waits (undo s2) on
    | .ok s2 ws =>
      .ok (((s2.discardOnce s h).charge b.ctx k.pj).progress h) (ws.flatMap (fun w => wordPieces 33 w.1 w.2 k.feop))

/-- Perform a word's write. -/
def State.putLate (s : State) (ctx : Nat) (h : CmdHdr) (w : LateWrite) : State :=
  s.engPut w.loc w.bytes w.feop (commandWriter ctx h.queue.toNat h.seq)

/-- The chunks that have writes in flight. -/
def chunksIn (ws : List LateWrite) : Nat := (ws.map LateWrite.chunk).dedup.length

/-- A command starts its next chunk, or waits, or fails with its writes in flight performed and VALUE `value` (R410). -/
def State.startChunk (s : State) (ctx : Nat) (h : CmdHdr) (r : Running) (value : Nat) (k : Chunk) : State :=
  match s.readChunk (r.eng ctx) k with
  | .waits s1 on => s1.modRun ctx h (fun r => { r with
      waitSince := some (r.waitSince.getD s.cycle), waitsOn := on.gang?
      hostSince := if on = .host then some (r.hostSince.getD s.cycle) else none })
  | .fails s1 va => (r.late.foldl (fun x w => x.putLate ctx h w) s1).endRun ctx h 4 r.flags value va.toNat
  | .ok s1 ws =>
    let n := match r.late.getLast? with | some w => w.chunk + 1 | none => 0
    s1.modRun ctx h (fun r => { r with
      done := k.done, count := k.count, rows := if k.keep then r.rows else [], waitSince := none, hostSince := none, waitsOn := none, grant := []
      late := r.late ++ ws.map (fun w => { w with chunk := n }) })

/-- The write a command performs next of those in flight, from a place of its list: the first to the same word (R200, R407: the later one
stands). -/
def nextLate (ws : List LateWrite) (i : Nat) : Option LateWrite :=
  match ws[i]? with
  | none => ws.head?
  | some w => ws.find? (fun x => x.loc.word == w.loc.word)

/-- A command performs one of its writes in flight; with the last one of its last chunk it completes. A word that a
JCLOSE has locked is waited for (R210). -/
def State.writeLate (s : State) (ctx : Nat) (h : CmdHdr) (r : Running) (fin : Bool) (value i : Nat) : State :=
  match nextLate r.late i with
  | none => s
  | some w =>
    if s.lockedFor 0 w.loc w.bytes.length then s else
    let s1 := s.putLate ctx h w
    let rest := r.late.erase w
    if fin && rest.isEmpty then s1.endRun ctx h 0 r.flags value 0 else s1.modRun ctx h (fun r => { r with late := rest })

/-- One step of a command that writes in chunks: its next chunk, or a write of a chunk in flight, as the free choice has it, with at most 32
chunks in flight (R407). `fin` says that every chunk has started, `halt` that none may start (R221), `value` is VALUE at the end and
`sofar` that of a failure. -/
def State.chunkStep (s : State) (ctx : Nat) (h : CmdHdr) (r : Running) (fin halt : Bool) (value sofar : Nat) (k : Chunk) : State :=
  let m := Config.schedule s.free
  if r.late.isEmpty then
    (if fin then s.endRun ctx h 0 r.flags value 0 else if halt then s else s.startChunk ctx h r sofar k)
  else if fin || halt || decide (32 ≤ chunksIn r.late) || m % 2 == 1 then
    ({ s with free := s.free + 1 }).writeLate ctx h r fin value (m / 2 % r.late.length)
  else ({ s with free := s.free + 1 }).startChunk ctx h r sofar k

/-! ### The scratchpad as an engine reads it (R184) -/

/-- A byte of the context's own scratchpad as an engine reads it; at or above EXTENT a free value (R184; log 14). -/
def State.ownByte (s : State) (ctx off : Nat) : Byte :=
  if off < s.extent ctx then s.byteAt (.spm ctx off) else Config.beyondExtent off

/-- A word of the context's own scratchpad that an engine's access meets is locked (R210). -/
def State.ownLocked (s : State) (ctx off n : Nat) : Bool := s.lockedFor 0 (.spm ctx off) n

/-- `n` bytes of the context's own scratchpad as a number. -/
def State.ownNat (s : State) (ctx off n : Nat) : Nat :=
  natOfBytes ((List.range n).map (fun i => s.ownByte ctx (off + i)))

/-! ### Blocked strands (R114, R167) -/

/-- A wait that only another party ends (R114, R121). -/
def Wait.blocks (w : Wait) : Bool :=
  match w with
  | .fullEmpty | .waitForm | .refused | .window | .noPark _ | .recv _ | .send | .idle _ | .push _ | .pop _ | .lease | .pegw _ _ _
  | .stepMark | .behindWait => true
  | _ => false

/-- A strand is blocked (R114). -/
def Strand.blocked (st : Strand) : Bool :=
  st.held.isSome || st.state == .halted || ((st.state == .memwait || st.state == .msgwait || st.state == .engwait) && st.wait.blocks)

/-- A strand is live: started and not exited. -/
def Strand.live (st : Strand) : Bool := st.state != .inactive && st.state != .exited

/-- Every live strand of a context is blocked (R114). -/
def State.ctxBlocked (s : State) (ctx : Nat) : Bool :=
  (List.range 16).all (fun i => !(s.strand (strandKey ctx i)).live || (s.strand (strandKey ctx i)).blocked)

end Sys2Proof.Machine
end

