-- ==== Sys2Proof/Machine/Matrix.lean ====
section
/-! DEFINITION. The matrix engine (R164–R167, R263–R270, R400–R405): MWLOAD, MSTREAM, MDRAIN and MCLEAR, a row at a time, and the feed
underflow. Each command's meaning advances it by one row: it starts it where it may start and ends it after its last row. -/

namespace Sys2Proof.Machine

/-! ### Formats (R400) -/

/-- The element format of a matrix format code. -/
def mfcFc (m : Nat) : Nat :=
  match m with
  | 0 => 0
  | 1 => 3
  | 2 => 2
  | 3 => 4
  | 4 => 5
  | 5 => 16
  | 6 => 17
  | 7 => 18
  | 8 => 8
  | _ => 6

/-- A weight format and an activation format combine (R400). -/
def mfcPairs (w a : Nat) : Bool :=
  (w == 0 && a == 0) || ((w == 1 || w == 2) && (a == 1 || a == 2)) || ((w == 3 || w == 4) && (a == 3 || a == 4))
    || ((w == 5 || w == 6) && (a == 5 || a == 6)) || (w == 7 && a == 7) || ((w == 8 || w == 9) && a == 8)

/-- The kind of a weight format (R166). -/
def mfcKind (m : Nat) : AccKind := if m = 0 then .fp64 else if m = 8 ∨ m = 9 then .residue else .fp32

/-- Products a PE adds in one rounding (R264, R400): the block of 32 elements for the MX formats. -/
def mfcGroup (m : Nat) : Nat := if m = 3 ∨ m = 4 then 2 else if 5 ≤ m ∧ m ≤ 7 then 32 else 1

/-- Weight rows of a tile (R401). -/
def mfcRows (m : Nat) : Nat := if m = 0 then 16 else 64

/-- Kept elements of a column (R401). -/
def keptCount (sparse k : Nat) : Nat := if sparse = 0 then k else if sparse = 1 then k / 2 else k / 4

/-- The positions of the kept elements of a group (R270). -/
def groupAt (sparse g : Nat) (row : Row) : List Nat :=
  let n := if sparse = 1 then 4 else 2
  (List.range n).map (fun j => natAt (1280 + 3 * n * g + 3 * j) 3 row)

/-- Positions that rise strictly. -/
def rises (l : List Nat) : Bool :=
  match l with
  | [] => true
  | x :: t => t.all (fun y => decide (x < y)) && rises t

/-- The logical position of each kept element of a weight row. -/
def keptAt (sparse k : Nat) (row : Row) : List Nat :=
  if sparse = 0 then List.range k
  else ((List.range (k / 8)).map (fun g => (groupAt sparse g row).map (fun p => 8 * g + p))).flatten

/-- The metadata of a weight row keeps the order of R270. -/
def metaOk (sparse k : Nat) (row : Row) : Bool := sparse == 0 || (List.range (k / 8)).all (fun g => rises (groupAt sparse g row))

/-! ### The column sum of one activation row (R263, R264) -/

/-- Cut a list into groups of `n`; `fuel` groups at most. -/
def groupsOf (fuel n : Nat) (l : List α) : List (List α) :=
  match fuel with
  | 0 => []
  | fuel + 1 =>
    match l with
    | [] => []
    | _ => l.take n :: groupsOf fuel n (l.drop n)

/-- Weight element `j` of a latched row, and activation element `k` of a streamed row. -/
def WeightBuf.weight (b : WeightBuf) (row : Row) (j : Nat) : Num :=
  let fc := mfcFc b.fmt.toNat
  readNum fc (natAt (fcBits fc * j) (fcBits fc) row) b.lut (natAt (1024 + 8 * (j / 32)) 8 row)

def activation (afmt bits k : Nat) : Num :=
  let fc := mfcFc afmt
  readNum fc (bits / 2 ^ (fcBits fc * k) % 2 ^ fcBits fc) 0#128 (bits / 2 ^ (1024 + 8 * (k / 32)) % 256)

/-- The terms of a column that are present, with the flags of their products (R263). -/
def presentTerms (ts : List (Num × Num)) : List (Num × Flags) :=
  (ts.filter (fun t => t.1 != .absent && t.2 != .absent)).map (fun t => mulNum t.1 t.2)

/-- One PE's contribution to the incoming partial (R264, R266): a NaN term raises invalid. -/
def peStep (f : Fmt) (old : Option Nat × Flags) (ts : List (Num × Num)) : Option Nat × Flags :=
  match presentTerms ts with
  | [] => old
  | ps =>
    let r := f.sum 0 ((match old.1 with | some o => [(f.read o, 0#6)] | none => []) ++ ps)
    (some r.1, old.2 ||| r.2 ||| flagIf (ps.any (fun p => p.1.isNan)) fInvalid)

/-- What an activation row gives a column: the sum of its present terms, its flags, and whether a term was present. -/
structure ColumnSum where
  sum : Option Int
  flags : Flags
  present : Bool
deriving DecidableEq, Repr

/-- The column sum of one activation row (R263, R264): a pruned weight is a present zero without a product. -/
def WeightBuf.columnSum (b : WeightBuf) (row : Row) (afmt bits : Nat) : ColumnSum :=
  let sp := b.sparse.toNat
  let kept := keptAt sp b.k row
  let ts := kept.zipIdx.map (fun p => (b.weight row p.2, activation afmt bits p.1))
  let pruned := sp != 0 && (List.range b.k).any (fun k => !kept.contains k && activation afmt bits k != .absent)
  let some' := ts.any (fun t => t.1 != .absent && t.2 != .absent)
  if mfcKind b.fmt.toNat = .residue then
    { sum := if some' then some ((presentTerms ts).foldl (fun a p => a + unitsOf 0 p.1) 0) else none, flags := 0#6, present := some' || pruned }
  else
    let f := if b.fmt = 0#4 then fp64 else fp32
    let r := (groupsOf (b.k + 1) (mfcGroup b.fmt.toNat) ts).foldl (peStep f) (none, 0#6)
    { sum := r.1.map (fun n => (n : Int)), flags := r.2, present := some' || pruned }

/-! ### The accumulator file (R166, R265, R267) -/

def Ctx.accAt (c : Ctx) (row col : Nat) : AccEntry := tableGet {} c.acc (64 * row + col)
def Ctx.setAcc (c : Ctx) (row col : Nat) (e : AccEntry) : Ctx := { c with acc := tableSet {} c.acc (64 * row + col) e }

/-- Clear every entry of a row; the kind stays (R166). -/
def Ctx.clearRow (c : Ctx) (row : Nat) : Ctx := { c with acc := c.acc.filter (fun p => p.1 / 64 ≠ row) }

/-- A row takes a kind: another kind clears it first (R166). -/
def Ctx.toKind (c : Ctx) (row : Nat) (k : AccKind) : Ctx :=
  if tableGet .fp32 c.kinds row = k then c else { c.clearRow row with kinds := tableSet .fp32 c.kinds row k }

/-- Residues of a sum, packed (R267). -/
def residues (v : Int) : BitVec 34 :=
  BitVec.ofNat 34 ((v % 2047).toNat + 2048 * (v % 2048).toNat + 4194304 * (v % 2049).toNat)

/-- Residues of a packed triple with a sum added. -/
def addResidues (e : BitVec 34) (v : Int) : BitVec 34 :=
  BitVec.ofNat 34 (((natAt 0 11 e + v) % 2047).toNat + 2048 * ((natAt 11 11 e + v) % 2048).toNat + 4194304 * ((natAt 22 12 e + v) % 2049).toNat)

/-- Count one more present row (R166, R263). -/
def AccEntry.countUp (e : AccEntry) : AccEntry := if e.count = 16777215 then { e with lost := true } else { e with count := e.count + 1 }

/-- The sum of an fp64 entry from its two halves (R265). -/
def Ctx.accSum64 (c : Ctx) (row col : Nat) : Nat :=
  (c.accAt row col).sum.toNat % 4294967296 + 4294967296 * ((c.accAt row (col + 1)).sum.toNat % 4294967296)

/-- The new sum of an entry that takes a column sum: as it is where the count is 0, else added (R264). -/
def addColumn (f : Fmt) (count old : Nat) (new : Nat) : Nat × Flags :=
  if count = 0 then (new, 0#6) else f.sum 0 [(f.read old, 0#6), (f.read new, 0#6)]

/-- A column's entry takes what a row gives it. -/
def Ctx.accumulate (c : Ctx) (k : AccKind) (row col : Nat) (x : ColumnSum) : Ctx × Flags :=
  if !x.present then (c, x.flags)
  else
    let e := c.accAt row col
    match x.sum with
    | none => (c.setAcc row col e.countUp, x.flags)
    | some v =>
      match k with
      | .residue => (c.setAcc row col { e.countUp with sum := if e.count = 0 then residues v else addResidues e.sum v }, x.flags)
      | .fp32 =>
        let r := addColumn fp32 e.count e.sum.toNat v.toNat
        (c.setAcc row col { e.countUp with sum := BitVec.ofNat 34 r.1 }, x.flags ||| r.2)
      | .fp64 =>
        let r := addColumn fp64 e.count (c.accSum64 row col) v.toNat
        let c1 := c.setAcc row col { e.countUp with sum := BitVec.ofNat 34 (r.1 % 4294967296) }
        (c1.setAcc row (col + 1) { c1.accAt row (col + 1) with sum := BitVec.ofNat 34 (r.1 / 4294967296) }, x.flags ||| r.2)

/-- An activation row goes through the buffer in use into an accumulator row (R402). -/
def Ctx.streamRow (c : Ctx) (afmt bits row : Nat) (clear : Bool) : Ctx × Flags :=
  let b := tableGet {} c.wbuf c.active
  let k := mfcKind b.fmt.toNat
  let c1 := (if clear then c.clearRow row else c).toKind row k
  b.cols.foldl (fun x p =>
    match p.2 with
    | none => x
    | some w =>
      let r := x.1.accumulate k row p.1 (b.columnSum w afmt bits)
      (r.1, x.2 ||| r.2)) (c1, 0#6)

/-! ### MWLOAD (R165, R167, R401) -/

/-- A feed is empty: the wait runs while every live strand of the context is blocked (R167). -/
def State.starve (s : State) (ctx : Nat) (h : CmdHdr) : State :=
  s.modRun ctx h (fun r => { r with waitSince := if s.ctxBlocked ctx then some (r.waitSince.getD s.cycle) else none })

/-- The weight tile is latched from its rows: columns of selected bands alone (R401), Kmax (R268). -/
def Ctx.latch (c : Ctx) (fmt : BitVec 4) (sparse : BitVec 2) (k : Nat) (lut : BitVec 128) (rows : List Row) : Ctx :=
  let at' := fun (n : Nat) => if fmt = 0#4 then 4 * n else n
  let cols := (rows.zipIdx.filter (fun p => bitAt (at' p.2 / 16) c.ashape)).map (fun p => (at' p.2, some p.1))
  { c with
    wbuf := tableSet {} c.wbuf (1 - c.active) { fmt := fmt, sparse := sparse, k := k, lut := lut, cols := cols }
    fresh := true
    kmax := if mfcKind fmt.toNat = .residue then Nat.max c.kmax (keptCount sparse.toNat k) else c.kmax }

/-- MWLOAD (R401, R405): a weight row from q1, and after the last one the latch. -/
def execMwload (h : CmdHdr) (wfmt : BitVec 4) (sparse : BitVec 2) (k : BitVec 10) (s : State) : Host.Outcome State Fault Refusal :=
  let ctx := s.focus
  match s.started ctx h (fun c => (c.inProgress 0).all (fun r => (r.entry.hdr 0).cop != 0x01#8)) (fun r => { r with lut := (s.ctx ctx).tbl4 }) with
  | none => .next s
  | some (s1, r) =>
    match (s1.ctx ctx).rowList 1 with
    | [] => .next (s1.starve ctx h)
    | row :: t =>
      let s2 := (s1.modCtx ctx (fun c => c.setRows 1 t)).progress (jobOf ctx)
      let rows := r.rows ++ [row]
      if rows.length < mfcRows wfmt.toNat then
        .next (s2.modRun ctx h (fun r => { r with rows := rows, done := rows.length, waitSince := none }))
      else
        let used := (rows.zipIdx.filter (fun p => bitAt ((if wfmt = 0#4 then 4 * p.2 else p.2) / 16) (s2.ctx ctx).ashape)).map (·.1)
        if used.all (metaOk sparse.toNat k.toNat) then
          .next ((s2.modCtx ctx (fun c => c.latch wfmt sparse k.toNat r.lut rows)).endRun ctx h 0 0#6 rows.length 0)
        else .next (s2.endRun ctx h 1 0#6 0 68)

/-! ### MSTREAM (R402) -/

/-- q2 entries of an activation row (R402). -/
def entriesPerRow (afmt k : Nat) : Nat :=
  if 5 ≤ afmt ∧ afmt ≤ 7 then 1 else (fcBits (mfcFc afmt) * k + 2047) / 2048

/-- The buffer an MSTREAM that starts now uses (R165). -/
def Ctx.nextActive (c : Ctx) : Nat := if c.fresh then 1 - c.active else c.active

/-- MSTREAM (R402, R405): an activation row from q2; the pairing of the formats is checked at the start. -/
def execMstream (h : CmdHdr) (afmt : BitVec 4) (rows : BitVec 16) (acc : BitVec 9) (ovr : BitVec 1) (s : State) :
    Host.Outcome State Fault Refusal :=
  let ctx := s.focus
  let fresh := ((s.ctx ctx).findRun h).isNone
  match s.started ctx h (fun c => (c.inProgress 0).isEmpty) id with
  | none => .next s
  | some (s0, r) =>
    let s1 := if fresh then s0.modCtx ctx (fun c => { c with active := c.nextActive, fresh := false }) else s0
    let b := tableGet {} (s1.ctx ctx).wbuf (s1.ctx ctx).active
    if !mfcPairs b.fmt.toNat afmt.toNat then
      .next ((s0.endRun ctx h 1 0#6 0 64))
    else
      let n := entriesPerRow afmt.toNat b.k
      let feed := (s1.ctx ctx).rowList 2
      if feed.length < n then .next (s1.starve ctx h)
      else
        let bits := (feed.take n).foldr (fun x v => x.toNat + 2 ^ 2048 * v) 0
        let row := (acc.toNat + r.done) % 512
        let s2 := s1.modCtx ctx (fun c => c.setRows 2 (feed.drop n))
        let x := (s2.ctx ctx).streamRow afmt.toNat bits row (ovr == 1#1 && decide (r.done < 512))
        let s3 := ((s2.setCtx ctx x.1).charge ctx (2600 * (List.range 4).countP (fun i => bitAt i x.1.ashape))).progress (jobOf ctx)
        if r.done + 1 = rows.toNat then .next (s3.endRun ctx h 0 (r.flags ||| x.2) (r.done + 1) 0)
        else .next (s3.modRun ctx h (fun r => { r with done := r.done + 1, flags := r.flags ||| x.2, waitSince := none }))

/-! ### MDRAIN and MCLEAR (R269, R403, R404) -/

/-- The sum a residue triple stands for (R268). -/
def residueSum (e : BitVec 34) : Int :=
  let r1 : Int := natAt 0 11 e
  let r2 : Int := natAt 11 11 e
  let r3 : Int := natAt 22 12 e
  let x := r1 + 2047 * ((r1 - r2) % 2048)
  let v := x + 4192256 * ((r3 - x) * 1025 % 2049)
  if 8589932544 ≤ 2 * v then v - 8589932544 else v

/-- An exact quotient rounded to the nearest integer, ties to even. -/
def divNearest (v : Int) (n : Nat) : Int :=
  let q := v.natAbs / n
  let r := v.natAbs % n
  let m := if n < 2 * r ∨ (2 * r = n ∧ q % 2 = 1) then q + 1 else q
  if v < 0 then -(m : Int) else m

/-- A result of a drain in the native format, as that format's code, and its code, or absent (R269). -/
def drainNative (kind : AccKind) (mode : Nat) (e : AccEntry) (sum64 : Nat) : Option (Nat × Nat) × Flags :=
  let f := if kind = .fp64 then fp64 else fp32
  let fc := if kind = .fp64 then 0 else 1
  let code := if kind = .fp64 then sum64 else e.sum.toNat % 4294967296
  if mode = 2 then (some (10, e.count), 0#6)
  else if e.count = 0 then (if mode = 3 then some (if kind = .residue then 10 else fc, 0) else none, 0#6)
  else match kind with
    | .residue =>
      let v := residueSum e.sum
      let r := saturate 32 (if mode = 1 then divNearest v e.count else v)
      (some (10, codeOf 32 r.1), r.2)
    | _ =>
      if mode = 1 then
        let r := f.quotient 0 (f.read code) (Num.ofInt e.count)
        (some (fc, r.1), r.2)
      else (some (fc, code), 0#6)

/-- A result of a drain in the output format, with its flags (R268, R269, R271). -/
def drainEntry (kind : AccKind) (mode ofmt kmax : Nat) (tbl : BitVec 128) (e : AccEntry) (sum64 : Nat) : Nat × Flags :=
  let range := flagIf (e.lost || (kind == .residue && decide (2147483648 ≤ e.count * kmax * 16384))) fRange
  match drainNative kind mode e sum64 with
  | (none, f) => ((absentCode ofmt).getD 0, range ||| f)
  | (some (fc, code), f) =>
    let r := if fc = ofmt then (code, 0#6) else convert fc ofmt 0 tbl code
    (r.1, range ||| f ||| r.2)

/-- The results of an accumulator row, packed from bit 0, and the flags (R403). -/
def Ctx.drainRow (c : Ctx) (row mode ofmt : Nat) : List Byte × Flags :=
  let kind := tableGet .fp32 c.kinds row
  let cols := if kind = .fp64 then (List.range 16).map (4 * ·) else List.range 64
  let rs := cols.map (fun n => drainEntry kind mode ofmt c.kmax c.tbl4 (c.accAt row n) (c.accSum64 row n))
  ((rs.map (fun r => (List.range (fcBytes ofmt)).map (fun i => BitVec.ofNat 8 (r.1 / 256 ^ i)))).flatten,
   rs.foldl (fun a r => a ||| r.2) 0#6)

/-- Bytes as row entries of 256 bytes, the last one filled with zeros. -/
def rowsOfBytes (bs : List Byte) : List Row := (groupsOf (bs.length / 256 + 1) 256 bs).map (fun b => BitVec.ofNat 2048 (natOfBytes b))

/-- Entries enter a result queue while there is room; those that find none are given back. -/
def Ctx.offer (c : Ctx) (q : Nat) (rows : List Row) : Ctx × List Row :=
  let room := queueDepth q - (c.rowList q).length
  (c.setRows q (c.rowList q ++ rows.take room), rows.drop room)

/-- A row of a drain to memory: read, and cleared under CLR, where the one before has all its chunks, else as it was read. -/
def State.drainNext (s : State) (ctx : Nat) (r : Running) (row0 mode ofmt : Nat) (clr : Bool) : State × Running :=
  if r.rows ≠ [] then (s, r)
  else
    let row := (row0 + r.done) % 512
    let x := (s.ctx ctx).drainRow row mode ofmt
    (if clr then s.modCtx ctx (fun c => c.clearRow row) else s,
     { r with rows := rowsOfBytes x.1, buf := x.1.length, flags := r.flags ||| x.2 })

/-- MDRAIN (R403, R405): one accumulator row to q3, or a chunk of one to memory. A stop waits for the end of the row, but not at a chunk that
waits (R221). -/
def execMdrain (h : CmdHdr) (row0 : BitVec 9) (nrows : BitVec 10) (mode : BitVec 2) (ofmt : BitVec 4) (dq clr : BitVec 1)
    (daddr : BitVec 64) (dstride : BitVec 32) (s : State) : Host.Outcome State Fault Refusal :=
  let ctx := s.focus
  match s.started ctx h (fun c => (c.inProgress 0).isEmpty) id with
  | none => .next s
  | some (s1, r) =>
    if dq = 1#1 then
      if r.done = nrows.toNat then .next (s1.chunkStep ctx h r true false r.done r.done { dst := daddr, len := 0, done := r.done })
      else if r.rows = [] ∧ s1.engStop ctx ∧ r.late = [] then .next s1
      else
        let x := s1.drainNext ctx r row0.toNat mode.toNat ofmt.toNat (clr == 1#1)
        let a := daddr + BitVec.ofNat 64 (r.done * dstride.toNat + r.count)
        let n := chunkLen a (x.2.buf - r.count)
        let whole := decide (x.2.buf ≤ r.count + n)
        let s2 := x.1.modRun ctx h (fun r => { r with rows := x.2.rows, buf := x.2.buf, flags := x.2.flags })
        .next (s2.chunkStep ctx h x.2 false (s.engStop ctx && r.waitSince.isSome) r.done r.done {
          data := (List.range n).map (fun i => fieldAt (8 * ((r.count + i) % 256)) 8 (x.2.rows.getD ((r.count + i) / 256) 0#2048))
          dst := a, len := n, done := if whole then r.done + 1 else r.done, count := if whole then 0 else r.count + n, keep := !whole })
    else if r.rows ≠ [] then
      let o := (s1.ctx ctx).offer 3 r.rows
      let s2 := s1.setCtx ctx o.1
      if o.2 = [] ∧ r.done = nrows.toNat then .next ((s2.progress (jobOf ctx)).endRun ctx h 0 r.flags r.done 0)
      else .next (s2.modRun ctx h (fun r => { r with rows := o.2 }))
    else
      let row := (row0.toNat + r.done) % 512
      let x := (s1.ctx ctx).drainRow row mode.toNat ofmt.toNat
      let s2 := (if clr = 1#1 then s1.modCtx ctx (fun c => c.clearRow row) else s1).progress (jobOf ctx)
      let o := (s2.ctx ctx).offer 3 (rowsOfBytes x.1)
      let s3 := s2.setCtx ctx o.1
      if o.2 = [] ∧ r.done + 1 = nrows.toNat then .next (s3.endRun ctx h 0 (r.flags ||| x.2) (r.done + 1) 0)
      else .next (s3.modRun ctx h (fun r => { r with done := r.done + 1, flags := r.flags ||| x.2, rows := o.2 }))

/-- MCLEAR (R404): the rows, and Kmax as the next MSTREAM will find it (R268). -/
def execMclear (h : CmdHdr) (row0 : BitVec 9) (nrows : BitVec 10) (s : State) : Host.Outcome State Fault Refusal :=
  let ctx := s.focus
  match s.started ctx h (fun c => (c.inProgress 0).isEmpty) id with
  | none => .next s
  | some (s1, _) =>
    let clear := fun (c : Ctx) =>
      let b := tableGet {} c.wbuf c.nextActive
      let c1 := (List.range nrows.toNat).foldl (fun x i => x.clearRow ((row0.toNat + i) % 512)) c
      { c1 with kmax := if mfcKind b.fmt.toNat = .residue then keptCount b.sparse.toNat b.k else 0 }
    .next ((s1.modCtx ctx clear).endRun ctx h 0 0#6 nrows.toNat 0)

/-! ### Feed underflow (R167) -/

/-- A command that takes rows from a feed: MWLOAD or MSTREAM. -/
def Running.feeds (r : Running) : Bool := r.queue == 0 && ((r.entry.hdr 0).cop == 0x01#8 || (r.entry.hdr 0).cop == 0x02#8)

/-- A matrix command whose feed has been empty for 2^14 ac with every live strand blocked. -/
def Running.starved (r : Running) (cycle : Nat) : Bool :=
  r.feeds && (match r.waitSince with | some t => decide (t + 32768 ≤ cycle) | none => false)

/-- FEED_UNDERFLOW (R167): the command of the context ends with the rows it had. -/
def execFeedUnderflow (s : State) : Host.Outcome State Fault Refusal :=
  let ctx := s.input.ctx
  match (s.ctx ctx).running.find? (fun r => r.starved s.cycle) with
  | some r => .next (if s.ctxBlocked ctx then s.endRun ctx (r.entry.hdr 0) 3 r.flags r.done 0 else s)
  | none => .next s

end Sys2Proof.Machine
end

