-- ==== Sys2Proof/Machine/VectorMem.lean ====
section
/-! DEFINITION. Vector loads and stores (R375–R379): the contiguous forms are one access of 256 bytes; the element forms check every
active element, then perform them in increasing order. -/

namespace Sys2Proof.Machine

/-- Vector and predicate registers as the dependence rule counts them (R151): k0 depends on nothing. -/
def vUse (rs : List (BitVec 4)) : List Nat := rs.map (fun r => 32 + r.toNat)
def kUse (k : BitVec 3) : List Nat := if k = 0#3 then [] else [48 + k.toNat]

/-- Order of a vector access (R370). -/
def vectorOrder (o : BitVec 1) : Order := if o = 1#1 then .rx else .plain

/-- An element of `w` bytes is active (R367). -/
def active (w : Nat) (m : Pred) (j : Nat) : Bool := bitAt (w * j) m

/-- The active elements of a width, in increasing order. -/
def actives (w : Nat) (m : Pred) : List Nat := (List.range (256 / w)).filter (active w m)

/-- A contiguous access (R376): with no bit of the predicate set there is no access and no check. -/
def State.contiguous (s : State) (op : AccessOp) (store : Bool) (a b : BitVec 4) (k : BitVec 3) (o : BitVec 1) (l : BitVec 4)
    (reads : List Nat) : State :=
  if s.me.rk k = 0#256 then s.retireWith s.cur id
  else s.access { op := op, need := { rd := !store, wr := store, size := 256, align := 256 }, va := s.me.rg (gr a) + s.me.rg (gr b),
                  g2 := gr a == 2#5, dest := 0#5, order := vectorOrder o, scope := 0, l := l,
                  reads := gUse [gr a, gr b] ++ kUse k ++ reads }

/-- VLD (R375, R376). -/
def execVld (d a b : BitVec 4) (k : BitVec 3) (o : BitVec 1) (l : BitVec 4) (s : State) : Host.Outcome State Fault Refusal :=
  .next (s.contiguous (.vload d (s.me.rk k)) false a b k o l [])

/-- VST (R375, R376). -/
def execVst (d a b : BitVec 4) (k : BitVec 3) (o : BitVec 1) (l : BitVec 4) (s : State) : Host.Outcome State Fault Refusal :=
  .next (s.contiguous (.vstore (s.me.rv d) (s.me.rk k)) true a b k o l (vUse [d]))

/-! ### Element forms (R375–R379) -/

/-- The places of elements, each with the cycle its response arrives after issue, or the first failed check. -/
inductive Places where
  | at (s : State) (ps : List (Loc × Nat))
  | fails (cause : Nat) (tval : Word)

/-- Check the addresses of elements in order; element requests leave one per core cycle (R376, R379). -/
def State.places (s : State) (ctx : Nat) (sp : Option Spill) (n : Need) (i : Nat) (vas : List Word) : Places :=
  match vas with
  | [] => .at s []
  | va :: t =>
    match s.resolve ctx sp n va with
    | .fails c tv => .fails c tv
    | .at l tlb =>
      match ((s.withTlb ctx tlb).seekAt ctx l).places ctx sp n (i + 1) t with
      | .fails c tv => .fails c tv
      | .at s1 ps => .at s1 ((l, i + s.latency ctx l false + walkCost (s.tile (s.ptid ctx)).tlb tlb) :: ps)

/-- What keeps an element request from its destination (R103, R110, R119, R121, R135, R210): the wait, or the context it is parked at. What the
host answers a relaxed one comes later (R337). -/
def State.barred (s : State) (key : Nat) (rx : Bool) (va : Word) (l : Loc) : Option (Wait × Option Nat) :=
  let ctx := ctxOf key
  if s.lockedFor key l 8 then some (.locked, none) else
  match l with
  | .spm c _ =>
    if c = ctx then none
    else match s.path c with
      | .direct => none
      | .gone => none
      | .moving => some (.refused, none)
      | _ => if s.letIn key c then none else some (.noPark c, some c)
  | .host _ _ => if rx || s.hostAnswer l == .completes then none else some (s.hostWait key va, none)
  | _ => none

/-- The destination of an element has retired (R185). -/
def State.goneLoc (s : State) (ctx : Nat) (l : Loc) : Bool :=
  match l with
  | .spm c _ => c != ctx && s.path c == .gone
  | _ => false

/-- Perform elements in increasing order: a load's values, and the state after the stores. -/
def State.performElements (s : State) (key : Nat) (order : Order) (mk : Nat → AccessOp) (xs : List (Nat × Loc)) : State × List (Nat × Nat) :=
  match xs with
  | [] => (s, [])
  | (j, l) :: t =>
    if s.goneLoc (ctxOf key) l then
      let r := (s.modJob (jobOf (ctxOf key)) (fun x => { x with discards := x.discards + 1 })).performElements key order mk t
      (r.1, (j, 0) :: r.2)
    else
      let a : Access := { op := mk j, loc := l, va := 0#64, dest := 0#5, order := order }
      match (s.flushFor a).perform key a with
      | none => s.performElements key order mk t
      | some (s1, g) =>
        let r := s1.performElements key order mk t
        (r.1, (j, match g.gw with | p :: _ => p.2.toNat | [] => 0) :: r.2)

/-- A relaxed element access stays outstanding with its elements, each a relaxed access of its own (R151, R378). Elements in a retired context
are discarded; their loads give 0 (R185). -/
def State.issueElements (s : State) (key lam : Nat) (l : BitVec 4) (reads : List Nat) (w : Nat) (vw : List (BitVec 4 × Row)) (es : List (Nat × Access))
    (gone : List Nat) : State :=
  let s1 := s.modJob (jobOf (ctxOf key)) (fun j => { j with discards := j.discards + gone.length })
  let op : OutOp := { kind := .relaxed, pc := (s.strand key).pc, window := l.toNat, doneAt := s.cycle + lam, reads := reads, elems := es,
                      vw := vw.map (fun p => (p.1, putElements w p.2 (gone.map (fun j => (j, 0))))) }
  (((s1.charge (ctxOf key) 1400).retireWith key id).modStrand key (fun st => { st with out := st.out ++ [op] }))

/-- An element access of a strand (R376, R378): `mk j` is the access of element `j`, `put` makes the register a load writes from the
values of its elements. -/
def State.elements (s : State) (n : Need) (g2 : Bool) (vas : List (Nat × Word)) (mk : Nat → AccessOp) (o : BitVec 1) (l : BitVec 4)
    (reads : List Nat) (put : List (Nat × Nat) → List (BitVec 4 × Row)) : State :=
  let key := s.cur
  let c := ctxOf key
  if vas = [] then s.retireWith key id
  else match s.places c (s.me.spill g2) n 0 (vas.map (·.2)) with
    | .fails cause tv => s.raise key cause tv
    | .at s1 ps =>
      let first := fun (x : OutOp) => ps.any (fun p => x.before { op := mk 0, loc := p.1, va := 0#64, dest := 0#5, order := vectorOrder o })
      let s2 := s1.force key first
      if (s2.strand key).out.any first then s2.block key .memwait .lookahead
      else match (vas.zip ps).find? (fun p => o != 1#1 && s2.hostAnswer p.2.1 == .refuses) with
      | some p => s2.raise key 0x2C p.1.2
      | none => match ((vas.zip ps).map (fun p => s2.barred key (o == 1#1) p.1.2 p.2.1)).find? Option.isSome with
        | some (some (_, some d)) => s2.parkAgain key d
        | some (some (.refused, none)) => s2.refuse key (.rim 0 false)
        | some (some (w, none)) => s2.block key .memwait w
        | _ =>
          if o = 1#1 then s2.issueElements key (ps.foldl (fun m p => Nat.max m p.2) 0) l reads n.size (put [])
              (((vas.zip ps).filter (fun p => !s2.goneLoc c p.2.1)).map (fun p =>
                (p.1.1, { op := mk p.1.1, loc := p.2.1, va := spillAddr (s.me.spill g2) p.1.2, dest := 0#5, order := .rx })))
              (((vas.zip ps).filter (fun p => s2.goneLoc c p.2.1)).map (·.1.1))
          else
          let r := s2.performElements key (vectorOrder o) mk ((vas.map (·.1)).zip (ps.map (·.1)))
          (r.1.charge c 1400).issueLong key (ps.foldl (fun m p => Nat.max m p.2) 0) l
            { kind := .unprefixed, pc := 0, window := 0, doneAt := 0, vw := put r.2, reads := reads }

/-- Element width in bytes of a memory form: 4 or 8 (R370). -/
def memWidth (t : BitVec 3) : Nat := if t = 3#3 then 8 else 4

/-- Element `j` of a row, of `w` bytes. -/
def elementOf (w : Nat) (x : Row) (j : Nat) : Nat := natAt (8 * w * j) (8 * w) x

/-- Addresses of a strided form (R375). -/
def State.stridedAt (s : State) (a b : BitVec 4) (w : Nat) (m : Pred) : List (Nat × Word) :=
  (actives w m).map (fun j => (j, s.me.rg (gr a) + BitVec.ofNat 64 j * s.me.rg (gr b)))

/-- Addresses of a gather or scatter (R375). -/
def State.indexedAt (s : State) (a b : BitVec 4) (w : Nat) (m : Pred) : List (Nat × Word) :=
  (actives w m).map (fun j => (j, s.me.rg (gr a) + BitVec.ofNat 64 (w * elementOf w (s.me.rv b) j)))

/-- An element load into v(d). -/
def State.elementLoad (s : State) (d a : BitVec 4) (k t : BitVec 3) (o : BitVec 1) (l : BitVec 4) (vas : List (Nat × Word))
    (reads : List Nat) : State :=
  let w := memWidth t
  s.elements { rd := true, size := w, align := w } (gr a == 2#5) vas (fun _ => .load w false) o l (reads ++ kUse k)
    (fun vs => [(d, putElements w (s.me.rv d) vs)])

/-- An element store of v(d). -/
def State.elementStore (s : State) (d a : BitVec 4) (k t : BitVec 3) (o : BitVec 1) (l : BitVec 4) (vas : List (Nat × Word))
    (reads : List Nat) : State :=
  let w := memWidth t
  s.elements { wr := true, size := w, align := w } (gr a == 2#5) vas
    (fun j => .store w (BitVec.ofNat 64 (elementOf w (s.me.rv d) j))) o l (reads ++ kUse k ++ vUse [d]) (fun _ => [])

/-- VLDS (R375, R376). -/
def execVlds (d a b : BitVec 4) (k t : BitVec 3) (o : BitVec 1) (l : BitVec 4) (s : State) : Host.Outcome State Fault Refusal :=
  .next (s.elementLoad d a k t o l (s.stridedAt a b (memWidth t) (s.me.rk k)) (gUse [gr a, gr b]))

/-- VLDG (R375, R376). -/
def execVldg (d a b : BitVec 4) (k t : BitVec 3) (o : BitVec 1) (l : BitVec 4) (s : State) : Host.Outcome State Fault Refusal :=
  .next (s.elementLoad d a k t o l (s.indexedAt a b (memWidth t) (s.me.rk k)) (gUse [gr a] ++ vUse [b]))

/-- VSTS (R375, R376). -/
def execVsts (d a b : BitVec 4) (k t : BitVec 3) (o : BitVec 1) (l : BitVec 4) (s : State) : Host.Outcome State Fault Refusal :=
  .next (s.elementStore d a k t o l (s.stridedAt a b (memWidth t) (s.me.rk k)) (gUse [gr a, gr b]))

/-- VSTX (R375, R376). -/
def execVstx (d a b : BitVec 4) (k t : BitVec 3) (o : BitVec 1) (l : BitVec 4) (s : State) : Host.Outcome State Fault Refusal :=
  .next (s.elementStore d a k t o l (s.indexedAt a b (memWidth t) (s.me.rk k)) (gUse [gr a] ++ vUse [b]))

end Sys2Proof.Machine
end

