-- ==== Sys2Proof/Machine/Vector.lean ====
section
/-! DEFINITION. Vector element instructions and predicate instructions (R366–R374, R380–R395), and the acceptance queue (R169, R369). -/

namespace Sys2Proof.Machine

/-! ### The acceptance queue (R169, R369) -/

/-- The cycle an instruction issued in cycle `c` is taken, behind the accept cycles that are still to come (R169). -/
def acceptCycle (c : Nat) (pend : List Nat) : Nat :=
  pend.foldl (fun m t => Nat.max m (t + 2)) (if c % 2 = 1 then c + 1 else c + 2)

/-- What a vector operation leaves. -/
structure VecResult where
  gw : List (BitVec 5 × Word) := []
  vw : List (BitVec 4 × Row) := []
  kw : List (BitVec 3 × Pred) := []
  flags : Flags := 0#6

/-- A vector operation enters the acceptance queue; a full queue keeps it from issuing (R169). -/
def State.vectorOp (s : State) (lam : Nat) (l : BitVec 4) (reads : List Nat) (r : VecResult) : State :=
  let c := ctxOf s.cur
  let pend := (s.ctx c).vq.filter (fun t => decide (s.cycle < t))
  if 8 ≤ pend.length then s.block s.cur .engwait .lookahead
  else
    let t := acceptCycle s.cycle pend
    (s.modCtx c (fun x => { x with vq := pend ++ [t] })).issueLong s.cur (t - s.cycle + lam) l
      { kind := .vector, pc := 0, window := 0, doneAt := 0, flags := r.flags, gw := r.gw, vw := r.vw, kw := r.kw, reads := reads }

/-- VECTOR_ACCEPT (R169): the pipeline takes what has reached its arithmetic cycle. -/
def execVectorAccept (s : State) : Host.Outcome State Fault Refusal :=
  .next (s.modCtx s.input.ctx (fun c => { c with vq := c.vq.filter (fun t => decide (s.cycle < t)) }))

/-! ### Element-wise operations (R367, R368) -/

/-- Elements of `w` bytes: the result of an active element is `f j`, an inactive one keeps its old value. -/
def elementwise (w : Nat) (m : Pred) (old : Row) (f : Nat → Nat × Flags) : Row × Flags :=
  let rs := (List.range (256 / w)).map (fun j => if active w m j then f j else (elementOf w old j, 0#6))
  (rowOf (8 * w) (rs.map (·.1)), rs.foldl (fun a p => a ||| p.2) 0#6)

/-- A predicate whose element `j` of `w` bytes has all its bits as `f j` says. -/
def predOf (w : Nat) (f : Nat → Bool) : Pred :=
  BitVec.ofNat 256 (((List.range (256 / w)).map f).foldr (fun b n => (if b then 2 ^ w - 1 else 0) + 2 ^ w * n) 0)

/-- A vector result in v(d) from two sources and the old v(d). -/
def State.vector2 (s : State) (lam w : Nat) (d a b : BitVec 4) (k : BitVec 3) (l : BitVec 4) (f : Nat → Nat → Nat → Nat × Flags) : State :=
  let r := elementwise w (s.me.rk k) (s.me.rv d)
    (fun j => f (elementOf w (s.me.rv a) j) (elementOf w (s.me.rv b) j) (elementOf w (s.me.rv d) j))
  s.vectorOp lam l (vUse [d, a, b] ++ kUse k) { vw := [(d, r.1)], flags := r.2 }

/-- A vector result in v(d) from one source and the old v(d). -/
def State.vector1 (s : State) (lam w : Nat) (d a : BitVec 4) (k : BitVec 3) (l : BitVec 4) (f : Nat → Nat → Nat × Flags) : State :=
  let r := elementwise w (s.me.rk k) (s.me.rv d) (fun j => f (elementOf w (s.me.rv a) j) (elementOf w (s.me.rv d) j))
  s.vectorOp lam l (vUse [d, a] ++ kUse k) { vw := [(d, r.1)], flags := r.2 }

/-- Widths of a type field in the integer class and in the floating-point class (R284). -/
def intWidth (t : BitVec 3) : Nat := 2 ^ (t.toNat % 4)
def fpWidth (t : BitVec 3) : Nat := fcBits t.toNat / 8

/-! ### Integer and bit operations (R380, R381) -/

/-- A typed signed operation on codes of `w` bytes: absent where an operand is, else saturated (R254, R380). -/
def saturating (w : Nat) (op : Int → Int → Int) (x y : Nat) : Nat × Flags :=
  if x = 2 ^ (8 * w - 1) ∨ y = 2 ^ (8 * w - 1) then (2 ^ (8 * w - 1), 0#6)
  else
    let r := saturate (8 * w) (op (signedOf (8 * w) x) (signedOf (8 * w) y))
    (codeOf (8 * w) r.1, r.2)

/-- VADD (R380). -/
def execVadd (d a b : BitVec 4) (k t : BitVec 3) (l : BitVec 4) (s : State) : Host.Outcome State Fault Refusal :=
  .next (s.vector2 40 (intWidth t) d a b k l (fun x y _ => saturating (intWidth t) (· + ·) x y))

/-- VSUB (R380). -/
def execVsub (d a b : BitVec 4) (k t : BitVec 3) (l : BitVec 4) (s : State) : Host.Outcome State Fault Refusal :=
  .next (s.vector2 40 (intWidth t) d a b k l (fun x y _ => saturating (intWidth t) (· - ·) x y))

/-- VMUL (R380). -/
def execVmul (d a b : BitVec 4) (k t : BitVec 3) (l : BitVec 4) (s : State) : Host.Outcome State Fault Refusal :=
  .next (s.vector2 40 (intWidth t) d a b k l (fun x y _ => saturating (intWidth t) (· * ·) x y))

/-- VMIN (R380). -/
def execVmin (d a b : BitVec 4) (k t : BitVec 3) (l : BitVec 4) (s : State) : Host.Outcome State Fault Refusal :=
  .next (s.vector2 40 (intWidth t) d a b k l (fun x y _ => saturating (intWidth t) (fun i j => min i j) x y))

/-- VMAX (R380). -/
def execVmax (d a b : BitVec 4) (k t : BitVec 3) (l : BitVec 4) (s : State) : Host.Outcome State Fault Refusal :=
  .next (s.vector2 40 (intWidth t) d a b k l (fun x y _ => saturating (intWidth t) (fun i j => max i j) x y))

/-- A bytewise logical operation (R381). -/
def State.logic (s : State) (d a b : BitVec 4) (k : BitVec 3) (l : BitVec 4) (f : Row → Row → Row) : State :=
  s.vectorOp 40 l (vUse [d, a, b] ++ kUse k) { vw := [(d, mergeRow (s.me.rk k) (f (s.me.rv a) (s.me.rv b)) (s.me.rv d))] }

/-- VLOG.and (R381). -/
def execVlogAnd (d a b : BitVec 4) (k : BitVec 3) (l : BitVec 4) (s : State) : Host.Outcome State Fault Refusal :=
  .next (s.logic d a b k l (· &&& ·))

/-- VLOG.or (R381). -/
def execVlogOr (d a b : BitVec 4) (k : BitVec 3) (l : BitVec 4) (s : State) : Host.Outcome State Fault Refusal :=
  .next (s.logic d a b k l (· ||| ·))

/-- VLOG.xor (R381). -/
def execVlogXor (d a b : BitVec 4) (k : BitVec 3) (l : BitVec 4) (s : State) : Host.Outcome State Fault Refusal :=
  .next (s.logic d a b k l (· ^^^ ·))

/-- A shift of 64-bit elements by the low six bits of the counts (R381). -/
def shiftElement (f : Word → Nat → Word) (x y : Nat) : Nat × Flags := ((f (BitVec.ofNat 64 x) (y % 64)).toNat, 0#6)

/-- VSHF.sll (R381). -/
def execVshfSll (d a b : BitVec 4) (k : BitVec 3) (l : BitVec 4) (s : State) : Host.Outcome State Fault Refusal :=
  .next (s.vector2 40 8 d a b k l (fun x y _ => shiftElement (fun v n => v <<< n) x y))

/-- VSHF.srl (R381). -/
def execVshfSrl (d a b : BitVec 4) (k : BitVec 3) (l : BitVec 4) (s : State) : Host.Outcome State Fault Refusal :=
  .next (s.vector2 40 8 d a b k l (fun x y _ => shiftElement (fun v n => v >>> n) x y))

/-- VSHF.sra (R381). -/
def execVshfSra (d a b : BitVec 4) (k : BitVec 3) (l : BitVec 4) (s : State) : Host.Outcome State Fault Refusal :=
  .next (s.vector2 40 8 d a b k l (fun x y _ => shiftElement BitVec.sshiftRight x y))

/-! ### Floating point (R382, R383) -/

/-- A floating-point operation on each active element of two sources. -/
def State.vfp2 (s : State) (lam : Nat) (d a b : BitVec 4) (k t : BitVec 3) (l : BitVec 4) (op : Fmt → Nat → List Num → Nat × Flags) : State :=
  let f := fmtOf t.toNat
  s.vector2 lam (fpWidth t) d a b k l (fun x y _ => f.apply [x, y] (op f s.me.frm.toNat))

/-- VFADD (R382). -/
def execVfadd (d a b : BitVec 4) (k t : BitVec 3) (l : BitVec 4) (s : State) : Host.Outcome State Fault Refusal :=
  .next (s.vfp2 40 d a b k t l opAdd)

/-- VFSUB (R382). -/
def execVfsub (d a b : BitVec 4) (k t : BitVec 3) (l : BitVec 4) (s : State) : Host.Outcome State Fault Refusal :=
  .next (s.vfp2 40 d a b k t l opSub)

/-- VFMUL (R382). -/
def execVfmul (d a b : BitVec 4) (k t : BitVec 3) (l : BitVec 4) (s : State) : Host.Outcome State Fault Refusal :=
  .next (s.vfp2 40 d a b k t l opMul)

/-- VFMA (R382): a × b + the old v(d), rounded once. -/
def execVfma (d a b : BitVec 4) (k t : BitVec 3) (l : BitVec 4) (s : State) : Host.Outcome State Fault Refusal :=
  .next (s.vector2 40 (fpWidth t) d a b k l (fun x y z => (fmtOf t.toNat).apply [x, y, z] (opFma (fmtOf t.toNat) s.me.frm.toNat)))

/-- VFMIN (R382). -/
def execVfmin (d a b : BitVec 4) (k t : BitVec 3) (l : BitVec 4) (s : State) : Host.Outcome State Fault Refusal :=
  .next (s.vfp2 40 d a b k t l (fun f _ xs => opExtreme f false xs))

/-- VFMAX (R382). -/
def execVfmax (d a b : BitVec 4) (k t : BitVec 3) (l : BitVec 4) (s : State) : Host.Outcome State Fault Refusal :=
  .next (s.vfp2 40 d a b k t l (fun f _ xs => opExtreme f true xs))

/-- VFDIV (R383). -/
def execVfdiv (d a b : BitVec 4) (k t : BitVec 3) (l : BitVec 4) (s : State) : Host.Outcome State Fault Refusal :=
  .next (s.vfp2 72 d a b k t l opDiv)

/-- VFSQRT (R383). -/
def execVfsqrt (d a : BitVec 4) (k t : BitVec 3) (l : BitVec 4) (s : State) : Host.Outcome State Fault Refusal :=
  .next (s.vector1 72 (fpWidth t) d a k l (fun x _ => (fmtOf t.toNat).apply [x] (opSqrt (fmtOf t.toNat) s.me.frm.toNat)))

/-! Exact exponentials and logarithms are evaluated in units of 2^-224 (log 17). -/

/-- Fraction bits of the evaluation. -/
def evalBits : Nat := 224

/-- The series u + u³/3 + u⁵/5 + …, `p` the current power of u and `u2` its square, in units. -/
def atanhSeries (n k p u2 : Nat) : Nat :=
  match n with
  | 0 => 0
  | n + 1 => p / (2 * k + 1) + atanhSeries n (k + 1) (p * u2 / 2 ^ evalBits) u2

/-- ln ((1 + u) / (1 - u)) for u in units. -/
def lnRatio (u : Nat) : Nat := 2 * atanhSeries 80 0 u (u * u / 2 ^ evalBits)

/-- ln 2 in units. -/
def ln2Units : Nat := lnRatio (2 ^ evalBits / 3)

/-- The series 1 + y + y²/2 + …, `t` the current term. -/
def expSeries (n k t y : Nat) : Nat :=
  match n with
  | 0 => 0
  | n + 1 => t + expSeries n (k + 1) (t * y / 2 ^ evalBits / (k + 1)) y

/-- 2^x of a present value, rounded once (R383). -/
def opExp2 (f : Fmt) (mode : Nat) (xs : List Num) : Nat × Flags :=
  match xs with
  | [.nan sig] => (f.qnan, flagIf sig fInvalid)
  | [.inf neg] => if neg then (f.zero false, 0#6) else f.write mode (.inf false)
  | [.fin neg m e] =>
    let v : Int := if (e + (evalBits : Int)) < 0 then 0 else (m * 2 ^ (e + (evalBits : Int)).toNat : Nat)
    let x := if neg then -v else v
    let i : Int := max (-1000) (min 1000 (x / (2 ^ evalBits : Nat)))
    let fr := (x % (2 ^ evalBits : Nat)).toNat
    if fr = 0 then f.write mode (.fin false 1 i)
    else f.round mode false (expSeries 70 0 (2 ^ evalBits) (fr * ln2Units / 2 ^ evalBits)) (i - (evalBits : Int)) true
  | _ => (f.qnan, fInvalid)

/-- log2 x of a present value, rounded once (R383). -/
def opLog2 (f : Fmt) (mode : Nat) (xs : List Num) : Nat × Flags :=
  match xs with
  | [.nan sig] => (f.qnan, flagIf sig fInvalid)
  | [.inf neg] => if neg then (f.qnan, fInvalid) else f.write mode (.inf false)
  | [.fin neg m e] =>
    if m = 0 then ((f.write mode (.inf true)).1, fDivzero)
    else if neg then (f.qnan, fInvalid)
    else
      let k := Nat.log2 m
      if m = 2 ^ k then f.write mode (.ofInt (k + e))
      else
        let u := (m - 2 ^ k) * 2 ^ evalBits / (m + 2 ^ k)
        let v : Int := (k + e) * (2 ^ evalBits : Nat) + ((lnRatio u * 2 ^ evalBits / ln2Units : Nat) : Int)
        if v < 0 then f.round mode true (v.natAbs - 1) (-(evalBits : Int)) true
        else f.round mode false v.natAbs (-(evalBits : Int)) true
  | _ => (f.qnan, fInvalid)

/-- VFSF.exp2 (R383). -/
def execVfsfExp2 (d a : BitVec 4) (k : BitVec 3) (l : BitVec 4) (s : State) : Host.Outcome State Fault Refusal :=
  .next (s.vector1 72 4 d a k l (fun x _ => fp32.apply [x] (opExp2 fp32 s.me.frm.toNat)))

/-- VFSF.log2 (R383). -/
def execVfsfLog2 (d a : BitVec 4) (k : BitVec 3) (l : BitVec 4) (s : State) : Host.Outcome State Fault Refusal :=
  .next (s.vector1 72 4 d a k l (fun x _ => fp32.apply [x] (opLog2 fp32 s.me.frm.toNat)))

/-! ### Compares and select (R384, R385) -/

/-- A compare of each active element into a predicate, which is written whole. -/
def State.vcompare (s : State) (p : BitVec 3) (a b : BitVec 4) (k : BitVec 3) (w : Nat) (l : BitVec 4) (f : Nat → Nat → Bool × Flags) :
    State :=
  let r := fun j => if active w (s.me.rk k) j then f (elementOf w (s.me.rv a) j) (elementOf w (s.me.rv b) j) else (false, 0#6)
  s.vectorOp 40 l (vUse [a, b] ++ kUse k)
    { kw := [(p, predOf w (fun j => (r j).1))], flags := (List.range (256 / w)).foldl (fun x j => x ||| (r j).2) 0#6 }

/-- A compare condition of major 0x46 as R283 numbers it. -/
def vectorCond (c : BitVec 2) : Nat := if c = 3#2 then 4 else c.toNat

/-- VCMP (R384): signed; an absent operand compares false and raises nothing. -/
def execVcmp (p : BitVec 3) (a b : BitVec 4) (k t : BitVec 3) (c : BitVec 2) (l : BitVec 4) (s : State) : Host.Outcome State Fault Refusal :=
  let fc := 8 + t.toNat
  .next (s.vcompare p a b k (intWidth t) l (fun x y =>
    ((compareNums (vectorCond c) (readNum fc x 0#128 127) (readNum fc y 0#128 127)).1, 0#6)))

/-- VFCMP (R384). -/
def execVfcmp (p : BitVec 3) (a b : BitVec 4) (k t : BitVec 3) (c : BitVec 2) (l : BitVec 4) (s : State) : Host.Outcome State Fault Refusal :=
  let f := fmtOf t.toNat
  .next (s.vcompare p a b k (fpWidth t) l (fun x y => compareNums (vectorCond c) (f.read x) (f.read y)))

/-- VSEL (R385): the predicate selects, every byte is written. -/
def execVsel (d a b : BitVec 4) (k : BitVec 3) (l : BitVec 4) (s : State) : Host.Outcome State Fault Refusal :=
  .next (s.vectorOp 40 l (vUse [a, b] ++ kUse k) { vw := [(d, mergeRow (s.me.rk k) (s.me.rv a) (s.me.rv b))] })

/-! ### Conversions (R386) -/

/-- The lut4 table of a context. -/
def State.table4 (s : State) : BitVec 128 := (s.ctx (ctxOf s.cur)).tbl4

/-- Target format of VCVT: class and type (R284, R370). -/
def cvtTarget (c : BitVec 2) (t : BitVec 3) : Nat := if c = 0#2 then t.toNat else if c = 1#2 then 8 + t.toNat else 6

/-- A packed row of `n` elements of `w` bits with some replaced, and the bits above them cleared or kept. -/
def packRow (w n : Nat) (xs : List Nat) (old : Row) (clear : Bool) : Row :=
  let low := (xs.take n).foldr (fun x m => x % 2 ^ w + 2 ^ w * m) 0
  BitVec.ofNat 2048 (if clear then low else low + old.toNat / 2 ^ (n * w) * 2 ^ (n * w))

/-- The conversion of a row: each element governed at the wider width (R386). -/
def convertRow (src dst mode : Nat) (tbl : BitVec 128) (m : Pred) (x old : Row) : Row × Flags :=
  let ws := fcBits src
  let wt := fcBits dst
  let w := Nat.max ws wt
  let rs := (List.range (2048 / w)).map (fun j =>
    if bitAt (j * w / 8) m then convert src dst mode tbl (lane ws j x) else (lane wt j old, 0#6))
  (packRow wt (2048 / w) (rs.map (·.1)) old (decide (wt < ws)), rs.foldl (fun a p => a ||| p.2) 0#6)

/-- VCVT (R386). -/
def execVcvt (d a f : BitVec 4) (k t : BitVec 3) (c : BitVec 2) (l : BitVec 4) (s : State) : Host.Outcome State Fault Refusal :=
  let r := convertRow f.toNat (cvtTarget c t) s.me.frm.toNat s.table4 (s.me.rk k) (s.me.rv a) (s.me.rv d)
  .next (s.vectorOp 40 l (vUse [d, a] ++ kUse k) { vw := [(d, r.1)], flags := r.2 })

/-! ### MX blocks (R387–R389) -/

/-- emax of an MX format (R388). -/
def mxEmax (fc : Nat) : Int := if fc = 17 then 4 else 2

/-- floor log2 of the magnitude of a finite non-zero value. -/
def magExp (x : Num) : Option Int :=
  match x with
  | .fin _ m e => if m = 0 then none else some ((Nat.log2 m : Int) + e)
  | _ => none

/-- The scale of a block from its present elements (R388). -/
def mxScale (fc : Nat) (xs : List Num) : Nat :=
  if xs = [] then 0xFF
  else match xs.filterMap magExp with
    | [] => 127
    | e :: t => (max 0 (min 254 (t.foldl max e - mxEmax fc + 127))).toNat

/-- Bit position of element `j` of a packed register, and of the scale of block `b` (R387). -/
def mxAt (fc j : Nat) : Nat := fcBits fc * j
def mxScaleAt (b : Nat) : Nat := 8 * (248 + b)

/-- Quantise the fp32 elements of a register (R388). -/
def quantise (fc mode : Nat) (m : Pred) (x : Row) : Row × Flags :=
  let el := fun j => if active 4 m j then fp32.read (lane 32 j x) else Num.absent
  let block := fun b => ((List.range 32).map (fun i => el (32 * b + i)))
  let scale := fun b => mxScale fc ((block b).filter (· != Num.absent))
  let rs := (List.range 64).map (fun j =>
    if scale (j / 32) = 0xFF ∨ el j = Num.absent then ((fmtOf fc).absent, 0#6) else writeNum fc mode (el j) 0#128 (scale (j / 32)))
  (BitVec.ofNat 2048 ((rs.map (·.1)).foldr (fun c n => c % 2 ^ fcBits fc + 2 ^ fcBits fc * n) 0
      + (scale 0 + 256 * scale 1) * 2 ^ mxScaleAt 0), rs.foldl (fun a p => a ||| p.2) 0#6)

/-- VQMX.q (R388). -/
def execVqmxQ (d a : BitVec 4) (k t : BitVec 3) (l : BitVec 4) (s : State) : Host.Outcome State Fault Refusal :=
  let r := quantise (16 + t.toNat) s.me.frm.toNat (s.me.rk k) (s.me.rv a)
  .next (s.vectorOp 40 l (vUse [a] ++ kUse k) { vw := [(d, r.1)], flags := r.2 })

/-- VQMX.x (R389). -/
def execVqmxX (d a : BitVec 4) (k t : BitVec 3) (l : BitVec 4) (s : State) : Host.Outcome State Fault Refusal :=
  let fc := 16 + t.toNat
  let x := s.me.rv a
  let r := elementwise 4 (s.me.rk k) (s.me.rv d) (fun j =>
    fp32.write s.me.frm.toNat (readNum fc (natAt (mxAt fc j) (fcBits fc) x) 0#128 (natAt (mxScaleAt (j / 32)) 8 x)))
  .next (s.vectorOp 40 l (vUse [d, a] ++ kUse k) { vw := [(d, r.1)], flags := r.2 })

/-! ### Reductions and scan (R262, R390, R391) -/

/-- A present NaN as a reduction takes it: canonical, with invalid where it signals (R262). -/
def reduceIn (f : Fmt) (c : Nat) : Nat × Flags :=
  match f.read c with
  | .nan sig => (f.qnan, flagIf sig fInvalid)
  | _ => (c, 0#6)

/-- One combination of a reduction: an absent operand leaves the other (R262). -/
def reduceTwo (f : Fmt) (op : List Num → Nat × Flags) (x y : Nat) : Nat × Flags :=
  if x = f.absent then (y, 0#6) else if y = f.absent then (x, 0#6) else op [f.read x, f.read y]

/-- One level of the tree: lane 2i with lane 2i + 1. -/
def reduceLevel (f : Fmt) (op : List Num → Nat × Flags) (xs : List Nat) : List Nat × Flags :=
  match xs with
  | x :: y :: t =>
    let r := reduceTwo f op x y
    let u := reduceLevel f op t
    (r.1 :: u.1, r.2 ||| u.2)
  | _ => (xs, 0#6)

/-- The tree of R262 over its levels. -/
def reduceTree (f : Fmt) (op : List Num → Nat × Flags) (levels : Nat) (xs : List Nat) : Nat × Flags :=
  match levels with
  | 0 => (xs.getD 0 f.absent, 0#6)
  | n + 1 =>
    let r := reduceLevel f op xs
    let u := reduceTree f op n r.1
    (u.1, r.2 ||| u.2)

/-- A floating-point reduction of codes: present NaN elements first become canonical. -/
def reduceFloat (f : Fmt) (op : List Num → Nat × Flags) (levels : Nat) (xs : List Nat) : Nat × Flags :=
  let ys := xs.map (reduceIn f)
  let r := reduceTree f op levels (ys.map (·.1))
  (r.1, ys.foldl (fun a p => a ||| p.2) r.2)

/-- The result element and flags of VRED on the present elements (R390): 0 fp add, 1 integer add, 2 min, 3 max. -/
def reduceRow (o t : Nat) (mode : Nat) (m : Pred) (x : Row) : Nat × Nat × Flags :=
  let fc := if o = 1 then 8 + t else t
  let w := fcBits fc / 8
  let ab := (absentCode fc).getD 0
  let xs := (List.range (256 / w)).map (fun j => if active w m j then elementOf w x j else ab)
  let cnt := (xs.filter (· != ab)).length
  if o = 1 then
    let r := saturate (8 * w) (((xs.filter (· != ab)).map (signedOf (8 * w))).foldl (· + ·) 0)
    if cnt = 0 then (ab, 0, 0#6) else (codeOf (8 * w) r.1, cnt, r.2)
  else
    let op := fun ys => if o = 0 then opAdd (fmtOf fc) mode ys else opExtreme (fmtOf fc) (o == 3) ys
    let r := reduceFloat (fmtOf fc) op 6 xs
    (r.1, cnt, r.2)

/-- VRED (R390): v(d) is written whole. -/
def execVred (d a : BitVec 4) (k t : BitVec 3) (o : BitVec 2) (l : BitVec 4) (s : State) : Host.Outcome State Fault Refusal :=
  let r := reduceRow o.toNat t.toNat s.me.frm.toNat (s.me.rk k) (s.me.rv a)
  .next (s.vectorOp 40 l (vUse [a] ++ kUse k)
    { vw := [(d, BitVec.ofNat 2048 (r.1 + r.2.1 * 2 ^ 64))], flags := r.2.2 })

/-- The inclusive prefix sums of codes with their activity, `acc` the sum so far (R391): the first present element is taken as it is, but for
a NaN, which is canonical and raises invalid where it signals (R253, R274). -/
def scanCodes (mode : Nat) (acc : Nat) (xs : List (Bool × Nat × Nat)) : List Nat × Flags :=
  match xs with
  | [] => ([], 0#6)
  | (on, x, old) :: t =>
    let y := reduceIn fp32 x
    let r := if on then reduceTwo fp32 (opAdd fp32 mode) acc y.1 else (acc, 0#6)
    let u := scanCodes mode r.1 t
    ((if on then r.1 else old) :: u.1, r.2 ||| (if on then y.2 else 0#6) ||| u.2)

/-- VSCAN.add (R391). -/
def execVscan (d a : BitVec 4) (k : BitVec 3) (l : BitVec 4) (s : State) : Host.Outcome State Fault Refusal :=
  let r := scanCodes s.me.frm.toNat fp32.absent ((List.range 64).map (fun j =>
    (active 4 (s.me.rk k) j, lane 32 j (s.me.rv a), lane 32 j (s.me.rv d))))
  .next (s.vectorOp 40 l (vUse [d, a] ++ kUse k) { vw := [(d, rowOf 32 r.1)], flags := r.2 })

/-! ### Presence, permutes, slides, moves (R374, R392–R394) -/

/-- Width in bytes of a format code. -/
def codeWidth (f : BitVec 4) : Nat := fcBits f.toNat / 8

/-- VPRES (R392). -/
def execVpres (p : BitVec 3) (a f : BitVec 4) (k : BitVec 3) (l : BitVec 4) (s : State) : Host.Outcome State Fault Refusal :=
  let w := codeWidth f
  .next (s.vectorOp 40 l (vUse [a] ++ kUse k)
    { kw := [(p, predOf w (fun j => active w (s.me.rk k) j && !isAbsent f.toNat (elementOf w (s.me.rv a) j)))] })

/-- VFILL (R392). -/
def execVfill (d a f : BitVec 4) (k : BitVec 3) (l : BitVec 4) (s : State) : Host.Outcome State Fault Refusal :=
  .next (s.vector1 40 (codeWidth f) d a k l (fun x old => (if isAbsent f.toNat old then x else old, 0#6)))

/-- VMKA (R392): every element is written. -/
def execVmka (d a f : BitVec 4) (k : BitVec 3) (l : BitVec 4) (s : State) : Host.Outcome State Fault Refusal :=
  let w := codeWidth f
  .next (s.vectorOp 40 l (vUse [a] ++ kUse k)
    { vw := [(d, rowOf (8 * w) ((List.range (256 / w)).map (fun j =>
        if active w (s.me.rk k) j then elementOf w (s.me.rv a) j else (absentCode f.toNat).getD 0)))] })

/-- VPERM (R393): both sources are read before any byte is written. -/
def execVperm (d a b : BitVec 4) (k : BitVec 3) (l : BitVec 4) (s : State) : Host.Outcome State Fault Refusal :=
  .next (s.vector2 40 1 d a b k l (fun _ y _ => (lane 8 y (s.me.rv a), 0#6)))

/-- VSLIDE.dn (R394). -/
def execVslideDn (d a b : BitVec 4) (k : BitVec 3) (l : BitVec 4) (s : State) : Host.Outcome State Fault Refusal :=
  let r := elementwise 8 (s.me.rk k) (s.me.rv d) (fun j => (if j = 31 then lane 64 0 (s.me.rv b) else lane 64 (j + 1) (s.me.rv a), 0#6))
  .next (s.vectorOp 40 l (vUse [d, a, b] ++ kUse k) { vw := [(d, r.1)] })

/-- VSLIDE.up (R394). -/
def execVslideUp (d a b : BitVec 4) (k : BitVec 3) (l : BitVec 4) (s : State) : Host.Outcome State Fault Refusal :=
  let r := elementwise 8 (s.me.rk k) (s.me.rv d) (fun j => (if j = 0 then lane 64 31 (s.me.rv b) else lane 64 (j - 1) (s.me.rv a), 0#6))
  .next (s.vectorOp 40 l (vUse [d, a, b] ++ kUse k) { vw := [(d, r.1)] })

/-- VLEN (R374): 2,048 on this part. -/
def execVlen (a _l : BitVec 4) (s : State) : Host.Outcome State Fault Refusal := .next (s.writeG (gr a) 2048#64)

/-- VBND (R374): all 256 bits are written. -/
def execVbnd (p : BitVec 3) (a b : BitVec 4) (t : BitVec 3) (l : BitVec 4) (s : State) : Host.Outcome State Fault Refusal :=
  .next (s.vectorOp 40 l (gUse [gr a, gr b])
    { kw := [(p, predOf (intWidth t) (fun j => decide ((s.me.rg (gr a)).toNat + j < (s.me.rg (gr b)).toNat)))] })

/-- VMOV.gv (R374). -/
def execVmovGv (d a : BitVec 4) (k : BitVec 3) (l : BitVec 4) (s : State) : Host.Outcome State Fault Refusal :=
  let r := elementwise 8 (s.me.rk k) (s.me.rv d) (fun _ => ((s.me.rg (gr a)).toNat, 0#6))
  .next (s.vectorOp 40 l (gUse [gr a] ++ vUse [d] ++ kUse k) { vw := [(d, r.1)] })

/-- VMOV.vg (R374): 0 for an index past the last element. -/
def execVmovVg (d a b l : BitVec 4) (s : State) : Host.Outcome State Fault Refusal :=
  let i := (s.me.rg (gr b)).toNat
  .next (s.vectorOp 40 l (gUse [gr b] ++ vUse [d])
    { gw := [(gr a, if i < 32 then BitVec.ofNat 64 (lane 64 i (s.me.rv d)) else 0#64)] })

/-! ### Predicate instructions (R395) -/

/-- A predicate result. -/
def State.writeK (s : State) (d : BitVec 3) (x : Pred) : State := s.retireWith s.cur (fun st => st.setK d x)

/-- PAND (R395). -/
def execPand (d a b : BitVec 3) (s : State) : Host.Outcome State Fault Refusal := .next (s.writeK d (s.me.rk a &&& s.me.rk b))

/-- POR (R395). -/
def execPor (d a b : BitVec 3) (s : State) : Host.Outcome State Fault Refusal := .next (s.writeK d (s.me.rk a ||| s.me.rk b))

/-- PXOR (R395). -/
def execPxor (d a b : BitVec 3) (s : State) : Host.Outcome State Fault Refusal := .next (s.writeK d (s.me.rk a ^^^ s.me.rk b))

/-- PANDN (R395). -/
def execPandn (d a b : BitVec 3) (s : State) : Host.Outcome State Fault Refusal := .next (s.writeK d (s.me.rk a &&& ~~~(s.me.rk b)))

/-- PNOT (R395). -/
def execPnot (d a : BitVec 3) (s : State) : Host.Outcome State Fault Refusal := .next (s.writeK d (~~~(s.me.rk a)))

/-- PMOV (R395). -/
def execPmov (d a k : BitVec 3) (s : State) : Host.Outcome State Fault Refusal :=
  .next (s.writeK d ((s.me.rk a &&& s.me.rk k) ||| (s.me.rk d &&& ~~~(s.me.rk k))))

end Sys2Proof.Machine
end

