-- ==== Sys2Proof/Machine/Copy.lean ====
section
/-! DEFINITION. The copy engine (R170, R406–R410) and the chain engine (R411–R413). A copy command's meaning advances it by one chunk, a
chain command's by the 32 elements of an arithmetic cycle. -/

namespace Sys2Proof.Machine

/-! ### The copy engine (R170, R406–R410) -/

/-- A copy may start: fewer than 8 are in progress (R170). -/
def Ctx.copyFree (c : Ctx) : Bool := decide ((c.inProgress 4).length < 8)

/-- A copy of bytes in order: `src` gives the source of the chunk at a byte offset. -/
def State.linearCopy (s : State) (h : CmdHdr) (may : Ctx → Bool) (dst : Word) (len feop : Nat) (src : Nat → Option Word)
    (data : Word → Nat → List Byte) : State :=
  match s.started s.focus h may id with
  | none => s
  | some (s1, r) =>
    let a := dst + BitVec.ofNat 64 r.done
    let n := chunkLen a (len - r.done)
    s1.chunkStep s.focus h r (decide (len ≤ r.done)) (s.engStop s.focus) r.done r.done { src := src r.done, data := data a n, dst := a, len := n, feop := feop, pj := trafficPj n, done := r.done + n }

/-- CPY (R406, R407). -/
def execCpy (h : CmdHdr) (src dst : BitVec 64) (len : BitVec 40) (s : State) : Host.Outcome State Fault Refusal :=
  .next (s.linearCopy h Ctx.copyFree dst len.toNat 0 (fun o => some (src + BitVec.ofNat 64 o)) (fun _ _ => []))

/-- CPYF (R408): every word is set full. -/
def execCpyf (h : CmdHdr) (src dst : BitVec 64) (len : BitVec 40) (s : State) : Host.Outcome State Fault Refusal :=
  .next (s.linearCopy h Ctx.copyFree dst len.toNat 1 (fun o => some (src + BitVec.ofNat 64 o)) (fun _ _ => []))

/-- CFILL (R406, R408): the byte at address a is byte a mod 8 of PAT. -/
def execCfill (h : CmdHdr) (pat dst : BitVec 64) (len : BitVec 40) (feop : BitVec 2) (s : State) : Host.Outcome State Fault Refusal :=
  .next (s.linearCopy h Ctx.copyFree dst len.toNat feop.toNat (fun _ => none)
    (fun a n => (List.range n).map (fun i => fieldAt (8 * ((a.toNat + i) % 8)) 8 pat)))

/-- CPYI (R406, R408, R409): starts when every earlier q4 command has completed. -/
def execCpyi (h : CmdHdr) (data : BitVec 128) (dst : BitVec 64) (len : BitVec 5) (feop : BitVec 2) (s : State) :
    Host.Outcome State Fault Refusal :=
  .next (s.linearCopy h (fun c => (c.inProgress 4).isEmpty) dst len.toNat feop.toNat (fun _ => none)
    (fun a n => (List.range n).map (fun i => fieldAt (8 * ((a - dst).toNat + i)) 8 data)))

/-- CPY2 (R406, R407): `done` counts rows, `count` the bytes of the row in progress. -/
def execCpy2 (h : CmdHdr) (src dst : BitVec 64) (rowlen nrows sstr dstr : BitVec 16) (ssh dsh : BitVec 4) (s : State) :
    Host.Outcome State Fault Refusal :=
  match s.started s.focus h Ctx.copyFree id with
  | none => .next s
  | some (s1, r) =>
    let a := dst + BitVec.ofNat 64 (r.done * (dstr.toNat * 2 ^ dsh.toNat) + r.count)
    let b := src + BitVec.ofNat 64 (r.done * (sstr.toNat * 2 ^ ssh.toNat) + r.count)
    let n := chunkLen a (rowlen.toNat - r.count)
    let whole := decide (rowlen.toNat ≤ r.count + n)
    .next (s1.chunkStep s.focus h r (decide (nrows.toNat ≤ r.done)) (s.engStop s.focus) r.done r.done {
      src := some b, dst := a, len := n, pj := trafficPj n
      done := if whole then r.done + 1 else r.done, count := if whole then 0 else r.count + n })

/-- A gather or scatter: the index of an element is read when the element starts (R407). -/
def State.indexedCopy (s : State) (h : CmdHdr) (idx : BitVec 25) (esz : BitVec 4) (n : BitVec 32) (places : Word → Word → Word × Word) :
    State :=
  let ctx := s.focus
  match s.started ctx h Ctx.copyFree id with
  | none => s
  | some (s1, r) =>
    if r.count = 0 ∧ r.done < n.toNat ∧ s1.ownLocked ctx (idx.toNat + 4 * r.done) 4 then s1 else
    let x := if r.count = 0 then s1.ownNat ctx (idx.toNat + 4 * r.done) 4 else r.buf
    let s2 := s1.modRun ctx h (fun r => { r with buf := x })
    let size := 2 ^ esz.toNat
    let p := places (BitVec.ofNat 64 (x * size)) (BitVec.ofNat 64 (r.done * size))
    let a := p.2 + BitVec.ofNat 64 r.count
    let m := chunkLen a (size - r.count)
    let whole := decide (size ≤ r.count + m)
    s2.chunkStep ctx h r (decide (n.toNat ≤ r.done)) (s.engStop ctx) r.done r.done {
      src := some (p.1 + BitVec.ofNat 64 r.count), dst := a, len := m, pj := trafficPj m
      done := if whole then r.done + 1 else r.done, count := if whole then 0 else r.count + m }

/-- CPYG (R406): element i comes from SRC + idx[i] × 2^ESZ. -/
def execCpyg (h : CmdHdr) (src dst : BitVec 64) (idx : BitVec 25) (esz : BitVec 4) (n : BitVec 32) (s : State) :
    Host.Outcome State Fault Refusal :=
  .next (s.indexedCopy h idx esz n (fun x i => (src + x, dst + i)))

/-- CPYS (R406): element i goes to DST + idx[i] × 2^ESZ. -/
def execCpys (h : CmdHdr) (src dst : BitVec 64) (idx : BitVec 25) (esz : BitVec 4) (n : BitVec 32) (s : State) :
    Host.Outcome State Fault Refusal :=
  .next (s.indexedCopy h idx esz n (fun x i => (src + i, dst + x)))

/-! ### The chain engine (R411–R413) -/

/-- 1 / √x, rounded once (R412). -/
def Fmt.rsqrt (f : Fmt) (x : Num) : Nat × Flags :=
  match x with
  | .absent => (f.absent, 0#6)
  | .nan sg => (f.qnan, flagIf sg fInvalid)
  | .inf neg => if neg then (f.qnan, fInvalid) else (f.zero false, 0#6)
  | .fin neg m e =>
    if m = 0 then ((f.write 0 (.inf neg)).1, fDivzero)
    else if neg then (f.qnan, fInvalid)
    else
      let odd := e % 2 ≠ 0
      let mm := if odd then 2 * m else m
      let ee := if odd then e - 1 else e
      let q := isqrt (2 ^ 160 / mm)
      f.round 0 false q (-80 - ee / 2) (q * q * mm != 2 ^ 160)

/-- A sign change of a present value: no flag, a NaN is canonical (R412). -/
def signOp (f : Fmt) (neg : Num → Bool) (x : Num) : Nat × Flags :=
  match x with
  | .nan _ => (f.qnan, 0#6)
  | .fin _ m e => f.write 0 (.fin (neg x) m e)
  | .inf _ => f.write 0 (.inf (neg x))
  | .absent => (f.absent, 0#6)

/-- A slot applied to a value, with its constants (R412). -/
def chainOp (op x c c' : Nat) : Nat × Flags :=
  let f := fp32
  match op with
  | 1 => f.apply [x, c] (opAdd f 0)
  | 2 => f.apply [x, c] (opSub f 0)
  | 3 => f.apply [x, c] (opMul f 0)
  | 4 => f.apply [x, c, c'] (opFma f 0)
  | 5 => f.apply [x, c] (opExtreme f false)
  | 6 => f.apply [x, c] (opExtreme f true)
  | 7 => f.apply [x] (fun l => signOp f (fun _ => false) (l.headD .absent))
  | 8 => f.apply [x] (fun l => signOp f (fun y => !y.sgn) (l.headD .absent))
  | 9 => f.apply [x] (opExp2 f 0)
  | 10 => f.apply [x] (opLog2 f 0)
  | 11 => f.apply [x] (fun l => f.quotient 0 (.fin false 1 0) (l.headD .absent))
  | _ => f.apply [x] (fun l => f.rsqrt (l.headD .absent))

/-- The slots from one on, up to END (R413). -/
def chainSlots (slots : BitVec 96) (consts : Row) (i n : Nat) (x : Nat × Flags) : Nat × Flags :=
  match n with
  | 0 => x
  | n + 1 =>
    let op := natAt (12 * i) 5 slots
    if op = 0 then x
    else
      let c := natAt (12 * i + 5) 3 slots
      let r := chainOp op x.1 (lane 32 c consts) (lane 32 (c + 1) consts)
      chainSlots slots consts (i + 1) n (r.1, x.2 ||| r.2)

/-- An element through the chain (R413). -/
def chainElement (slots : BitVec 96) (itype otype : Nat) (consts : Row) (x : Nat) : Nat × Flags :=
  let a := convert itype 1 0 0#128 x
  let b := chainSlots slots consts 0 8 a
  let c := convert 1 otype 0 0#128 b.1
  (c.1, b.2 ||| c.2)

/-- Elements `i` to `i + n − 1` of a chain command, in increasing order. -/
def State.chainRun (s : State) (ctx writer : Nat) (slots : BitVec 96) (itype otype src dst : Nat) (consts : Row) (i n : Nat) : State × Flags :=
  match n with
  | 0 => (s, 0#6)
  | n + 1 =>
    let wi := fcBytes itype
    let wo := fcBytes otype
    let r := chainElement slots itype otype consts (s.ownNat ctx (src + i * wi) wi)
    let bs := (List.range wo).map (fun k => BitVec.ofNat 8 (r.1 / 256 ^ k))
    let u := (s.engPut (.spm ctx (dst + i * wo)) bs 0 writer).chainRun ctx writer slots itype otype src dst consts (i + 1) n
    (u.1, r.2 ||| u.2)

/-- CHAIN (R411–R413). SRC, DST are in units of 256 bytes, CONST of 32. It waits for words that a JCLOSE has locked (R210). -/
def execChain (h : CmdHdr) (slots : BitVec 96) (itype otype : BitVec 4) (src dst : BitVec 17) (const : BitVec 20) (n : BitVec 24) (s : State) :
    Host.Outcome State Fault Refusal :=
  let ctx := s.focus
  match s.started ctx h (fun c => (c.inProgress 5).isEmpty && !s.ownLocked ctx (32 * const.toNat) 32) (fun r => { r with rows := [BitVec.ofNat 2048 (s.ownNat ctx (32 * const.toNat) 32)] }) with
  | none => .next s
  | some (s1, r) =>
    let m := Nat.min 32 (n.toNat - r.done)
    if s1.ownLocked ctx (256 * src.toNat + r.done * fcBytes itype.toNat) (m * fcBytes itype.toNat)
        || s1.ownLocked ctx (256 * dst.toNat + r.done * fcBytes otype.toNat) (m * fcBytes otype.toNat) then .next s1
    else
    let x := s1.chainRun ctx (commandWriter ctx h.queue.toNat h.seq) slots itype.toNat otype.toNat (256 * src.toNat) (256 * dst.toNat)
      (r.rows.headD 0#2048) r.done m
    let s2 := (x.1.charge ctx (trafficPj (m * fcBytes otype.toNat))).progress (jobOf ctx)
    if n.toNat ≤ r.done + m then .next (s2.endRun ctx h 0 (r.flags ||| x.2) (r.done + m) 0)
    else .next (s2.modRun ctx h (fun r => { r with done := r.done + m, flags := r.flags ||| x.2 }))

end Sys2Proof.Machine
end

