-- ==== Sys2Proof/Machine/Truss.lean ====
section
/-! DEFINITION. The truss network (R171, R414–R418). The k-th truss commands of a gang's contexts form an operation: it starts in every
context at once, where each has its command at the head of q6; a context that delivers then writes its result chunk by chunk. -/

namespace Sys2Proof.Machine

/-! ### Elements and combination (R262, R416) -/

/-- An element of a truss reduction: absent, or a value (a code for fp types, an integer for i types), and its count. -/
structure TrussEl where
  val : Option Int := none
  cnt : Nat := 0
deriving DecidableEq, Repr

/-- An element of a context's own data; a present NaN is canonical, a signalling one raises invalid (R262). -/
def trussOwn (type x : Nat) : TrussEl × Flags :=
  if isAbsent type x then ({}, 0#6)
  else if isInt type then ({ val := some (signedOf (fcBits type) x), cnt := 1 }, 0#6)
  else
    let r := reduceIn (fmtOf type) x
    ({ val := some (r.1 : Int), cnt := 1 }, r.2)

/-- Combine two elements (R262, R416): OP 0 add, 1 min, 2 max, 3 add with count. -/
def trussCombine (op type : Nat) (a b : TrussEl) : TrussEl × Flags :=
  match a.val, b.val with
  | none, _ => ({ b with cnt := a.cnt + b.cnt }, 0#6)
  | _, none => ({ a with cnt := a.cnt + b.cnt }, 0#6)
  | some x, some y =>
    if isInt type then
      ({ val := some (if op = 1 then min x y else if op = 2 then max x y else x + y), cnt := a.cnt + b.cnt }, 0#6)
    else
      let f := fmtOf type
      let xs := [f.read x.toNat, f.read y.toNat]
      let r := if op = 1 then opExtreme f false xs else if op = 2 then opExtreme f true xs else opAdd f 0 xs
      ({ val := some (r.1 : Int), cnt := a.cnt + b.cnt }, r.2)

/-- Combine two vectors of elements. -/
def trussZip (op type : Nat) (a b : List TrussEl) : List TrussEl × Flags :=
  let rs := (a.zip b).map (fun p => trussCombine op type p.1 p.2)
  (rs.map (·.1), rs.foldl (fun f r => f ||| r.2) 0#6)

/-- Children of node `i` of a tree of `n` nodes with fan-out `f` (R171). -/
def trussChildren (f n i : Nat) : List Nat := ((List.range f).map (fun k => f * i + 1 + k)).filter (fun c => decide (c < n))

/-- The partial a node sends, and the flags of its own combinations: children in increasing order, then its own elements (R416). -/
def trussNode (op type f n : Nat) (own : Nat → List TrussEl × Flags) (fuel i : Nat) : List TrussEl × Flags :=
  match fuel with
  | 0 => own i
  | fuel + 1 =>
    match (trussChildren f n i).map (fun c => (trussNode op type f n own fuel c).1) with
    | [] => own i
    | p :: ps =>
      let x := (ps ++ [(own i).1]).foldl (fun a q =>
        let r := trussZip op type a.1 q
        (r.1, a.2 ||| r.2)) (p, (own i).2)
      x

/-! ### The shape of an operation (R415, R418) -/

/-- COP, OP, TYPE, N or LEN, DQ of a truss command. -/
def trussShape (i : Instr) : Option (Nat × Nat × Nat × Nat × Nat) :=
  match i with
  | .tred _ op type dq _ _ n => some (0x30, op.toNat, type.toNat, n.toNat, dq.toNat)
  | .tbcast _ _ _ len => some (0x31, 0, 0, len.toNat, 0)
  | .tgath _ dq _ _ len => some (0x32, 0, 0, len.toNat, dq.toNat)
  | .tscat _ _ _ len => some (0x33, 0, 0, len.toNat, 0)
  | _ => none

/-- SRC of a truss command. -/
def trussSrc (i : Instr) : Nat :=
  match i with
  | .tred _ _ _ _ src _ _ => src.toNat
  | .tbcast _ src _ _ => src.toNat
  | .tgath _ _ src _ _ => src.toNat
  | .tscat _ src _ _ => src.toNat
  | _ => 0

/-- q7 rows an operation delivers (R416, R418). -/
def trussRows (members : Nat) (sh : Nat × Nat × Nat × Nat × Nat) : Nat :=
  let w := fcBits sh.2.2.1
  if sh.1 = 0x30 then (sh.2.2.2.1 * w + 2047) / 2048 + (if sh.2.1 = 3 then (sh.2.2.2.1 * 32 + 2047) / 2048 else 0)
  else (members * sh.2.2.2.1 + 255) / 256

/-- A member of an operation that is live: its context and its head, if it has one. -/
structure TrussHead where
  ctx : Nat
  head : Option (CmdEntry × Instr)

/-- The live members of a gang with the heads of their q6. -/
def State.trussHeads (s : State) (ctx : Nat) : List TrussHead :=
  let j := s.job (jobOf ctx)
  ((s.members (jobOf ctx) (s.gangNo ctx)).filter (fun c => !(j.entry (vtidOf c)).done)).map (fun c => ⟨c, s.headInstr c 6⟩)

/-- Bytes of a list of elements of a width. -/
def bytesOf (w : Nat) (xs : List Nat) : List Byte := (xs.map (fun x => (List.range w).map (fun i => BitVec.ofNat 8 (x / 256 ^ i)))).flatten

/-! ### Starting an operation -/

/-- A command that delivers to q7 is in progress at the head of q6, which it leaves with its last row (R418). -/
def State.startKept (s : State) (ctx : Nat) (e : CmdEntry) (f : Running → Running) : State :=
  s.modCtx ctx (fun c => { c with running := c.running ++ [f { entry := e, queue := 6 }] })

/-- Every head of an operation starts, with what its context will deliver; a context that delivers nothing completes. `kept` delivers to q7, and
`away` is the mask of the members that had retired at the start (R415). -/
def State.trussBegin (s : State) (hs : List (Nat × CmdEntry × Instr)) (kept : Option Nat) (away : Nat) (f : Nat → Option (List Row))
    (fl : Nat → Flags) (value : Nat) : State :=
  hs.foldl (fun x p =>
    let h := p.2.1.hdr 6
    let y := x.modCtx p.1 (fun c => c.passTruss 6 h)
    match f p.1 with
    | some rows =>
      let g := fun r : Running => { r with rows := rows, flags := fl p.1, count := value, buf := away }
      if kept = some p.1 then y.startKept p.1 p.2.1 g else y.startHead p.1 h p.2.1 g
    | none => (y.startHead p.1 h p.2.1 id).endRun p.1 h 0 (fl p.1) value 0) s

/-- Every command of an operation completes with a status, and nothing is delivered. -/
def State.trussEnd (s : State) (hs : List (Nat × CmdEntry × Instr)) (status value detail : Nat) : State :=
  hs.foldl (fun x p =>
    let h := p.2.1.hdr 6
    ((x.modCtx p.1 (fun c => c.passTruss 6 h)).startHead p.1 h p.2.1 id).endRun p.1 h status 0#6 value detail) s

/-- A VALUE no rule gives (log 15). -/
def State.openValue (s : State) : Nat := (Config.openWord s.free).toNat % 1099511627776

/-- The elements and flags a member of the gang contributes to a TRED: a retired context's are absent (R415). -/
def State.trussElements (s : State) (hs : List (Nat × CmdEntry × Instr)) (members : List Nat) (type n i : Nat) : List TrussEl × Flags :=
  match hs.find? (fun p => members[i]? == some p.1) with
  | none => (List.replicate n {}, 0#6)
  | some p =>
    let w := fcBytes type
    let xs := (List.range n).map (fun k => trussOwn type (s.ownNat p.1 (trussSrc p.2.2 + k * w) w))
    (xs.map (·.1), xs.foldl (fun f x => f ||| x.2) 0#6)

/-- The delivered elements of a TRED: values, counts, and the flag of the saturation at the root (R416). -/
def trussResult (type : Nat) (xs : List TrussEl) : List Nat × List Nat × Flags :=
  let rs := xs.map (fun x => match x.val with
    | none => ((absentCode type).getD 0, 0#6)
    | some v => if isInt type then (codeOf (fcBits type) (saturate (fcBits type) v).1, (saturate (fcBits type) v).2) else (v.toNat, 0#6))
  (rs.map (·.1), xs.map (fun x => x.cnt % 4294967296), rs.foldl (fun f r => f ||| r.2) 0#6)

/-- An operation starts with all its heads agreeing (R416, R417). -/
def State.trussRun (s : State) (ctx : Nat) (hs : List (Nat × CmdEntry × Instr)) (sh : Nat × Nat × Nat × Nat × Nat) : State :=
  let ms := s.members (jobOf ctx) (s.gangNo ctx)
  let root := ms.headD ctx
  let n := sh.2.2.2.1
  let queue := sh.2.2.2.2 = 1
  let deliver := fun (x : State) (rows : List Row) => if queue then x.modCtx root (fun c => { c with trussBuf := c.trussBuf ++ rows }) else x
  let bytes := fun (c : Nat) => match hs.find? (fun p => p.1 == c) with
    | some p => (List.range n).map (fun k => s.ownByte c (trussSrc p.2.2 + k))
    | none => List.replicate n 0#8
  let v := s.openValue
  let kept := if queue then some root else none
  let away := ms.zipIdx.foldl (fun m p => if (hs.find? (fun q => q.1 == p.1)).isNone then m ||| 2 ^ p.2 else m) 0
  if sh.1 = 0x30 then
    let type := sh.2.2.1
    let node := trussNode sh.2.1 type (recFanout (s.job (jobOf ctx)).record) ms.length (s.trussElements hs ms type n) ms.length
    let x := trussResult type (node 0).1
    let rows := rowsOfBytes (bytesOf (fcBytes type) x.1) ++ (if sh.2.1 = 3 then rowsOfBytes (bytesOf 4 x.2.1) else [])
    deliver (s.trussBegin hs kept away (fun c => if c = root then some (if queue then [] else rows) else none)
      (fun c => (node (ms.findIdx (· == c))).2 ||| (if c = root then x.2.2 else 0#6)) ms.length) rows
  else if sh.1 = 0x31 then
    (s.bump).trussBegin hs kept away (fun _ => some (rowsOfBytes (bytes root))) (fun _ => 0#6) v
  else if sh.1 = 0x32 then
    let rows := rowsOfBytes ((ms.map bytes).flatten)
    deliver ((s.bump).trussBegin hs kept away (fun c => if c = root then some (if queue then [] else rows) else none) (fun _ => 0#6) v) rows
  else
    let slice := fun (c : Nat) => match hs.find? (fun p => p.1 == root) with
      | some p => (List.range n).map (fun k => s.ownByte root (trussSrc p.2.2 + ms.findIdx (· == c) * n + k))
      | none => []
    (s.bump).trussBegin hs kept away (fun c => some (rowsOfBytes (slice c))) (fun _ => 0#6) v

/-- Bytes at SRC that a member reads for an operation: none where the root alone reads and it is another (R416, R417). -/
def trussBytes (members : Nat) (root : Bool) (sh : Nat × Nat × Nat × Nat × Nat) : Nat :=
  let n := sh.2.2.2.1
  if sh.1 = 0x30 then n * fcBytes sh.2.2.1
  else if sh.1 = 0x32 then n
  else if root then (if sh.1 = 0x33 then members * n else n) else 0

/-- A member can take part in operation `k` now: its engine is free and holds fewer than 16 completions, it is neither stopped nor moved, and what
its push released is performed (R158, R198, R221, R424). -/
def State.trussMay (s : State) (k : Nat) (p : Nat × CmdEntry × Instr) : Bool :=
  (trussShape p.2.2).isSome && (s.ctx p.1).trussSeq == k && (s.ctx p.1).mayStart 6 && ((s.ctx p.1).inProgress 6).isEmpty && !s.engStop p.1
    && s.cleared (p.2.1.hdr 6) p.2.1

/-- A truss command at its head: it waits, completes with TRUSS_MISMATCH or BADCMD, or the operation starts (R415, R418). A member that has gone
past the operation without it had a command of it that was BADCMD or DISCARDED. -/
def State.trussHead (s : State) (ctx : Nat) (h : CmdHdr) : State :=
  match (s.ctx ctx).atHead h with
  | none => s
  | some e =>
    let k := (s.ctx ctx).trussSeq
    let ms := s.members (jobOf ctx) (s.gangNo ctx)
    let heads := s.trussHeads ctx
    let mine := [(ctx, e, s.entryInstr ctx 6 e)]
    let ready := heads.filterMap (fun t => match t.head with | some p => some (t.ctx, p.1, p.2) | none => none)
    if !(s.ctx ctx).mayStart 6 || !((s.ctx ctx).inProgress 6).isEmpty then s
    else if ((s.job (jobOf ctx)).entry (vtidOf (ms.headD ctx))).done || ms.any (fun c => decide (k < (s.ctx c).trussSeq)) then
      (s.bump).trussEnd mine 5 s.openValue 0
    else if ready.length < heads.length
        || ready.any (fun p => !s.trussMay k p) then s
    else match trussShape (s.entryInstr ctx 6 e) with
      | none => s
      | some sh =>
        if ready.any (fun p => trussShape p.2.2 != some sh) then (s.bump).trussEnd ready 5 s.openValue 0
        else if sh.2.2.2.2 = 1 ∧ 16 < trussRows ms.length sh then s.trussEnd ready 1 0 72
        else if ready.any (fun p => s.ownLocked p.1 (trussSrc p.2.2) (trussBytes ms.length (p.1 == ms.headD ctx) sh)) then s
        else s.trussRun ctx ready sh

/-! ### Delivering (R416–R418) -/

/-- Byte `i` of bytes kept in rows. -/
def rowsByte (rows : List Row) (i : Nat) : Byte := fieldAt (8 * (i % 256)) 8 (rows.getD (i / 256) 0#2048)

/-- A truss operation holds a stop, a move and a mark until every row it delivers has a place: one that delivers to q7 has given them all to q7
and the buffer when it starts (R124, R134, R139, R418). -/
def State.trussHolds (s : State) (ctx : Nat) : Bool :=
  ((s.ctx ctx).inProgress 6).any (fun r => match trussShape (s.entryInstr ctx 6 r.entry) with
    | some sh => sh.2.2.2.2 != 1
    | none => true)

/-- Rows of the truss result buffer enter q7 as room frees; the root's command completes with the last (R418). -/
def State.trussPush (s : State) (ctx : Nat) (h : CmdHdr) (r : Running) : State :=
  let o := (s.ctx ctx).offer 7 (s.ctx ctx).trussBuf
  let s1 := s.setCtx ctx { o.1 with trussBuf := o.2 }
  if o.2 = [] then ((s1.modCtx ctx (fun c => c.setCmds 6 (c.cmdList 6).tail)).progress (jobOf ctx)).endRun ctx h 0 r.flags r.count 0 else s1

/-- A delivery to memory, chunk by chunk: segment one holds `n1` bytes at DST, segment two `n2` bytes from `off2` on; `skip` says which
bytes are not written (R407, R415–R417). -/
def State.trussWrite (s : State) (ctx : Nat) (h : CmdHdr) (r : Running) (dst : Word) (n1 off2 n2 slice : Nat) (skip : Nat → Bool)
    (value : Nat → Nat) : State :=
  let seg := decide (r.done < n1)
  let o := if seg then r.done else r.done - n1
  let a := dst + BitVec.ofNat 64 (if seg then o else off2 + o)
  let m := Nat.min (chunkLen a (if seg then n1 - o else n2 - o)) (if slice = 0 then 256 else slice - o % slice)
  let base := if seg then 0 else (n1 + 255) / 256 * 256
  s.chunkStep ctx h r (decide (n1 + n2 ≤ r.done)) false r.count (value r.done) {
    data := if skip r.done then [] else (List.range m).map (fun i => rowsByte r.rows (base + o + i))
    dst := a, len := m, done := r.done + m, count := r.count }

/-- TRED (R416). -/
def execTred (h : CmdHdr) (op : BitVec 2) (type : BitVec 4) (dq : BitVec 1) (_src : BitVec 25) (dst : BitVec 64) (n : BitVec 24) (s : State) :
    Host.Outcome State Fault Refusal :=
  let ctx := s.focus
  let w := fcBytes type.toNat
  let n1 := n.toNat * w
  match (s.ctx ctx).findRun h with
  | none => .next (s.trussHead ctx h)
  | some r =>
    if dq = 1#1 then .next (s.trussPush ctx h r)
    else .next (s.trussWrite ctx h r dst n1 ((n1 + 7) / 8 * 8) (if op = 3#2 then 4 * n.toNat else 0) 0 (fun _ => false)
      (fun d => Nat.min n.toNat (d / w)))

/-- TBCAST (R417). -/
def execTbcast (h : CmdHdr) (_src : BitVec 25) (dst : BitVec 64) (len : BitVec 24) (s : State) : Host.Outcome State Fault Refusal :=
  let ctx := s.focus
  match (s.ctx ctx).findRun h with
  | none => .next (s.trussHead ctx h)
  | some r => .next (s.trussWrite ctx h r dst len.toNat 0 0 0 (fun _ => false) id)

/-- TGATH (R417): the slice of a context that had retired when the operation started is not written (R415). -/
def execTgath (h : CmdHdr) (dq : BitVec 1) (_src : BitVec 25) (dst : BitVec 64) (len : BitVec 24) (s : State) :
    Host.Outcome State Fault Refusal :=
  let ctx := s.focus
  let ms := s.members (jobOf ctx) (s.gangNo ctx)
  match (s.ctx ctx).findRun h with
  | none => .next (s.trussHead ctx h)
  | some r =>
    if dq = 1#1 then .next (s.trussPush ctx h r)
    else .next (s.trussWrite ctx h r dst (ms.length * len.toNat) 0 0 len.toNat
      (fun d => r.buf.testBit (d / len.toNat)) id)

/-- TSCAT (R417). -/
def execTscat (h : CmdHdr) (_src : BitVec 25) (dst : BitVec 64) (len : BitVec 24) (s : State) : Host.Outcome State Fault Refusal :=
  let ctx := s.focus
  match (s.ctx ctx).findRun h with
  | none => .next (s.trussHead ctx h)
  | some r => .next (s.trussWrite ctx h r dst len.toNat 0 0 0 (fun _ => false) id)

end Sys2Proof.Machine
end

