-- ==== Sys2Proof/Machine/Bank.lean ====
section
/-! DEFINITION. The bank units (R63–R74, R419–R422), and MARK, CNOP and BADCMD (R293, R423). A bank command checks its pages when it
starts and then computes one element of y at a time. -/

namespace Sys2Proof.Machine

/-! ### Layout (R64, R65) -/

/-- Elements of a segment (R64). -/
def segElements (wfmt : Nat) : Nat :=
  match wfmt with
  | 1 => 1024
  | 3 => 2048
  | 4 => 2048
  | 7 => 3840
  | _ => 2560

/-- Segments of a row of K elements. -/
def segCount (wfmt k : Nat) : Nat := (k + segElements wfmt - 1) / segElements wfmt

/-- The address of line `i` of slot `t` of a matrix (R63, R65). -/
def slotLine (base : Word) (t i : Nat) : Word := base + BitVec.ofNat 64 (t / 32 * 65536 + (i * 32 + t % 32) * 256)

/-- Element `e` of a slot, whose bits are given as a number (R64). -/
def slotElement (wfmt bits e : Nat) : Num :=
  let fc := mfcFc wfmt
  readNum fc (bits / 2 ^ (fcBits fc * e) % 2 ^ fcBits fc) 0#128 (bits / 2 ^ (8 * (1920 + e / 32)) % 256)

/-! ### Page checks (R71) -/

/-- What a page is touched for: weights of a format, x, or y. -/
inductive BankUse where
  | weights (wfmt : Nat)
  | input
  | result (read write : Bool)
deriving DecidableEq, Repr

/-- The first failed check of the page that holds an address: status and the address of the page (R71, R422). -/
def State.pageFails (s : State) (ctx : Nat) (u : BankUse) (va : Word) : Option (Nat × Word) :=
  let tn := (s.job (jobOf ctx)).tenant
  let v := natAt 0 49 va
  match s.translate (s.tile (s.ptid ctx)).tlb tn v with
  | .fails _ => some (6, va &&& ~~~0xFFFF#64)
  | .leaf level e =>
    let shift := pageBits level
    let page : Word := 0x8000000000000000#64 + BitVec.ofNat 64 (v / 2 ^ shift * 2 ^ shift)
    let pa := natAt 20 44 e * 256 + v % 2 ^ shift
    let r := natAt 11 4 e
    let needRd := match u with | .result rd _ => rd | _ => true
    let needWr := match u with | .result _ wr => wr | _ => false
    if (needRd && !bitAt 2 e) || (needWr && !bitAt 3 e) || !bitAt 5 e then some (6, page)
    else if natAt 7 2 e ≠ 0 then some (7, page)
    else if !((s.rangeEntry r).covers pa && bitAt r (s.ten tn).set.mask) then some (6, page)
    else match u with
      | .weights wfmt =>
        if (s.rangeEntry r).gran ≠ 8#4 ∨ natAt 9 2 e ≠ (if 5 ≤ wfmt then 2 else 1) then some (7, page) else none
      | .input => if (s.rangeEntry r).gran ≠ 8#4 ∨ natAt 9 2 e = 0 then some (7, page) else none
      | .result _ _ => none

/-- The first failed check of the pages of `n` bytes from an address up, in increasing address. -/
def State.pagesFail (s : State) (ctx : Nat) (u : BankUse) (va : Word) (n : Nat) : Option (Nat × Word) :=
  if n = 0 then none
  else
    let first := va.toNat / 65536
    ((List.range ((va.toNat + n - 1) / 65536 + 1 - first)).map (fun i =>
      s.pageFails ctx u (BitVec.ofNat 64 (Nat.max va.toNat ((first + i) * 65536))))).findSome? id

/-! ### Reading through the units (R70, R72, R73) -/

/-- The rim key of a global address a bank unit reads or writes; none where it fails or meets an uncorrectable error. -/
def State.bankKey (s : State) (ctx : Nat) (va : Word) : Option Nat :=
  match s.resolveGlobal (s.tile (s.ptid ctx)).tlb (s.job (jobOf ctx)).tenant {} va with
  | .at (.rim k _) _ => some k
  | _ => none

/-- A command that reads: its issuer, what that had acquired by the push, and the words the command has read before, each once (R70). -/
structure BankBy where
  key : Nat
  pushed : Nat
  view : View
  seen : Table (Option Word)
  writer : Nat

def Running.bankBy (r : Running) (ctx : Nat) : BankBy :=
  ⟨strandKey ctx r.entry.issuer.toNat, r.entry.pushedAt, r.entry.view, r.seen, commandWriter ctx 8 r.entry.seq⟩

/-- The word of a rim key as a command reads it: as it has read it before, else as it stands now; `y` says that it is one of y (R70, R73). -/
def State.unitWord (s : State) (by' : BankBy) (k : Nat) (y : Bool) : Word :=
  match tableGet none by'.seen (k / 8) with
  | some w => w
  | none => s.bankWord k by'.key by'.view by'.pushed y

/-- `n` words from an address inside one line, as a number, or the address that fails. -/
def State.bankWords (s : State) (ctx : Nat) (by' : BankBy) (va : Word) (n : Nat) (y : Bool) : Except Word Nat :=
  match s.bankKey ctx va with
  | none => .error va
  | some k => .ok (((List.range n).map (fun i => (s.unitWord by' (k + 8 * i) y).toNat)).foldr
      (fun x v => x + 18446744073709551616 * v) 0)

/-- The 2 KiB of a slot as a number, or the address that fails. -/
def State.slotBits (s : State) (ctx : Nat) (by' : BankBy) (base : Word) (t n : Nat) : Except Word Nat :=
  match n with
  | 0 => .ok 0
  | n + 1 =>
    match s.slotBits ctx by' base t n, s.bankWords ctx by' (slotLine base t n) 32 false with
    | .ok v, .ok x => .ok (v + x * 2 ^ (2048 * n))
    | .error a, _ => .error a
    | _, .error a => .error a

/-- The words of a slot that hold bits of it: the word's address. -/
def slotWordVa (base : Word) (t bit : Nat) : Word := slotLine base t (bit / 2048) + BitVec.ofNat 64 (bit % 2048 / 64 * 8)

/-- The first bits of the words that hold element `e` of a slot and its scale (R64). -/
def elementBits (wfmt e : Nat) : List Nat :=
  let w := fcBits (mfcFc wfmt)
  let a := w * e / 64 * 64
  let b := (w * e + w - 1) / 64 * 64
  let c := 8 * (1920 + e / 32) / 64 * 64
  (if a = b then [a] else [a, b]) ++ (if 5 ≤ wfmt then [c] else [])

/-- The words of a slot at some of its bits, as a number with every other bit zero, or the address that fails. -/
def State.slotSome (s : State) (ctx : Nat) (by' : BankBy) (base : Word) (t : Nat) (bits : List Nat) : Except Word Nat :=
  match bits with
  | [] => .ok 0
  | b :: r =>
    match s.bankWords ctx by' (slotWordVa base t b) 1 false, s.slotSome ctx by' base t r with
    | .ok v, .ok x => .ok (v * 2 ^ b + x)
    | .error a, _ => .error a
    | _, .error a => .error a

/-- The word of x with element `i`, and the element, a bf16 (R66). -/
def xWordVa (xaddr : Word) (i : Nat) : Word := (xaddr + BitVec.ofNat 64 (2 * i)) &&& ~~~7#64

def State.xElement (s : State) (ctx : Nat) (by' : BankBy) (xaddr : Word) (i : Nat) : Except Word Num :=
  match s.bankWords ctx by' (xWordVa xaddr i) 1 false with
  | .ok v => .ok (readNum 3 (v / 2 ^ (16 * (i % 4)) % 65536) 0#128 0)
  | .error a => .error a

/-- The elements of x from one on. -/
def State.xElements (s : State) (ctx : Nat) (by' : BankBy) (xaddr : Word) (i n : Nat) : Except Word (List Num) :=
  match n with
  | 0 => .ok []
  | n + 1 =>
    match s.xElement ctx by' xaddr i, s.xElements ctx by' xaddr (i + 1) n with
    | .ok x, .ok t => .ok (x :: t)
    | .error a, _ => .error a
    | _, .error a => .error a

/-- The table of read words with one more. -/
def State.sawWord (s : State) (ctx : Nat) (by' : BankBy) (y : Bool) (t : Table (Option Word)) (va : Word) : Table (Option Word) :=
  match s.bankKey ctx va with
  | some k => if (tableGet none t (k / 8)).isSome then t else tableSet none t (k / 8) (some (s.unitWord by' k y))
  | none => t

/-- The errors that stand in the lines of addresses are met (R75). -/
def State.meetVas (s : State) (ctx : Nat) (vas : List Word) : State :=
  vas.foldl (fun x va => x.meetVa (x.tile (x.ptid ctx)).tlb (x.job (jobOf ctx)).tenant va) s

/-- What an element of a command reads: words it reads again for other elements, those of y, and the 256-byte lines, each where the first
element that needs it is computed. -/
structure BankReads where
  words : List Word := []
  ywords : List Word := []
  lines : List Word := []

/-! ### Arithmetic (R68) -/

/-- A partial sum: its fp32 code where a term was present, its count, and the flags so far. -/
structure Partial where
  val : Option Nat := none
  cnt : Nat := 0
  flags : Flags := 0#6
deriving DecidableEq, Repr

/-- Add the exact sum of present terms to a partial with one rounding. -/
def Partial.add (p : Partial) (ts : List (Num × Num)) : Partial :=
  match presentTerms ts with
  | [] => p
  | ps =>
    let b := sumNums 0 (ps.map (·.1))
    let r := fp32.sum 0 ((match p.val with | some o => [(fp32.read o, 0#6)] | none => []) ++ [b])
    { val := some r.1, cnt := p.cnt + ps.length, flags := ps.foldl (fun f t => f ||| t.2) (p.flags ||| r.2) }

/-- Add another partial with one rounding; one of count 0 is an identity. -/
def Partial.join (p q : Partial) : Partial :=
  match p.val, q.val with
  | none, _ => { q with cnt := p.cnt + q.cnt, flags := p.flags ||| q.flags }
  | _, none => { p with cnt := p.cnt + q.cnt, flags := p.flags ||| q.flags }
  | some x, some y =>
    let r := fp32.sum 0 [(fp32.read x, 0#6), (fp32.read y, 0#6)]
    { val := some r.1, cnt := p.cnt + q.cnt, flags := p.flags ||| q.flags ||| r.2 }

/-- A segment's partial: terms one by one, MX terms a block at a time. -/
def segPartial (wfmt : Nat) (ts : List (Num × Num)) : Partial :=
  (groupsOf (ts.length + 1) (if 5 ≤ wfmt then 32 else 1) ts).foldl Partial.add {}

/-- The shape of a matrix-vector command. -/
structure BankMv where
  waddr : Word
  xaddr : Word
  wfmt : Nat
  m : Nat
  k : Nat

/-- A padding weight of BMV as it meets +0: any NaN is invalid (R65). -/
def padWeight (x : Num) : Num := if x.isNan then .nan true else x

/-- The segment of row `r` of W against x: past column K − 1 a padding weight meets +0 (R65, R68). -/
def State.rowPartial (s : State) (ctx : Nat) (by' : BankBy) (c : BankMv) (r seg : Nat) : Except Word Partial :=
  let p := segElements c.wfmt
  match s.slotBits ctx by' c.waddr (r * segCount c.wfmt c.k + seg) 8, s.xElements ctx by' c.xaddr (seg * p) (Nat.min p (c.k - seg * p)) with
  | .ok bits, .ok xs =>
    .ok (segPartial c.wfmt ((List.range p).map (fun e =>
      if seg * p + e < c.k then (slotElement c.wfmt bits e, xs.getD e (.fin false 0 0))
      else (padWeight (slotElement c.wfmt bits e), .fin false 0 0))))
  | .error a, _ => .error a
  | _, .error a => .error a

/-- y element `r` of BMV: segments in increasing order. -/
def State.bmvElement (s : State) (ctx : Nat) (by' : BankBy) (c : BankMv) (r n : Nat) : Except Word Partial :=
  match n with
  | 0 => .ok {}
  | n + 1 =>
    match s.bmvElement ctx by' c r n, s.rowPartial ctx by' c r n with
    | .ok p, .ok q => .ok (p.join q)
    | .error a, _ => .error a
    | _, .error a => .error a

/-- y element `j` of BMVT: rows in increasing order. -/
def State.bmvtElement (s : State) (ctx : Nat) (by' : BankBy) (c : BankMv) (j n : Nat) : Except Word Partial :=
  match n with
  | 0 => .ok {}
  | n + 1 =>
    match s.bmvtElement ctx by' c j n,
        s.slotSome ctx by' c.waddr (n * segCount c.wfmt c.k + j / segElements c.wfmt) (elementBits c.wfmt (j % segElements c.wfmt)),
        s.xElement ctx by' c.xaddr n with
    | .ok p, .ok bits, .ok x => .ok (p.join (Partial.add {} [(slotElement c.wfmt bits (j % segElements c.wfmt), x)]))
    | .error a, _, _ => .error a
    | _, .error a, _ => .error a
    | _, _, .error a => .error a

/-! ### Results (R68, R420) -/

/-- Bytes of an element of y in memory. -/
def yWidth (ycnt : BitVec 1) : Nat := if ycnt = 1#1 then 8 else 4

/-- The previous y element as a partial (R68): without counts in memory the previous count is not known. A code that is present beside a
stored count of 0 is taken as present: the model's choice (log 61). -/
def prevPartial (ycnt : BitVec 1) (v : Nat) : Partial :=
  let x := reduceIn fp32 (v % 4294967296)
  let cnt := if ycnt = 1#1 then v / 4294967296 % 16777216 else 0
  if x.1 = fp32.absent then { cnt := cnt } else { val := some x.1, cnt := cnt, flags := x.2 }

/-- The code of an element of y, its count as stored, and its flags (R68, R420). -/
def Partial.result (p : Partial) : Nat × Nat × Flags :=
  (p.val.getD fp32.absent, Nat.min p.cnt 16777215, p.flags ||| flagIf (decide (16777215 < p.cnt)) fRange)

/-- A bank unit's write of a whole word of y, or of half a word at the end (R70, R74); none where the page no longer takes it. -/
def State.writeY (s : State) (ctx : Nat) (by' : BankBy) (va : Word) (w v : Nat) : Option State :=
  match s.bankKey ctx va with
  | none => none
  | some k => some ((((s.noteWrite (.rim k true) by'.writer true false).putNat (.rim k false) w v)).serve (.rim k false) w)

/-- A finished row for q9, with its row of counts (R420). -/
def resultRows (buf n : Nat) (ycnt : BitVec 1) : List Row :=
  let vals := (List.range 64).map (fun j => if j < n then buf / 2 ^ (32 * j) % 4294967296 else 4294967295)
  let cnts := (List.range 64).map (fun j => if j < n then buf / 2 ^ (2048 + 32 * j) % 4294967296 else 0)
  rowOf 32 vals :: (if ycnt = 1#1 then [rowOf 32 cnts] else [])

/-- The element after the last: a command ends with OK once its waiting rows are in q9. -/
def State.bankEnd (s : State) (ctx : Nat) (h : CmdHdr) (flags : Flags) (value : Nat) : State :=
  s.endRun ctx h 0 flags value 0

/-- Rows enter the context's q9 while it is hosted and has room (R422). -/
def State.offerBank (s : State) (ctx : Nat) (rows : List Row) : State × List Row :=
  if s.hosted ctx then
    let o := (s.ctx ctx).offer 9 rows
    (s.setCtx ctx o.1, o.2)
  else (s, rows)

/-- Rows of a command wait in the bank path for room in q9, and a gang that is not resident waits for them (R122, R422). -/
def State.bankWaits (s : State) (ctx : Nat) : State :=
  if s.inGang ctx .swapped then s.modGang (jobOf ctx) (s.gangNo ctx) (fun g => g.nowEligible s.ticks) else s

/-- One element of a result: into the row for q9, or to memory, where elements without counts are written two to a word (R70). `total` is
the number of elements and `value` VALUE at the end. -/
def State.bankPut (s : State) (ctx : Nat) (h : CmdHdr) (r : Running) (queue : Bool) (yaddr : Word) (ycnt : BitVec 1) (total value : Nat)
    (x : Nat × Nat × Flags) : State :=
  let flags := r.flags ||| x.2.2
  let last := decide (total ≤ r.done + r.count % 2 + 1)
  if queue then
    let buf := r.buf + x.1 * 2 ^ (32 * r.count) + x.2.1 * 2 ^ (2048 + 32 * r.count)
    let lastq := decide (total ≤ r.done + 1)
    if r.count + 1 = 64 ∨ lastq then
      let o := (s.progress (jobOf ctx)).offerBank ctx (r.rows ++ resultRows buf (r.count + 1) ycnt)
      if lastq && o.2.isEmpty then o.1.bankEnd ctx h flags value
      else (o.1.modRun ctx h (fun r => { r with done := r.done + 1, count := 0, buf := 0, rows := o.2, flags := flags })).bankWaits ctx
    else s.modRun ctx h (fun r => { r with done := r.done + 1, count := r.count + 1, buf := buf, flags := flags })
  else if ycnt = 0#1 && r.count == 0 && !last then
    s.modRun ctx h (fun r => { r with count := 1, buf := x.1, flags := flags })
  else
    let a := yaddr + BitVec.ofNat 64 (r.done * yWidth ycnt)
    let n := r.count + 1
    let v := if ycnt = 1#1 then x.1 + 4294967296 * x.2.1 else if r.count = 1 then r.buf + 4294967296 * x.1 else x.1
    match s.writeY ctx (r.bankBy ctx) a (n * yWidth ycnt) v with
    | none => s.endRun ctx h 6 r.flags r.done a.toNat
    | some s1 =>
      if last then (s1.progress (jobOf ctx)).bankEnd ctx h flags value
      else (s1.progress (jobOf ctx)).modRun ctx h (fun r => { r with done := r.done + n, count := 0, buf := 0, flags := flags })

/-- A global address of a field of a bank command (R419). -/
def bankVa (n shift : Nat) : Word := 0x8000000000000000#64 + BitVec.ofNat 64 (n * 2 ^ shift)

/-! ### The order at the units (R69) -/

/-- The addresses of the elements of y from one on. -/
def yVas (yaddr : BitVec 41) (ycnt : BitVec 1) (from' n : Nat) : List Word :=
  (List.range n).map (fun j => bankVa yaddr.toNat 8 + BitVec.ofNat 64 ((from' + j) * yWidth ycnt))

/-- The addresses of the slots a command needs from one of its elements on, `n` elements long, and of those elements where y is in memory. -/
def unitVas (i : Instr) (from' n : Nat) : List Word :=
  match i with
  | .bmv _ waddr _ yaddr _ k wfmt _ yq ycnt =>
    let segs := segCount wfmt.toNat k.toNat
    (List.range (n * segs)).map (fun t => slotLine (bankVa waddr.toNat 16) (from' * segs + t) 0)
      ++ (if yq = 1#1 then [] else yVas yaddr ycnt from' n)
  | .bmvt _ waddr _ yaddr m k wfmt _ yq ycnt =>
    let p := segElements wfmt.toNat
    let segs := segCount wfmt.toNat k.toNat
    (List.range m.toNat).flatMap (fun r => (List.range ((from' + n - 1) / p + 1 - from' / p)).map (fun g =>
      slotLine (bankVa waddr.toNat 16) (r * segs + from' / p + g) 0))
      ++ (if yq = 1#1 then [] else yVas yaddr ycnt from' n)
  | .bread _ yaddr _ ycnt => yVas yaddr ycnt from' n
  | .bzero _ yaddr _ ycnt => yVas yaddr ycnt from' n
  | _ => []

/-- Elements of the result of a bank command. -/
def bankTotal (i : Instr) : Nat :=
  match i with
  | .bmv _ _ _ _ m _ _ _ _ _ => m.toNat
  | .bmvt _ _ _ _ _ k _ _ _ _ => k.toNat
  | .bread _ _ n _ => n.toNat
  | .bzero _ _ n _ => n.toNat
  | _ => 0

/-- The bank units at addresses, by stack and line (R63). -/
def State.unitsAt (s : State) (ctx : Nat) (vas : List Word) : List Nat :=
  vas.filterMap (fun va => (s.bankKey ctx va).map (fun k => stackOfKey k * 32 + lineOfKey k % 32))

/-- The commands that reached the units before one and have not computed all their elements, with their contexts. -/
def State.bankBefore (s : State) (order : Nat) : List (Nat × Running × Instr) :=
  s.ctxs.flatMap (fun p => (p.2.running.filter (fun r => r.queue == 8 && decide (r.order < order))).filterMap (fun r =>
    let i := s.entryInstr p.1 8 r.entry
    if r.done < bankTotal i ∧ r.failed = none then some (p.1, r, i) else none))

/-- A unit that element `i` of a command needs still serves an earlier command (R69; log 43). -/
def State.bankBusy (s : State) (ctx : Nat) (r : Running) (i : Nat) : Bool :=
  match s.bankBefore r.order with
  | [] => false
  | es =>
    let mine := s.unitsAt ctx (unitVas (s.entryInstr ctx 8 r.entry) i 1)
    es.any (fun e => (s.unitsAt e.1 (unitVas e.2.2 e.2.1.done (bankTotal e.2.2 - e.2.1.done))).any (fun u => mine.contains u))

/-- The word of y with element `i`. -/
def yWordVa (yaddr : Word) (ycnt : BitVec 1) (i : Nat) : Word := (yaddr + BitVec.ofNat 64 (i * yWidth ycnt)) &&& ~~~7#64

/-- A word of an element that a JCLOSE has locked (R210): of what it reads, and of y in memory. -/
def State.bankLocked (s : State) (ctx : Nat) (k : BankReads) (y : List Word) : Bool :=
  s.anyLocked && ((k.words ++ k.ywords ++ y).any (fun va => match s.bankKey ctx va with | some a => s.lockedFor 0 (.rim a true) 8 | none => false)
    || k.lines.any (fun va => match s.bankKey ctx va with | some a => s.lockedFor 0 (.rim a true) 256 | none => false))

/-- A bank command that computes no more elements gives its rows to q9 and then completes: with OK, or with BANK_ERROR at an address (R72, R422). -/
def State.bankClose (s : State) (ctx : Nat) (h : CmdHdr) (r : Running) (value : Nat) : State :=
  let o := s.offerBank ctx r.rows
  if o.2.isEmpty then
    (match r.failed with
     | none => o.1.bankEnd ctx h r.flags value
     | some va => o.1.endRun ctx h 6 r.flags r.done va.toNat)
  else (o.1.modRun ctx h (fun r => { r with rows := o.2 })).bankWaits ctx

/-- A bank command starts or goes on: `checks` are the page checks at its start, `total` its elements, `value` its VALUE, `reads` what an
element reads, whose lines are charged, and `element` computes one. -/
def State.bankRun (s : State) (h : CmdHdr) (alone queue : Bool) (yaddr : Word) (ycnt : BitVec 1) (total value : Nat)
    (checks : State → Option (Nat × Word)) (reads : Nat → BankReads) (element : State → BankBy → Nat → Except Word Partial) : State :=
  let ctx := s.focus
  let isNew := ((s.ctx ctx).findRun h).isNone
  match s.started ctx h (fun c => !alone || (c.inProgress 8).isEmpty) (fun r => { r with order := s.bankSeq }) with
  | none => s
  | some (s0, r) =>
    match (if isNew then checks s0 else none) with
    | some (status, va) => s0.endRun ctx h status 0#6 0 va.toNat
    | none =>
      let s1 := if isNew then { s0 with bankSeq := s0.bankSeq + 1 } else s0
      let i := if queue then r.done else r.done + r.count
      if total ≤ r.done ∨ r.failed.isSome then s1.bankClose ctx h r value
      else if s1.bankBusy ctx r i then
        let o := s1.offerBank ctx r.rows
        o.1.modRun ctx h (fun r => { r with rows := o.2 })
      else if s1.bankLocked ctx (reads i) (if queue then [] else [yWordVa yaddr ycnt i]) then s1
      else
        let by' := r.bankBy ctx
        let k := reads i
        let s2 := (s1.charge ctx (90 * k.lines.length)).bump
        match element s1 by' i with
        | .error va =>
          ((s2.meetVas ctx [va]).modRun ctx h (fun r => { r with failed := some va })).bankClose ctx h { r with failed := some va } value
        | .ok p =>
          let seen := k.ywords.foldl (s1.sawWord ctx by' true) (k.words.foldl (s1.sawWord ctx by' false) r.seen)
          ((s2.meetVas ctx k.lines).modRun ctx h (fun r => { r with seen := seen })).bankPut ctx h r queue yaddr ycnt total value p.result

/-- The lines of `n` bytes from an address up. -/
def byteLines (va : Word) (n : Nat) : List Word := (List.range ((n + 255) / 256)).map (fun i => va + BitVec.ofNat 64 (256 * i))

/-- The line of element `i` of y where the element is the line's first. -/
def yLine (yaddr : Word) (ycnt : BitVec 1) (i : Nat) : List Word :=
  if i * yWidth ycnt % 256 = 0 then [yaddr + BitVec.ofNat 64 (i * yWidth ycnt)] else []

/-- The previous element of y is added last in the += form (R68). Where it is present and counts are not kept in memory, a result without a
present term is that element: its previous count is not known (R420; log 43). -/
def State.withPrev (s : State) (ctx : Nat) (by' : BankBy) (acc ycnt : BitVec 1) (yaddr : Word) (i : Nat) (p : Except Word Partial) :
    Except Word Partial :=
  if acc = 0#1 then p
  else
    match p, s.bankWords ctx by' (yWordVa yaddr ycnt i) 1 true with
    | .ok q, .ok v =>
      let u := prevPartial ycnt (if ycnt = 1#1 then v else v / 2 ^ (32 * (i % 2)) % 4294967296)
      .ok (u.join q)
    | .error a, _ => .error a
    | _, .error a => .error a

/-- BMV and BMVT: the page checks (R71). -/
def State.mvChecks (s : State) (ctx : Nat) (c : BankMv) (xlen ylen : Nat) (yaddr : Word) (acc yq ycnt : BitVec 1) : Option (Nat × Word) :=
  ((s.pagesFail ctx (.weights c.wfmt) c.waddr ((c.m * segCount c.wfmt c.k + 31) / 32 * 65536)).orElse
    (fun _ => s.pagesFail ctx .input c.xaddr (2 * xlen))).orElse
    (fun _ => if yq = 1#1 then none else s.pagesFail ctx (.result (acc == 1#1) true) yaddr (ylen * yWidth ycnt))

/-- What element `i` of BMV reads: its row's slots once, and x, which the first element brings in (R69, R70). -/
def bmvReads (c : BankMv) (y : Word) (acc ycnt : BitVec 1) (i : Nat) : BankReads :=
  let segs := segCount c.wfmt c.k
  { words := if i = 0 then (List.range ((2 * c.k + 7) / 8)).map (fun n => c.xaddr + BitVec.ofNat 64 (8 * n)) else []
    ywords := if acc = 1#1 then [yWordVa y ycnt i] else []
    lines := (List.range (8 * segs)).map (fun n => slotLine c.waddr (i * segs + n / 8) (n % 8))
      ++ (if i = 0 then byteLines c.xaddr (2 * c.k) else []) ++ (if acc = 1#1 then yLine y ycnt i else []) }

/-- What element `j` of BMVT reads: its words of every row; a slot's lines are read with its first element, x with the first of all. -/
def bmvtReads (c : BankMv) (y : Word) (acc ycnt : BitVec 1) (j : Nat) : BankReads :=
  let segs := segCount c.wfmt c.k
  let p := segElements c.wfmt
  { words := (List.range c.m).flatMap (fun r => (elementBits c.wfmt (j % p)).map (slotWordVa c.waddr (r * segs + j / p)))
      ++ (if j = 0 then (List.range ((2 * c.m + 7) / 8)).map (fun n => c.xaddr + BitVec.ofNat 64 (8 * n)) else [])
    ywords := if acc = 1#1 then [yWordVa y ycnt j] else []
    lines := (if j % p = 0 then (List.range c.m).flatMap (fun r => (List.range 8).map (slotLine c.waddr (r * segs + j / p))) else [])
      ++ (if j = 0 then byteLines c.xaddr (2 * c.m) else []) ++ (if acc = 1#1 then yLine y ycnt j else []) }

/-- BMV (R68, R419): y := W·x or y += W·x. -/
def execBmv (h : CmdHdr) (waddr : BitVec 33) (xaddr yaddr : BitVec 41) (m k : BitVec 15) (wfmt : BitVec 4) (acc yq ycnt : BitVec 1)
    (s : State) : Host.Outcome State Fault Refusal :=
  let c : BankMv := ⟨bankVa waddr.toNat 16, bankVa xaddr.toNat 8, wfmt.toNat, m.toNat, k.toNat⟩
  let y := bankVa yaddr.toNat 8
  let segs := segCount c.wfmt c.k
  .next (s.bankRun h false (yq == 1#1) y ycnt c.m (8 * c.m * segs) (fun x => x.mvChecks s.focus c c.k c.m y acc yq ycnt)
    (bmvReads c y acc ycnt) (fun x by' i => x.withPrev s.focus by' acc ycnt y i (x.bmvElement s.focus by' c i segs)))

/-- BMVT (R68, R419): y := Wᵀ·x or y += Wᵀ·x. -/
def execBmvt (h : CmdHdr) (waddr : BitVec 33) (xaddr yaddr : BitVec 41) (m k : BitVec 15) (wfmt : BitVec 4) (acc yq ycnt : BitVec 1)
    (s : State) : Host.Outcome State Fault Refusal :=
  let c : BankMv := ⟨bankVa waddr.toNat 16, bankVa xaddr.toNat 8, wfmt.toNat, m.toNat, k.toNat⟩
  let y := bankVa yaddr.toNat 8
  let segs := segCount c.wfmt c.k
  .next (s.bankRun h false (yq == 1#1) y ycnt c.k (8 * c.m * segs) (fun x => x.mvChecks s.focus c c.m c.k y acc yq ycnt)
    (bmvtReads c y acc ycnt) (fun x by' i => x.withPrev s.focus by' acc ycnt y i (x.bmvtElement s.focus by' c i c.m)))

/-- BREAD (R421): y through the bank units into q9. -/
def execBread (h : CmdHdr) (yaddr : BitVec 41) (n : BitVec 15) (ycnt : BitVec 1) (s : State) : Host.Outcome State Fault Refusal :=
  let y := bankVa yaddr.toNat 8
  .next (s.bankRun h true true y ycnt n.toNat n.toNat
    (fun x => x.pagesFail s.focus (.result true false) y (n.toNat * yWidth ycnt))
    (fun i => { ywords := [yWordVa y ycnt i], lines := yLine y ycnt i })
    (fun x by' i =>
      match x.bankWords s.focus by' (yWordVa y ycnt i) 1 true with
      | .error a => .error a
      | .ok v =>
        .ok { val := some ((if ycnt = 1#1 then v else v / 2 ^ (32 * (i % 2))) % 4294967296),
              cnt := if ycnt = 1#1 then v / 4294967296 % 16777216 else 0 }))

/-- BZERO (R421): the absent code, and count 0. -/
def execBzero (h : CmdHdr) (yaddr : BitVec 41) (n : BitVec 15) (ycnt : BitVec 1) (s : State) : Host.Outcome State Fault Refusal :=
  let y := bankVa yaddr.toNat 8
  .next (s.bankRun h true false y ycnt n.toNat n.toNat
    (fun x => x.pagesFail s.focus (.result false true) y (n.toNat * yWidth ycnt)) (fun _ => {}) (fun _ _ _ => .ok {}))

/-! ### MARK, CNOP and BADCMD (R293, R423) -/

/-- MARK (R423): it leaves the head, and completes when no command before it is in progress. -/
def execMark (h : CmdHdr) (s : State) : Host.Outcome State Fault Refusal :=
  let ctx := s.focus
  match s.started ctx h (fun _ => true) id with
  | none => .next s
  | some (s1, _) =>
    if (s1.ctx ctx).running.any (fun r => r.queue == h.queue.toNat && decide (r.entry.seq < h.seq)) then .next s1
    else .next (s1.endRun ctx h 0 0#6 0 0)

/-- CNOP (R170, R423). -/
def execCnop (h : CmdHdr) (s : State) : Host.Outcome State Fault Refusal :=
  let ctx := s.focus
  match s.started ctx h (fun c => c.inOrder h.queue.toNat) id with
  | none => .next s
  | some (s1, _) => .next (s1.endRun ctx h 0 0#6 0 0)

/-- BADCMD (R170, R293, R398): the command completes at its queue head with no other effect. -/
def execBadcmd (h : CmdHdr) (detail : BitVec 8) (s : State) : Host.Outcome State Fault Refusal :=
  let ctx := s.focus
  match s.started ctx h (fun c => c.inOrder h.queue.toNat) id with
  | none => .next s
  | some (s1, _) => .next ((s1.modCtx ctx (fun c => c.passTruss h.queue.toNat h)).endRun ctx h 1 0#6 0 detail.toNat)

end Sys2Proof.Machine
end

