-- ==== Sys2Proof/Machine/Csr.lean ====
section
/-! DEFINITION. Control and status registers (R180, R181, R212, R216, R258, R273, R314, R334, R335). -/

namespace Sys2Proof.Machine

/-- JSTAT of a joint (R212). -/
def Joint.stat (j : Joint) : Word :=
  BitVec.ofNat 64 ((if j.isOpen then 1 else 0) + (if j.commit then 2 else 0) + 4 * j.code.toNat + 64 * j.words.length)

/-- TSTAT (R216). -/
def TrapRegs.tstat (t : TrapRegs) : Word :=
  BitVec.ofNat 64 (t.sstats.toNat + 65536 * t.lact.toNat + (if t.ha then 16777216 else 0))

/-- INBOX (R181). -/
def Ctx.inboxCsr (c : Ctx) : Word := BitVec.ofNat 64 ((List.range 8).foldl (fun v i => v + c.fill i * 256 ^ i) 0)

/-- A guard slot as GUARDS shows it (R181). -/
def Guard.bits (g : Guard) : Nat :=
  match g with
  | .unresolved => 0
  | .isFalse => 1
  | .isTrue => 2

/-- GUARDS (R181). -/
def Ctx.guardsCsr (c : Ctx) : Word :=
  BitVec.ofNat 64 ((List.range 8).foldl (fun v i => v + (tableGet Guard.unresolved c.guards i).bits * 4 ^ i) 0)

/-- The value of a CSR for a strand, none for a number R180 does not list. -/
def State.readCsr (s : State) (key num : Nat) : Option Word :=
  let st := s.strand key
  let c := ctxOf key
  let x := s.ctx c
  let j := s.job (jobOf c)
  match num with
  | 0x000 => some (zext (s.sstat key))
  | 0x001 => some st.trap.tvec
  | 0x002 => some st.trap.tpc
  | 0x003 => some (zext st.trap.tcause)
  | 0x004 => some st.trap.tval
  | 0x005 => some st.trap.tstat
  | 0x008 => some (zext st.fflags)
  | 0x009 => some (zext st.frm)
  | 0x00A => some (zext st.fen)
  | 0x010 => some (BitVec.ofNat 64 (vtidOf c))
  | 0x011 => some (BitVec.ofNat 64 (s.ptid c))
  | 0x012 => some (BitVec.ofNat 64 (stridOf key))
  | 0x013 => some (BitVec.ofNat 64 (s.gangNo c))
  | 0x014 => some (BitVec.ofNat 64 j.size)
  | 0x015 => some (BitVec.ofNat 64 (recX j.record))
  | 0x016 => some (BitVec.ofNat 64 (recY j.record))
  | 0x017 => some x.turns
  | 0x018 => some (zext s.sched.eff.turnlen)
  | 0x020 => some st.loops.lb0
  | 0x021 => some st.loops.le0
  | 0x022 => some st.loops.lc0
  | 0x023 => some st.loops.lb1
  | 0x024 => some st.loops.le1
  | 0x025 => some st.loops.lc1
  | 0x026 => some (zext st.lstat)
  | 0x028 => some st.shadow.lb0
  | 0x029 => some st.shadow.le0
  | 0x02A => some st.shadow.lc0
  | 0x02B => some st.shadow.lb1
  | 0x02C => some st.shadow.le1
  | 0x02D => some st.shadow.lc1
  | 0x030 => some (zext x.mcb)
  | 0x031 => some x.inboxCsr
  | 0x040 => some (zext x.ashape)
  | 0x041 => some (zext (s.tile (s.ptid c)).ric)
  | 0x050 => some (fieldAt 0 64 x.tbl4)
  | 0x051 => some (fieldAt 64 64 x.tbl4)
  | 0x060 => some (BitVec.ofNat 64 (s.gangOf c).shown)
  | 0x061 => some (boolWord (s.gangOf c).shownSat)
  | 0x070 => some st.spbase
  | 0x071 => some st.splim
  | 0x072 => some st.spovf
  | 0x080 => some x.guardsCsr
  | 0x081 => some st.joint.stat
  | 0x0F0 => some (BitVec.ofNat 64 s.time)
  | _ => none

/-- An address register: bits [1:0] read zero and ignore writes (R335). -/
def alignWord (x : Word) : Word := x &&& ~~~3#64

/-- The RW fields of a strand's CSR take new bits; every other number leaves the strand as it is (R180, R335). -/
def Strand.writeCsr (st : Strand) (num : Nat) (x : Word) : Strand :=
  match num with
  | 0x001 => { st with trap := { st.trap with tvec := alignWord x } }
  | 0x002 => { st with trap := { st.trap with tpc := alignWord x } }
  | 0x003 => { st with trap := { st.trap with tcause := fieldAt 0 7 x } }
  | 0x004 => { st with trap := { st.trap with tval := x } }
  | 0x005 => { st with trap := { st.trap with sstats := fieldAt 0 15 x, lact := fieldAt 16 2 x, ha := bitAt 24 x } }
  | 0x008 => { st with fflags := fieldAt 0 6 x }
  | 0x009 => { st with frm := fieldAt 0 2 x }
  | 0x00A => { st with fen := fieldAt 0 6 x }
  | 0x020 => { st with loops := { st.loops with lb0 := alignWord x } }
  | 0x021 => { st with loops := { st.loops with le0 := alignWord x } }
  | 0x022 => { st with loops := { st.loops with lc0 := x } }
  | 0x023 => { st with loops := { st.loops with lb1 := alignWord x } }
  | 0x024 => { st with loops := { st.loops with le1 := alignWord x } }
  | 0x025 => { st with loops := { st.loops with lc1 := x } }
  | 0x026 => { st with lstat := fieldAt 0 2 x }
  | 0x028 => { st with shadow := { st.shadow with lb0 := alignWord x } }
  | 0x029 => { st with shadow := { st.shadow with le0 := alignWord x } }
  | 0x02A => { st with shadow := { st.shadow with lc0 := x } }
  | 0x02B => { st with shadow := { st.shadow with lb1 := alignWord x } }
  | 0x02C => { st with shadow := { st.shadow with le1 := alignWord x } }
  | 0x02D => { st with shadow := { st.shadow with lc1 := x } }
  | _ => st

/-- Is the CSR one a write of a strand can change (R180)? -/
def csrWritable (num : Nat) : Bool :=
  (decide (0x001 ≤ num) && decide (num ≤ 0x005)) || (decide (0x008 ≤ num) && decide (num ≤ 0x00A))
    || (decide (0x020 ≤ num) && decide (num ≤ 0x026)) || (decide (0x028 ≤ num) && decide (num ≤ 0x02D)) || num == 0x030 || num == 0x040

/-- Strands of a context that wait in RECV or RECVH for a class that is no longer bound to them trap (R353). -/
def State.recheckBinding (s : State) (key : Nat) : State :=
  (List.range 16).foldl (fun x i =>
    let k := strandKey (ctxOf key) i
    match (x.strand k).wait with
    | .recv c => if k ≠ key ∧ natAt (4 * c) 4 (x.ctx (ctxOf key)).mcb ≠ i then x.raise k 0x34 (BitVec.ofNat 64 c) else x
    | _ => x) s

/-- Write a CSR other than ASHAPE. -/
def State.writeCsr (s : State) (key num : Nat) (x : Word) : State :=
  if num = 0x030 then (s.modCtx (ctxOf key) (fun c => { c with mcb := fieldAt 0 32 x })).recheckBinding key
  else s.modStrand key (fun st => st.writeCsr num x)

/-! ### ASHAPE (R164, R168, R335) -/

/-- q0 is empty and no matrix command is in progress. -/
def Ctx.matrixIdle (c : Ctx) : Bool := (c.cmdList 0).isEmpty && (c.inProgress 0).isEmpty

/-- New bands: the deselected ones lose their latched weights in both buffers. -/
def Ctx.setAshape (c : Ctx) (bands : BitVec 4) : Ctx :=
  if bands = 0#4 then c
  else { c with
    ashape := bands
    wbuf := tableMap {} c.wbuf (fun _ w => { w with cols := w.cols.filter (fun p => bitAt (p.1 / 16) bands) }) }

/-- The old value and completion of a CSR form: the loop redirect is decided by the values before it (R318). -/
def State.csrDone (s : State) (key : Nat) (d : BitVec 5) (old : Word) (f : Strand → Strand) : State :=
  s.retireAfter key (fun st => (f st).setG d old)

/-- A write of ASHAPE by the current strand (R164, R181). One with BANDS = 0, which is ignored, does not wait for the engine: the model's choice
(log 63). -/
def State.writeAshape (s : State) (d : BitVec 5) (old x : Word) : State :=
  let c := s.ctx (ctxOf s.cur)
  let bands : BitVec 4 := fieldAt 0 4 x
  if c.lease.holder ≠ some (stridOf s.cur) then s.bump.trapP 0x41 s.openWord
  else if bands = 0#4 then s.csrDone s.cur d old id
  else if c.matrixIdle then (s.modCtx (ctxOf s.cur) (fun c => c.setAshape bands)).csrDone s.cur d old id
  else s.block s.cur .engwait (.ashape bands d)

/-- ASHAPE_WRITE (R164): a waiting write takes effect once the matrix engine is empty and idle. -/
def execAshapeWrite (s : State) : Host.Outcome State Fault Refusal :=
  let k := s.input.key
  match (s.strand k).wait with
  | .ashape bands d =>
    let c := s.ctx (ctxOf k)
    if c.matrixIdle then
      .next ((s.modCtx (ctxOf k) (fun c => c.setAshape bands)).csrDone k d (zext c.ashape) id)
    else .next s
  | _ => .next s

/-! ### CREG forms (R334) -/

/-- The strand has no long-latency operation and no relaxed access outstanding. -/
def Strand.settled (st : Strand) : Bool := !st.out.any (fun o => o.kind == .long || o.kind == .vector || o.kind == .relaxed)

/-- The class of that wait, after the kind of operation awaited (R147, R151). -/
def Strand.settleClass (st : Strand) : StrandState := if st.out.any (fun o => o.kind == .long || o.kind == .vector) then .engwait else .memwait

/-- A CREG form: `new` gives what is written, from the old value. -/
def State.creg (s : State) (d : BitVec 5) (c : BitVec 12) (new : Word → Option Word) : State :=
  match s.readCsr s.cur c.toNat with
  | none => s.trapP 0x01 (zext c)
  | some old =>
    if !s.me.settled then s.block s.cur s.me.settleClass .lookahead
    else match new old with
      | none => s.csrDone s.cur d old id
      | some x =>
        if c.toNat = 0x040 then s.writeAshape d old x
        else if c.toNat = 0x030 then (s.writeCsr s.cur 0x030 x).csrDone s.cur d old id
        else s.csrDone s.cur d old (fun st => st.writeCsr c.toNat x)

/-- CRD (R334). -/
def execCrd (d : BitVec 5) (c : BitVec 12) (s : State) : Host.Outcome State Fault Refusal :=
  .next (s.creg d c (fun _ => none))

/-- CWR (R334). -/
def execCwr (a : BitVec 5) (c : BitVec 12) (s : State) : Host.Outcome State Fault Refusal :=
  .next (s.creg 0#5 c (fun _ => some (s.me.rg a)))

/-- CINS (R334): value g(a) under mask g(a+1); a mask of 0 writes nothing. -/
def execCins (d : BitVec 5) (a : BitVec 4) (c : BitVec 12) (s : State) : Host.Outcome State Fault Refusal :=
  let v := s.me.rg (a ++ 0#1)
  let m := s.me.rg (a ++ 1#1)
  .next (s.creg d c (fun old => if m = 0#64 then none else some ((old &&& ~~~m) ||| (v &&& m))))

/-- CRDC (R334): every RW field is written 0. -/
def execCrdc (d : BitVec 5) (c : BitVec 12) (s : State) : Host.Outcome State Fault Refusal :=
  .next (s.creg d c (fun _ => some 0#64))

end Sys2Proof.Machine
end

