-- ==== Sys2Proof/Machine/Icache.lean ====
section
/-! DEFINITION. Published code and the instruction cache: the code sections (R303), fetching an instruction's bytes (R176, R182), fills,
and locks (R177, R178, R327). -/

namespace Sys2Proof.Machine

/-! ### Published objects (R303, R328) -/

/-- An address lies in a run of bytes of a published object, in global space. -/
def Published.within (p : Published) (tenant : Nat) (off n : Nat) (va : Word) : Bool :=
  p.tenant == tenant && isGlobal va && decide (p.base + off ≤ natAt 0 49 va) && decide (natAt 0 49 va < p.base + off + n)

/-- An address lies in the code section of a published object of a tenant: from byte 0x40 on (R302, R303). -/
def State.inCode (s : State) (tenant : Nat) (va : Word) : Bool := s.published.any (fun p => p.within tenant 0x40 p.codesz va)

/-- A line, named by its address divided by 256, lies in a published object of a tenant. -/
def State.inObject (s : State) (tenant line : Nat) : Bool :=
  s.published.any (fun p => p.tenant == tenant && decide (p.base ≤ line * 256) && decide (line * 256 < p.base + p.length))

/-! ### Lines (R176) -/

/-- Ways of a set, and sets (R176). -/
def icacheWays : Nat := 8
def icacheSet (line : Nat) : Nat := line % 128

/-- The address of the first byte of a line of global space. -/
def lineVa (line : Nat) : Word := 0x8000000000000000#64 + BitVec.ofNat 64 (line * 256)

def Tile.findLine (t : Tile) (tenant line : Nat) : Option CacheLine := t.icache.find? (fun l => l.tenant == tenant && l.addr == line)

/-- The least recently used of some lines. -/
def oldestLine (l : CacheLine) (ls : List CacheLine) : CacheLine := ls.foldl (fun m x => if x.used < m.used then x else m) l

/-- Replace the least recently used unlocked line of a full set (R176). At most 4 lines of a set are locked (R177); where a state has all 8
locked, one of them goes, so that a set never holds a ninth line. -/
def Tile.makeRoom (t : Tile) (set : Nat) : Tile :=
  let inSet := t.icache.filter (fun l => icacheSet l.addr == set)
  if inSet.length < icacheWays then t
  else match inSet.filter (fun l => !l.locked), inSet with
    | l :: ls, _ => { t with icache := t.icache.filter (fun x => x != oldestLine l ls) }
    | [], l :: ls => { t with icache := t.icache.filter (fun x => x != oldestLine l ls) }
    | [], [] => t

/-- A fill of a line with its bytes. -/
def Tile.fill (t : Tile) (tenant line : Nat) (bytes : BitVec 2048) (locked : Bool) (now : Nat) : Tile :=
  if (t.findLine tenant line).isSome then
    { t with icache := t.icache.map (fun l => if l.tenant = tenant ∧ l.addr = line then { l with locked := l.locked || locked, used := now } else l) }
  else
    let r := t.makeRoom (icacheSet line)
    { r with icache := r.icache ++ [⟨tenant, line, bytes, locked, now⟩] }

/-- The check of a fetch or a fill of a line (R182, R183, R189). -/
def State.lineAt (s : State) (ctx : Nat) (va : Word) : Resolved :=
  s.resolve ctx none { ex := true, size := 1, align := 1 } va

/-- Fill a line in the tile of a context, from memory; a line that does not translate is not filled. -/
def State.fillLine (s : State) (ctx line : Nat) (locked : Bool) : State :=
  match s.lineAt ctx (lineVa line) with
  | .at l tlb =>
    ((s.withTlb ctx tlb).meet l).modTile (s.ptid ctx) (fun t =>
      t.fill (s.job (jobOf ctx)).tenant line (BitVec.ofNat 2048 (s.readNat l 256)) locked s.cycle)
  | .fails _ _ => s

/-- Latency of a fill: a rim load plus 8 cc (R176), to which a walk adds its own (R190). -/
def State.fillLatency (s : State) (ctx : Nat) (l : Loc) : Nat := s.latency ctx l false + 8

/-! ### Fetch (R176, R182, R303) -/

/-- What a fetch comes to: the word, a trap, or a miss. -/
inductive Fetch where
  | word (s : State) (w : BitVec 32)
  | fails (cause : Nat)
  | misses (line lam : Nat)

/-- Fetch the instruction at an address for a context: first the code sections, then the translation with EX, then the cache (R182). -/
def State.fetch (s : State) (ctx : Nat) (pc : Word) : Fetch :=
  let tn := (s.job (jobOf ctx)).tenant
  if !s.inCode tn pc then .fails 0x04
  else if pc.toNat % 4 ≠ 0 then .fails 0x06
  else match s.lineAt ctx pc with
    | .fails cause _ => .fails cause
    | .at l tlb =>
      let line := natAt 0 49 pc / 256
      match (s.tile (s.ptid ctx)).findLine tn line with
      | some c =>
        .word ((s.withTlb ctx tlb).modTile (s.ptid ctx) (fun t => t.fill tn line 0#2048 false s.cycle))
          (fieldAt (pc.toNat % 256 * 8) 32 c.bytes)
      | none => .misses line (s.fillLatency ctx l + walkCost (s.tile (s.ptid ctx)).tlb tlb)

/-- The strand of a context whose fill of a line is under way: a later miss of the line waits for that fill (R176). -/
def State.filler (s : State) (ctx line : Nat) : Option Nat :=
  ((List.range 16).map (strandKey ctx)).find? (fun k => match (s.strand k).wait with | .icache ls => ls.contains line | _ => false)

/-- The cycle in which a line that a strand misses arrives. -/
def State.fillAt (s : State) (ctx line lam : Nat) : Nat :=
  match s.filler ctx line with
  | some k => (s.strand k).readyAt
  | none => s.cycle + lam

/-- The lines a strand waits for have arrived: they are filled, and it is ready (R176, R327). -/
def State.fillArrived (s : State) (key : Nat) : State :=
  match (s.strand key).wait with
  | .icache lines =>
    if (s.strand key).readyAt ≤ s.cycle then
      (lines.foldl (fun x n => x.fillLine (ctxOf key) n false) s).modStrand key (fun x => { x with state := .ready, wait := .none })
    else s
  | _ => s

/-- ICACHE_FILL (R176, R327). -/
def execIcacheFill (s : State) : Host.Outcome State Fault Refusal := .next (s.fillArrived s.input.key)

/-! ### Locks (R177, R327) -/

/-- The lines that overlap `n` bytes from an address up; an address outside global space overlaps none. -/
def linesOf (va : Word) (n : Nat) : List Nat :=
  if n = 0 then [] else
  let a := natAt 0 49 va / 256
  (List.range ((natAt 0 49 va + n - 1) / 256 + 1 - a)).map (fun i => a + i)

/-- The lock list with more lines, without repeats. -/
def addLocks (locks new : List Nat) : List Nat := locks ++ new.filter (fun x => !locks.contains x)

/-- The limits of R177: 64 KiB in the context, 4 lines in a set. -/
def locksFit (locks : List Nat) : Bool :=
  decide (locks.length ≤ 256) && (List.range 128).all (fun i => decide ((locks.filter (fun l => icacheSet l == i)).length ≤ 4))

/-- Lock lines in the tile of a context. -/
def State.lockLines (s : State) (ctx : Nat) (lines : List Nat) : State :=
  s.modTile (s.ptid ctx) (fun t => { t with icache := t.icache.map (fun l =>
    if l.tenant = (s.job (jobOf ctx)).tenant ∧ lines.contains l.addr then { l with locked := true } else l) })

/-- ILOCK (R327): lines not present are filled first; the locks take effect together. -/
def execIlock (d a b : BitVec 5) (s : State) : Host.Outcome State Fault Refusal :=
  let c := ctxOf s.cur
  let tn := (s.job (jobOf c)).tenant
  let va := s.me.rg a
  let n := (s.me.rg b).toNat
  if n = 0 then .next (s.writeG d 1#64)
  else if !isGlobal va || decide (66048 < n) then .next (s.writeG d 0#64)
  else
    let lines := linesOf va n
    let locks := addLocks (s.ctx c).locks lines
    if !lines.all (fun l => s.inObject tn l) || !locksFit locks then .next (s.writeG d 0#64)
    else
      match lines.filter (fun l => ((s.tile (s.ptid c)).findLine tn l).isNone) with
      | [] => .next (((s.modCtx c (fun x => { x with locks := locks })).lockLines c lines).writeG d 1#64)
      | m :: ms =>
        match s.lineAt c (lineVa m) with
        | .fails cause tv => .next (s.trapP cause tv)
        | .at l tlb =>
          let lam := s.fillLatency c l + walkCost (s.tile (s.ptid c)).tlb tlb
          .next ((s.block s.cur .memwait (.icache (m :: ms))).modStrand s.cur (fun st =>
            { st with readyAt := (m :: ms).foldl (fun t n => Nat.max t (s.fillAt c n lam)) 0 }))

/-- IUNLOCK (R327). -/
def execIunlock (a b : BitVec 5) (s : State) : Host.Outcome State Fault Refusal :=
  let c := ctxOf s.cur
  let va := s.me.rg a
  let n := (s.me.rg b).toNat
  let hit := fun (l : Nat) => isGlobal va && decide (0 < n) && decide (l * 256 < natAt 0 49 va + n) && decide (natAt 0 49 va < l * 256 + 256)
  .next (((s.modCtx c (fun x => { x with locks := x.locks.filter (fun l => !hit l) })).modTile (s.ptid c) (fun t =>
    { t with icache := t.icache.map (fun l => if l.tenant = (s.job (jobOf c)).tenant ∧ hit l.addr then { l with locked := false } else l) })).retireWith
      s.cur id)

end Sys2Proof.Machine
end

