-- ==== Sys2Proof/Machine/Queue.lean ====
section
/-! DEFINITION. Queue registers, the matrix lease and guards: ENQ, DEQ, QSTAT, LEASE, LEASEF, GSET, GCLR (R159–R168, R356–R360). -/

namespace Sys2Proof.Machine

/-! ### The matrix lease (R168) -/

/-- The strands after the previous holder, round the context (R168). -/
def afterHolder (last : Nat) : List Nat := (List.range 16).map (fun k => (last + 1 + k) % 16)

/-- The lease passes to a strand with a new term, and its wait ends. -/
def Lease.grant (_l : Lease) (i : Nat) (waiters : BitVec 16) : Lease :=
  { holder := some i, pushes := 0, waiters := waiters &&& ~~~(1#16 <<< i), last := i }

/-- A term ends (R168): the next waiting strand has the lease; with none, the holder keeps it with a new term where it may. -/
def Lease.endTerm (l : Lease) (keep : Bool) : Lease :=
  match (afterHolder l.last).find? (fun i => bitAt i l.waiters) with
  | some i => l.grant i l.waiters
  | none => if keep then { l with pushes := 0 } else { l with holder := none, pushes := 0 }

def State.modLease (s : State) (ctx : Nat) (f : Lease → Lease) : State := s.modCtx ctx (fun c => { c with lease := f c.lease })

/-- The strand holds the lease of its context. -/
def State.holdsLease (s : State) (key : Nat) : Bool := (s.ctx (ctxOf key)).lease.holder == some (stridOf key)

/-- The strand, where it holds the lease, ends its term (R168, R323). -/
def State.dropLease (s : State) (key : Nat) : State :=
  if s.holdsLease key then s.modLease (ctxOf key) (fun l => l.endTerm false) else s

/-- LEASE (R360): the lease if it is free, or a place among the waiters. -/
def execLease (s : State) : Host.Outcome State Fault Refusal :=
  let key := s.cur
  let l := (s.ctx (ctxOf key)).lease
  if l.holder = some (stridOf key) then .next (s.retireWith key id)
  else if l.holder = none then .next ((s.modLease (ctxOf key) (fun l => l.grant (stridOf key) l.waiters)).retireWith key id)
  else .next ((s.modLease (ctxOf key) (fun l => { l with waiters := l.waiters ||| (1#16 <<< stridOf key) })).block key .engwait .lease)

/-- LEASEF (R360). -/
def execLeasef (d : BitVec 5) (n : BitVec 1) (s : State) : Host.Outcome State Fault Refusal :=
  let key := s.cur
  let l := (s.ctx (ctxOf key)).lease
  if n = 0#1 then
    if l.holder = some (stridOf key) then .next (s.writeG d 1#64)
    else if l.holder = none then .next ((s.modLease (ctxOf key) (fun l => l.grant (stridOf key) l.waiters)).writeG d 1#64)
    else .next (s.writeG d 0#64)
  else if l.holder = some (stridOf key) then .next ((s.dropLease key).writeG d 1#64)
  else .next (s.writeG d 0#64)

/-! ### Guards (R162, R163) -/

/-- The accesses of a strand that are not performed: what it has in flight, and the WAITs a trap has cancelled. -/
def State.accessesOf (s : State) (key : Nat) : List (Nat × Word × Nat) :=
  (((s.strand key).suspended ++ (s.strand key).out).filter OutOp.stuck).map (fun o => (key, o.pc, o.doneAt))

/-- Everything the strand did before is performed before it goes on (R194, R324, R330); none while an access must still wait. -/
def State.releaseThen (s : State) (key : Nat) (f : State → State) : State :=
  match s.settleAccesses key with
  | (s1, true) => f s1
  | (s1, false) => s1.block key .memwait .lookahead

/-- GSET (R163, R360): the commands it starts read memory after the strand's accesses are performed. -/
def execGset (a : BitVec 5) (n : BitVec 3) (s : State) : Host.Outcome State Fault Refusal :=
  let c := ctxOf s.cur
  let g := if s.me.rg a ≠ 0#64 then Guard.isTrue else Guard.isFalse
  if tableGet Guard.unresolved (s.ctx c).guards n.toNat ≠ .unresolved then .next (s.trapP 0x47 (zext n))
  else
    let s1 := s.force s.cur (fun _ => true)
    .next (((s1.modCtx c (fun x => { x with guards := tableSet Guard.unresolved x.guards n.toNat g
                                            guardAfter := tableSet [] x.guardAfter n.toNat (s1.accessesOf s.cur) })).settleHeads c).retireWith s.cur id)

/-- GCLR (R163, R360). -/
def execGclr (n : BitVec 3) (s : State) : Host.Outcome State Fault Refusal :=
  let c := ctxOf s.cur
  .next ((s.modCtx c (fun x => { x with guards := tableSet Guard.unresolved x.guards n.toNat Guard.unresolved })).retireWith s.cur id)

/-! ### Queues (R159, R160, R356–R359) -/

def isCommandQueue (q : Nat) : Bool := q == 0 || q == 4 || q == 5 || q == 6 || q == 8
def isPopQueue (q : Nat) : Bool := q == 3 || q == 7 || q == 9
def isRowQueue (q : Nat) : Bool := q == 1 || q == 2

/-- Four general registers as a command word (R291). -/
def Strand.commandAt (st : Strand) (a : BitVec 5) : BitVec 256 :=
  st.rg (a + 3#5) ++ st.rg (a + 2#5) ++ st.rg (a + 1#5) ++ st.rg a

/-- The operand checks of ENQ in their order (R357): cause and TVAL. -/
def State.enqFault (s : State) (q : BitVec 4) (a : BitVec 5) (g : BitVec 4) : Option (Nat × Word) :=
  let n := q.toNat
  if 10 ≤ n ∨ isPopQueue n then some (0x40, zext q)
  else if isCommandQueue n ∧ a.toNat % 4 ≠ 0 then some (0x40, zext q)
  else if isRowQueue n ∧ a.toNat < 16 then some (0x40, zext q)
  else if n ≤ 2 ∧ ¬ s.holdsLease s.cur then some (0x41, zext q)
  else if isRowQueue n ∧ g ≠ 0#4 then some (0x47, BitVec.ofNat 64 (natAt 0 3 g))
  else none

/-- The push of a command: its peg's reference, its place in the queue, the lease term, and the head that may now meet its guard. -/
def State.pushCommand (s : State) (q : Nat) (w : BitVec 256) (g : BitVec 4) : State :=
  let c := ctxOf s.cur
  let h := cmdHdrOf (BitVec.ofNat 4 q) (BitVec.ofNat 4 (stridOf s.cur)) 0 w
  let counted := h.peg && (s.ctx c).validPeg h.pegIdx h.pegGen
  let e : CmdEntry := { word := w, guard := if g = 0#4 then none else some (fieldAt 0 3 g), issuer := h.issuer, seq := (s.ctx c).pushSeq,
                        counted := counted, pushedAt := s.cycle, view := s.viewOf s.cur, after := s.accessesOf s.cur }
  let s1 := s.modCtx c (fun x =>
    let x1 := if counted then x.setPeg h.pegIdx.toNat { x.peg h.pegIdx.toNat with refs := (x.peg h.pegIdx.toNat).refs + 1 } else x
    { x1.setCmds q (x1.cmdList q ++ [e]) with pushSeq := x1.pushSeq + 1 })
  let s2 := if q = 0 then
      s1.modLease c (fun l => if l.pushes + 1 = 64 then { l with pushes := 64 }.endTerm true else { l with pushes := l.pushes + 1 })
    else s1
  s2.settleHead c q 17

/-- ENQ (R198, R357): a command reads memory after the accesses its push releases are performed. -/
def execEnq (q : BitVec 4) (a : BitVec 5) (g : BitVec 4) (s : State) : Host.Outcome State Fault Refusal :=
  let key := s.cur
  let n := q.toNat
  let c := s.ctx (ctxOf key)
  match s.enqFault q a g with
  | some (cause, tval) => .next (s.trapP cause tval)
  | none =>
    if isRowQueue n then
      if queueDepth n ≤ (c.rowList n).length then .next (s.block key .engwait (.push n))
      else .next ((s.modCtx (ctxOf key) (fun x => x.setRows n (x.rowList n ++ [s.me.rv (fieldAt 0 4 a)]))).retireWith key id)
    else if queueDepth n ≤ (c.cmdList n).length then .next (s.block key .engwait (.push n))
    else .next (((s.force key (fun _ => true)).pushCommand n (s.me.commandAt a) g).retireWith key id)

/-- DEQ (R358). -/
def execDeq (q : BitVec 4) (a : BitVec 5) (s : State) : Host.Outcome State Fault Refusal :=
  let key := s.cur
  let n := q.toNat
  if ¬ isPopQueue n ∨ a.toNat < 16 then .next (s.trapP 0x40 (zext q))
  else match (s.ctx (ctxOf key)).rowList n with
    | [] => .next (s.block key .engwait (.pop n))
    | r :: t => .next ((s.modCtx (ctxOf key) (fun x => x.setRows n t)).retireWith key (fun st => st.setV (fieldAt 0 4 a) r))

/-- What QSTAT returns of a queue (R359). -/
def Ctx.queueState (c : Ctx) (q : Nat) : Word :=
  let count := if isCommandQueue q then (c.cmdList q).length else (c.rowList q).length
  let busy := c.running.any (fun r => r.queue == q) || decide (16 < c.unadmitted q)
  let held : Bool := match c.cmdList q with
    | e :: _ => (match e.guard with | some n => tableGet Guard.unresolved c.guards n.toNat == .unresolved | none => false)
    | [] => false
  BitVec.ofNat 64 (count + 256 * queueDepth q + (if busy then 65536 else 0) + (if held then 131072 else 0)
    + (if isPopQueue q then 262144 else 0))

/-- QSTAT (R359). -/
def execQstat (q : BitVec 4) (a : BitVec 5) (s : State) : Host.Outcome State Fault Refusal :=
  if 10 ≤ q.toNat then .next (s.trapP 0x40 (zext q))
  else .next (s.writeG a ((s.ctx (ctxOf s.cur)).queueState q.toNat))

end Sys2Proof.Machine
end

