-- ==== Sys2Proof/Machine/Sm3.lean ====
section
/-! DEFINITION. The SM3 hash the spec names (R39, R41, R86, R228, R232, R328), as its standard (GB/T 32905) defines it (log 11). A digest is
the 256-bit number whose most significant byte is the first byte the hash outputs (R86). -/

namespace Sys2Proof.Machine

namespace Sm3

abbrev W := BitVec 32

def rot (n : Nat) (x : W) : W := x.rotateLeft n

def p0 (x : W) : W := x ^^^ rot 9 x ^^^ rot 17 x
def p1 (x : W) : W := x ^^^ rot 15 x ^^^ rot 23 x

/-- The eight words of the state. -/
structure Regs where
  a : W
  b : W
  c : W
  d : W
  e : W
  f : W
  g : W
  h : W
deriving DecidableEq, Repr

def iv : Regs := ⟨0x7380166f#32, 0x4914b2b9#32, 0x172442d7#32, 0xda8a0600#32, 0xa96f30bc#32, 0x163138aa#32, 0xe38dee4d#32, 0xb0fb0e4e#32⟩

def tj (j : Nat) : W := rot (j % 32) (if j < 16 then 0x79cc4519#32 else 0x7a879d8a#32)

def ff (j : Nat) (x y z : W) : W := if j < 16 then x ^^^ y ^^^ z else (x &&& y) ||| (x &&& z) ||| (y &&& z)
def gg (j : Nat) (x y z : W) : W := if j < 16 then x ^^^ y ^^^ z else (x &&& y) ||| (~~~x &&& z)

/-- One round with the message words Wj and Wj ^ Wj+4. -/
def round (j : Nat) (r : Regs) (w w' : W) : Regs :=
  let ss1 := rot 7 (rot 12 r.a + r.e + tj j)
  let ss2 := ss1 ^^^ rot 12 r.a
  let tt1 := ff j r.a r.b r.c + r.d + ss2 + w'
  let tt2 := gg j r.e r.f r.g + r.h + ss1 + w
  ⟨tt1, r.a, rot 9 r.b, r.c, p0 tt2, r.e, rot 19 r.f, r.g⟩

/-- The rounds over a window of the last sixteen message words, oldest first. -/
def rounds (n j : Nat) (r : Regs) (ws : List W) : Regs :=
  match n with
  | 0 => r
  | n + 1 =>
    let at' := fun i => ws.getD i 0#32
    let next := p1 (at' 0 ^^^ at' 7 ^^^ rot 15 (at' 13)) ^^^ rot 7 (at' 3) ^^^ at' 10
    rounds n (j + 1) (round j r (at' 0) (at' 0 ^^^ at' 4)) (ws.tail ++ [next])

/-- A big-endian word of four bytes. -/
def wordOf (bs : List Byte) : W := BitVec.ofNat 32 (bs.foldl (fun n b => 256 * n + b.toNat) 0)

/-- The words of a block of 64 bytes. -/
def blockWords (n : Nat) (bs : List Byte) : List W :=
  match n with
  | 0 => []
  | n + 1 => wordOf (bs.take 4) :: blockWords n (bs.drop 4)

/-- The compression of a block. -/
def compress (v : Regs) (bs : List Byte) : Regs :=
  let r := rounds 64 0 v (blockWords 16 bs)
  ⟨v.a ^^^ r.a, v.b ^^^ r.b, v.c ^^^ r.c, v.d ^^^ r.d, v.e ^^^ r.e, v.f ^^^ r.f, v.g ^^^ r.g, v.h ^^^ r.h⟩

def blocks (n : Nat) (v : Regs) (bs : List Byte) : Regs :=
  match n with
  | 0 => v
  | n + 1 => blocks n (compress v (bs.take 64)) (bs.drop 64)

/-- The padded message: a one bit, zeros, the length in bits in eight bytes. -/
def pad (bs : List Byte) : List Byte :=
  let z := (119 - bs.length % 64) % 64
  bs ++ [0x80#8] ++ List.replicate z 0#8 ++ (List.range 8).map (fun i => BitVec.ofNat 8 (bs.length * 8 / 256 ^ (7 - i)))

end Sm3

/-- The SM3 digest of a list of bytes. -/
def sm3 (bs : List Byte) : BitVec 256 :=
  let m := Sm3.pad bs
  let r := Sm3.blocks (m.length / 64) Sm3.iv m
  r.a ++ r.b ++ r.c ++ r.d ++ r.e ++ r.f ++ r.g ++ r.h

/-- The digest of a list whose digest needs all 32 bytes as memory holds them, first output byte first. -/
def digestBytes (d : BitVec 256) : List Byte := (List.range 32).map (fun i => fieldAt (8 * (31 - i)) 8 d)

end Sys2Proof.Machine
end

