-- ==== Sys2Proof/Machine/Sync.lean ====
section
/-! DEFINITION. Fences (R73, R74, R191, R346) and joints (R209–R212, R347). -/

namespace Sys2Proof.Machine

/-! ### Fences -/

/-- An outstanding access that stores. -/
def OutOp.isStore (o : OutOp) : Bool :=
  o.pending.any (fun a => a.op.writes)

/-- Every earlier access of the strand is performed, or with `stores` every earlier store, but for the stores a scope below .y does not wait
for (R191, R196, R346); the second component is false where one must still wait. -/
def State.settleAt (s : State) (key scope : Nat) (stores : Bool) : State × Bool :=
  let p := fun (o : OutOp) => (scope == 4 || !o.farStore) && (!stores || o.isStore)
  let s1 := s.force key p
  (s1, !(s1.strand key).out.any (fun o => o.stuck && p o))

/-- A fence: it completes once the strand's earlier accesses, or its earlier stores, are performed, with its effect (R191, R346). -/
def State.fence (s : State) (scope : Nat) (stores : Bool) (f : State → State) : State :=
  match s.settleAt s.cur scope stores with
  | (s1, true) => (f s1).retireWith s.cur id
  | (s1, false) => s1.block s.cur .memwait .fence

/-- FENCE (R346). -/
def execFence (c : BitVec 3) (s : State) : Host.Outcome State Fault Refusal := .next (s.fence c.toNat false id)

/-- Empty the translation caches within a scope; walks read what stands in memory from then on (R191). -/
def State.emptyTlbs (s : State) (scope own : Nat) : State :=
  let s1 := { s with tiles := tableMap {} s.tiles (fun _ t =>
      match t.usedBy with
      | some c => if s.inScope scope own c then { t with tlb := { fencedAt := s.cycle } } else t
      | none => t) }
  if 3 ≤ scope then { s1 with cpTlb := { fencedAt := s.cycle } } else s1

/-- TFENCE (R191). -/
def execTfence (c : BitVec 3) (s : State) : Host.Outcome State Fault Refusal :=
  .next (s.fence c.toNat true (fun x => x.emptyTlbs c.toNat (ctxOf s.cur)))

/-- A write is visible to a strand: its own, or one its acquires have put before it (R73). -/
def BankWrite.visible (w : BankWrite) (key : Nat) (view : View) : Bool := w.writer == strandWriter key || view.sees w.writer 0 w.cycle

/-- The strand has itself observed the completion of the command that wrote (R74). -/
def BankWrite.observed (w : BankWrite) (view : View) : Bool := w.unit && view.sees w.writer 5 w.cycle

/-- What a bank fence of a strand does to the writes of a word, oldest first: the visible ones are covered (R73), and its loads show nothing
older than the results of commands whose completion it has observed (R74). -/
def fenceWrites (key cycle scope : Nat) (view : View) (ws : List BankWrite) : List BankWrite :=
  match ws with
  | [] => []
  | w :: t =>
    let c := if w.visible key view then w.covered ++ [(strandWriter key, cycle, scope)] else w.covered
    let p := if (w :: t).any (fun x => x.observed view) && !w.past.contains key then w.past ++ [key] else w.past
    { w with covered := c, past := p } :: fenceWrites key cycle scope view t

/-- A bank fence of a strand (R73, R74). -/
def State.bankFence (s : State) (key scope : Nat) : State :=
  { s with unfenced := tableMap [] s.unfenced (fun _ ws => fenceWrites key s.cycle scope (s.strand key).view ws) }

/-- BFENCE (R73, R74, R346). -/
def execBfence (c : BitVec 3) (s : State) : Host.Outcome State Fault Refusal :=
  .next (s.fence c.toNat true (fun x => x.bankFence s.cur c.toNat))

/-! ### Joints -/

/-- A use of a joint instruction in the wrong state: 0x2E; the TVAL is not given (R211; log 15). -/
def State.jointMisuse (s : State) : State := s.bump.trapP 0x2E s.openWord

/-- JOPEN (R209, R211). -/
def execJopen (s : State) : Host.Outcome State Fault Refusal :=
  if s.me.joint.isOpen then .next s.jointMisuse
  else .next (s.retireWith s.cur (fun st => { st with joint := { isOpen := true } }))

/-- What the address of a JLD or JST leads to: a trap, an abort code, or the word (R211, R347). -/
inductive JointAddr where
  | traps (cause : Nat) (tval : Word)
  | aborts (code : BitVec 4)
  | holds (cause : Nat) (tval : Word)
  | word (l : Loc) (tlb : Tlb)
deriving DecidableEq, Repr

/-- The checks of a joint access, after spill redirection (R179, R183): pattern and alignment trap, an uncorrectable error holds the strand,
everything else aborts. -/
def State.jointAddr (s : State) (wr g2 : Bool) (va : Word) : JointAddr :=
  let c := ctxOf s.cur
  if isWindow va && va.toNat % 8 = 0 then .aborts 6#4
  else match s.resolve c (s.me.spill g2) { rd := true, wr := wr } va with
    | .fails cause tv =>
      if cause = 0x20 ∨ cause = 0x21 then .traps cause tv
      else if cause = 0x2C ∨ cause = 0x2D then .aborts 8#4
      else if cause = 0x50 then .holds cause tv
      else .aborts 5#4
    | .at l tlb => if l.far then .aborts 8#4 else .word l.word tlb

/-- The joint aborts and the instruction completes with no other effect (R211). -/
def State.abortInJoint (s : State) (code : BitVec 4) : State := s.retireWith s.cur (fun st => st.abortJoint code)

/-- The word of an open joint at a place. -/
def Joint.find (j : Joint) (l : Loc) : Option JointWord := j.words.find? (fun w => w.loc == l)

/-- A word joins the word set of the joint (R209). -/
def Strand.noteJoint (st : Strand) (w : JointWord) : Strand := { st with joint := { st.joint with words := st.joint.words ++ [w] } }

/-- A joint closes, committed or with an abort code (R209, R210, R212). -/
def Strand.closeJoint (st : Strand) (commit : Bool) (code : BitVec 4) : Strand :=
  { st with joint := { st.joint with isOpen := false, locked := false, commit := commit, code := code } }

/-- Another joint has locked the word (R210, R211). -/
def State.jointLocked (s : State) (key : Nat) (l : Loc) : Bool := s.lockedFor key l 8

/-- JLD (R209, R211, R347): the joint's own value, the recorded value, or a relaxed load that is recorded. -/
def execJld (d a : BitVec 5) (i : BitVec 7) (s : State) : Host.Outcome State Fault Refusal :=
  let st := s.me
  let va := st.rg a + 8#64 * sext i
  if !st.joint.isOpen then .next s.jointMisuse
  else match s.jointAddr false (a == 2#5) va with
    | .traps cause tv => .next (s.trapP cause tv)
    | .holds cause tv => .next (if st.joint.code ≠ 0#4 then s.writeG d 0#64 else s.trapP cause tv)
    | .aborts code => .next (if st.joint.code ≠ 0#4 then s.writeG d 0#64 else s.abortInJoint code)
    | .word l tlb =>
      if st.joint.code ≠ 0#4 then .next (s.writeG d 0#64)
      else match st.joint.find l with
        | some w => .next (s.writeG d ((w.write.orElse (fun _ => w.read)).getD 0#64))
        | none =>
          if 8 ≤ st.joint.words.length then .next (s.abortInJoint 4#4)
          else if s.jointLocked s.cur l then .next (s.abortInJoint 3#4)
          else
            let p := fun (o : OutOp) => o.before { op := .load 8 false, loc := l, va := va, dest := d, order := .rx }
            let s0 := (s.withTlb (ctxOf s.cur) tlb).force s.cur p
            let s1 := s0.chargeAt s.cur l false
            let x := BitVec.ofNat 64 (s1.loadNat l 8 s.cur)
            let lam := s.latency (ctxOf s.cur) l false
            .next (if (s0.strand s.cur).out.any p then s0.block s.cur .memwait .lookahead else (((s1.loaded l s.cur).meet l).retireWith s.cur (fun st => (st.noteJoint { loc := l, va := va, read := some x }).setG d x)).delay s.cur lam .memwait)

/-- JST (R209, R211, R347): the value is held in the joint. -/
def execJst (d a : BitVec 5) (i : BitVec 7) (s : State) : Host.Outcome State Fault Refusal :=
  let st := s.me
  let va := st.rg a + 8#64 * sext i
  let x := st.rg d
  if !st.joint.isOpen then .next s.jointMisuse
  else match s.jointAddr true (a == 2#5) va with
    | .traps cause tv => .next (s.trapP cause tv)
    | .holds cause tv => .next (if st.joint.code ≠ 0#4 then s.retireWith s.cur id else s.trapP cause tv)
    | .aborts code => .next (s.abortInJoint code)
    | .word l tlb =>
      if st.joint.code ≠ 0#4 then .next (s.retireWith s.cur id)
      else match st.joint.find l with
        | some _ => .next (s.retireWith s.cur (fun st =>
            { st with joint := { st.joint with words := st.joint.words.map (fun w => if w.loc = l then { w with write := some x } else w) } }))
        | none =>
          if 8 ≤ st.joint.words.length then .next (s.abortInJoint 4#4)
          else .next ((s.withTlb (ctxOf s.cur) tlb).retireWith s.cur (fun st => st.noteJoint { loc := l, va := va, write := some x }))

/-- The code validation finds, 0 where the joint commits (R210). A write by another party has aborted the joint before (R211). -/
def State.validate (s : State) (ws : List JointWord) : BitVec 4 :=
  if ws.any (fun w => w.read.isSome && w.read != some (BitVec.ofNat 64 (s.readNat w.loc 8))) then 2#4
  else 0#4

/-- The held writes are performed together, then their waiters are served (R210, R345). -/
def State.commitWords (s : State) (key : Nat) (ws : List JointWord) : State :=
  let s1 := ws.foldl (fun x w => match w.write with
    | some v => (x.chargeAt key w.loc false).writeNat w.loc 8 v.toNat key
    | none => x) s
  ws.foldl (fun x w => if w.write.isSome then x.serve w.loc 8 else x) s1

/-- The first word of a set whose line has gone bad (R75). -/
def State.badWord (s : State) (ws : List JointWord) : Option JointWord := ws.find? (fun w => s.locBad w.loc)

/-- JCLOSE with its words locked: validation, then the writes, at one point in M (R210); a word whose line has gone bad holds the strand, with
nothing written (R75). -/
def State.closeLocked (s0 : State) (d : BitVec 5) : State :=
  let j := s0.me.joint
  if j.code ≠ 0#4 then s0.retireWith s0.cur (fun st => (st.closeJoint false j.code).setG d 0#64)
  else match s0.badWord j.words with
  | some w => (s0.modStrand s0.cur (fun st => { st with joint := { st.joint with locked := false } })).trapP 0x50 w.va
  | none =>
    let s := j.words.foldl (fun x w => x.meet w.loc) s0
    let code := s.validate j.words
    if code ≠ 0#4 then s.retireWith s.cur (fun st => (st.closeJoint false code).setG d 0#64)
    else
      let s2 := s.modStrand s.cur (fun st => st.closeJoint true 0#4)
      (s2.commitWords s.cur j.words).retireWith s.cur (fun st => st.setG d 1#64)

/-- JCLOSE (R209–R212): 1 where the joint commits, 0 where it has aborted or fails validation. Its first slot locks the words, or aborts with
LOCKED where another joint holds one; the slot after decides, within the 4 µs of R210 (log 21). As an unprefixed access it waits for those
before it, and for accesses to its words (R194). -/
def execJclose (d : BitVec 5) (s : State) : Host.Outcome State Fault Refusal :=
  let j := s.me.joint
  if !j.isOpen then .next s.jointMisuse
  else if j.locked then .next (s.closeLocked d)
  else if j.code ≠ 0#4 then .next (s.retireWith s.cur (fun st => (st.closeJoint false j.code).setG d 0#64))
  else
    let p := fun (o : OutOp) => (o.stuck && o.kind == .unprefixed) || j.words.any (fun w => o.before { op := .store 8 0#64, loc := w.loc, va := 0#64, dest := 0#5 })
    let s1 := s.force s.cur p
    if (s1.strand s.cur).out.any p then .next (s1.block s.cur .memwait .fence)
    else if (s1.badWord j.words).isSome then .next (s1.trapP 0x50 ((s1.badWord j.words).elim 0#64 JointWord.va))
    else if j.words.any (fun w => s1.jointLocked s.cur w.loc) then
      .next (s1.retireWith s.cur (fun st => (st.closeJoint false 3#4).setG d 0#64))
    else .next ((s1.block s.cur .memwait .locks).modStrand s.cur (fun st =>
      { st with joint := { st.joint with locked := true }, readyAt := s.cycle + 1 }))

/-- JABORT (R209, R211): code EXPLICIT. -/
def execJabort (s : State) : Host.Outcome State Fault Refusal :=
  if !s.me.joint.isOpen then .next s.jointMisuse
  else .next (s.retireWith s.cur (fun st => st.abortJoint 9#4))

end Sys2Proof.Machine
end

