-- ==== Sys2Proof/Machine/Publish.lean ====
section
/-! DEFINITION. PUBLISH (R302, R303, R328): the checks of a staged code object and the sealing of its copy. A host COPY with PUB set uses
the same operation (R93). -/

namespace Sys2Proof.Machine

/-! ### Reading a run of bytes through translation -/

/-- The bytes of pieces that each lie in one aligned 256-byte block; none where a first or last byte does not translate. -/
def State.readPieces (s : State) (at' : Word → Resolved) (ps : List (Word × Nat)) : Option (List Byte) :=
  match ps with
  | [] => some []
  | (va, n) :: t =>
    match at' va, at' (va + BitVec.ofNat 64 (n - 1)) with
    | .at l _, .at _ _ => (s.readPieces at' t).map (fun r => s.readList l n ++ r)
    | _, _ => none

def State.readVia (s : State) (at' : Word → Resolved) (va : Word) (n : Nat) : Option (List Byte) :=
  s.readPieces at' (pieces (n / 256 + 2) va n)

/-- A byte of an object as a strand reads it (R182), and as a host record of a tenant does (R92). -/
def State.strandRead (s : State) (ctx : Nat) (va : Word) : Resolved := s.resolve ctx none { rd := true, size := 1, align := 1 } va
def State.tenantAt (s : State) (tenant : Nat) (n : Need) (va : Word) : Resolved :=
  if isGlobal va then s.resolveGlobal s.cpTlb tenant { n with size := 1, align := 1 } va else .fails 0x20 va

/-- The errors that stand in the lines of a run of global addresses are found (R75). -/
def State.meetRun (s : State) (tlb : Tlb) (tenant : Nat) (ps : List (Word × Nat)) : State :=
  ps.foldl (fun x p => if isGlobal p.1 then x.meetVa tlb tenant p.1 else x) s

/-! ### The layout of an object (R302) -/

/-- A little-endian field of a list of bytes. -/
def fieldOf (bs : List Byte) (off n : Nat) : Nat := natOfBytes ((bs.drop off).take n)

def roundUp (x n : Nat) : Nat := (x + n - 1) / n * n

/-- The header fields of an object. -/
structure ObjHeader where
  magic : Nat
  minor : Nat
  major : Nat
  rsv6 : Nat
  codesz : Nat
  dataoff : Nat
  datasz : Nat
  launchn : Nat
  symoff : Nat
  symn : Nat
deriving DecidableEq, Repr

def objHeader (b : List Byte) : ObjHeader :=
  { magic := fieldOf b 0 4, minor := fieldOf b 4 1, major := fieldOf b 5 1, rsv6 := fieldOf b 6 2, codesz := fieldOf b 8 4,
    dataoff := fieldOf b 12 4, datasz := fieldOf b 16 4, launchn := fieldOf b 20 4, symoff := fieldOf b 24 4, symn := fieldOf b 28 4 }

def ObjHeader.length (h : ObjHeader) : Nat := h.symoff + 64 * h.symn

/-- An object of the length its header gives can be read: from 64 bytes to 64 MiB. -/
def ObjHeader.fits (h : ObjHeader) : Bool := decide (64 ≤ h.length) && decide (h.length ≤ 67108864)

/-- The first non-zero byte from an offset up to another. -/
def nonZeroFrom (b : List Byte) (lo hi : Nat) : Option Nat :=
  match ((b.drop lo).take (hi - lo)).findIdx? (fun x => x != 0#8) with
  | some i => some (lo + i)
  | none => none

/-- The first non-zero byte of a symbol name after its first zero byte. -/
def nameGap (b : List Byte) (at' : Nat) : Option Nat :=
  match ((b.drop at').take 56).findIdx? (fun x => x == 0#8) with
  | some i => nonZeroFrom b (at' + i) (at' + 56)
  | none => none

/-- The offset at which an object breaks its layout first, in increasing offset (R302, R328). -/
def layoutBreak (h : ObjHeader) (b : List Byte) : Option Nat :=
  if h.magic ≠ 0x4B445842 then some 0
  else if h.rsv6 ≠ 0 then some 6
  else if h.codesz < 4 ∨ h.codesz % 4 ≠ 0 then some 8
  else if h.dataoff ≠ roundUp (0x40 + h.codesz) 256 then some 0x0C
  else if h.datasz < 128 * h.launchn then some 0x14
  else if h.symoff ≠ roundUp (h.dataoff + h.datasz) 64 then some 0x18
  else if !h.fits then some 0x1C
  else if (nonZeroFrom b 0x20 0x40).isSome then some 0x20
  else match nonZeroFrom b (0x40 + h.codesz) h.dataoff with
    | some i => some i
    | none => match nonZeroFrom b (h.dataoff + h.datasz) h.symoff with
      | some i => some i
      | none => ((List.range h.symn).map (fun i => nameGap b (h.symoff + 64 * i))).findSome? id

/-! ### The code words (R328) -/

/-- Code word `i` of an object. -/
def objWord (b : List Byte) (i : Nat) : BitVec 32 := BitVec.ofNat 32 (fieldOf b (0x40 + 4 * i) 4)

/-- A word traps with 0x01 or 0x02 when fetched. -/
def wordBad (w : BitVec 32) : Bool :=
  match decodeWord w with
  | .ok _ => false
  | _ => true

def wordIs (w : BitVec 32) (i : Instr) : Bool :=
  match decodeWord w with
  | .ok x => x == i
  | _ => false

/-- The displacement in words of a direct target, and whether it must lie in the code section (else in the object). -/
def directTarget (w : BitVec 32) : Option (Int × Bool) :=
  match decodeWord w with
  | .ok (.beq _ _ i) => some (i.toInt, true)
  | .ok (.bne _ _ i) => some (i.toInt, true)
  | .ok (.blt _ _ i) => some (i.toInt, true)
  | .ok (.bge _ _ i) => some (i.toInt, true)
  | .ok (.bltu _ _ i) => some (i.toInt, true)
  | .ok (.bgeu _ _ i) => some (i.toInt, true)
  | .ok (.bz _ i) => some (i.toInt, true)
  | .ok (.bnz _ i) => some (i.toInt, true)
  | .ok (.b i) => some (i.toInt, true)
  | .ok (.call i) => some (i.toInt, true)
  | .ok (.loop _ _ i) => some (i.toInt, true)
  | .ok (.loopx _ _ i) => some (i.toInt, true)
  | .ok (.lapc _ i) => some (i.toInt, false)
  | .ok (.ldpc _ i) => some (i.toInt, false)
  | _ => none

/-- The target of code word `i` lies outside where it must lie. -/
def targetBad (h : ObjHeader) (i : Nat) (w : BitVec 32) : Bool :=
  match directTarget w with
  | none => false
  | some (d, code) =>
    let t : Int := 0x40 + 4 * (i : Int) + 4 * d
    if code then decide (t < 0x40) || decide ((0x40 + h.codesz : Int) ≤ t) else decide (t < 0) || decide ((h.length : Int) ≤ t)

/-- The first code word with a fault, as the offset of the word. -/
def firstWord (h : ObjHeader) (b : List Byte) (p : Nat → BitVec 32 → Bool) : Option Nat :=
  match (List.range (h.codesz / 4)).find? (fun i => p i (objWord b i)) with
  | some i => some (0x40 + 4 * i)
  | none => none

/-! ### PUBLISH (R328) -/

/-- A failure word (R328). -/
def publishFailure (code off : Nat) : Word := BitVec.ofNat 64 (2 ^ 63 + off * 65536 + code)

/-- A destination byte passes the checks of PUBLISH: target rim, EX = 1, US = 1, WR = 0. -/
def State.destAt (s : State) (tenant : Nat) (va : Word) : Resolved :=
  match s.tenantAt tenant { ex := true } va with
  | .at (.rim a b) tlb =>
    (match s.tenantAt tenant { wr := true } va with
     | .at _ _ => .fails 0x26 va
     | .fails _ _ => .at (.rim a b) tlb)
  | .at _ _ => .fails 0x26 va
  | .fails c tv => .fails c tv

/-- The pieces of a destination with their places, none where one fails. -/
def State.destPlaces (s : State) (tenant : Nat) (ps : List (Word × Nat)) : Option (List (Loc × Nat)) :=
  match ps with
  | [] => some []
  | (va, n) :: t =>
    match s.destAt tenant va with
    | .at l _ => (s.destPlaces tenant t).map (fun r => (l, n) :: r)
    | .fails _ _ => none

/-- Write a list of bytes over places (R328: through the part's own path). -/
def State.writePlaces (s : State) (writer : Nat) (ps : List (Loc × Nat)) (bs : List Byte) : State :=
  match ps with
  | [] => s
  | (l, n) :: t => (s.engPut l (bs.take n) 0 writer).writePlaces writer t (bs.drop n)

/-- Two runs of global addresses share a byte. -/
def overlaps (a n b m : Nat) : Bool := decide (a < b + m) && decide (b < a + n)

/-- What a publication comes to: the failure word, or the state with the object and its handle. -/
inductive Published? where
  | fails (w : Word)
  | done (s : State) (handle : Word)

/-- Check and publish the object staged at `src` at the destination `dst` for a tenant; `want` is the length a host COPY gives (R93). R93 gives the
code LAYOUT where that length is not the header's and no byte offset: 0x18, the length's place in the header, and the test before that of the
destination, are the model's choice (log 52). -/
def State.publish (s : State) (tenant : Nat) (at' : Word → Resolved) (src dst : Word) (want : Option Nat) : Published? :=
  match s.readVia at' src 64 with
  | none => .fails (publishFailure 1 0)
  | some hb =>
    let h := objHeader hb
    if want.isSome && want != some h.length then .fails (publishFailure 2 0x18)
    else
      let n := if h.fits then h.length else 64
      match s.readVia at' src n, (if dst.toNat % 65536 = 0 then s.destPlaces tenant (pieces (n / 256 + 2) dst n) else none) with
      | some b, some places =>
        (match layoutBreak h b with
         | some off => .fails (publishFailure 2 off)
         | none =>
           if 3 < h.minor then .fails (publishFailure 3 4)
           else if h.major ≠ 1 then .fails (publishFailure 3 5)
           else match firstWord h b (fun _ w => wordBad w) with
           | some off => .fails (publishFailure 4 off)
           | none => match firstWord h b (fun _ w => wordIs w .halt) with
             | some off => .fails (publishFailure 5 off)
             | none => match firstWord h b (targetBad h) with
               | some off => .fails (publishFailure 6 off)
               | none =>
                 let mine := s.published.filter (fun p => p.tenant == tenant)
                 let base := natAt 0 49 dst
                 if (isGlobal src && overlaps (natAt 0 49 src) n base n) || mine.any (fun p => overlaps p.base p.length base n) then
                   .fails (publishFailure 7 0)
                 else if 4096 ≤ mine.length then .fails (publishFailure 8 0)
                 else
                   let s1 := s.writePlaces (if want.isSome then hostWriter else strandWriter s.cur) places b
                   .done { s1 with published := s1.published ++ [{ tenant := tenant, base := base, length := n, codesz := h.codesz,
                                                                   major := h.major, minor := h.minor, digest := sm3 b }] }
                     (BitVec.ofNat 64 base))
      | _, _ => .fails (publishFailure 1 0)

/-- What a publication has read and written: the errors that stand there are found (R75). -/
def State.meetPublished (s0 s : State) (tlb : Tlb) (tenant : Nat) (at' : Word → Resolved) (src dst : Word) (want : Option Nat) : State :=
  match s0.readVia at' src 64 with
  | none => s.meetRun tlb tenant (pieces 2 src 64)
  | some hb =>
    let h := objHeader hb
    if want.isSome && want != some h.length then s.meetRun tlb tenant (pieces 2 src 64)
    else
      let n := if h.fits then h.length else 64
      s.meetRun tlb tenant (pieces (n / 256 + 2) src n ++ if dst.toNat % 65536 = 0 then pieces (n / 256 + 2) dst n else [])

/-- PUBLISH (R328): first as FENCE.d. -/
def execPublish (d a b : BitVec 5) (s : State) : Host.Outcome State Fault Refusal :=
  let key := s.cur
  let c := ctxOf key
  match s.settleAt key 3 false with
  | (s1, false) => .next (s1.block key .memwait .lookahead)
  | (s1, true) =>
    let tn := (s.job (jobOf c)).tenant
    let met := fun x => s1.meetPublished x (s1.tile (s1.ptid c)).tlb tn (s1.strandRead c) (s.me.rg a) (s.me.rg b) none
    match s1.publish tn (s1.strandRead c) (s.me.rg a) (s.me.rg b) none with
    | .fails w => .next ((met s1).writeG d w)
    | .done s2 h => .next ((met s2).writeG d h)

end Sys2Proof.Machine
end

