-- ==== Sys2Proof/Machine/Launch.lean ====
section
/-! DEFINITION. Launching a job: the checks of a launch record (R98, R99), the size of its gangs (R105), acceptance (R99, R100, R102, R140),
and LNCH (R101, R329). -/

namespace Sys2Proof.Machine

/-! ### Gang size (R105, R127) -/

/-- MAX of a tenant: STATUS.POOL before any TENANT record (R127). -/
def State.maxOf (s : State) (n : Nat) : Nat := (s.ten n).set.max.getD s.status.pool.toNat

/-- Tiles granted to a tenant (R105). -/
def State.granted (s : State) (n : Nat) : Nat :=
  Nat.min (s.maxOf n) (s.status.pool.toNat - (((List.range 16).filter (fun m => m ≠ n)).map (fun m => (s.ten m).set.min)).foldl (· + ·) 0)

/-- The largest power of two at most a number; 0 for 0. -/
def floorPow2 (n : Nat) : Nat := if n = 0 then 0 else 2 ^ Nat.log2 n

/-- G of a job of a tenant; 0 while nothing is granted (R105). -/
def State.gangSize (s : State) (tenant glog : Nat) : Nat := floorPow2 (Nat.min (2 ^ glog) (s.granted tenant))

/-- Bytes of a gang image with `n` contexts (R228, R229). -/
def imageBytes (n extent : Nat) : Nat := 65536 + n * (589824 + extent)

/-- Bytes of the two buddy slots of every gang of a job (R140). -/
def Job.buddyBytes (j : Job) : Nat :=
  if recBuddy j.record then
    ((List.range j.gangCount).map (fun k => 2 * imageBytes (j.members k) (recExtent j.record))).foldl (· + ·) 0
  else 0

/-- The buddy slots of the live jobs in a range-table entry, as offsets below its limit and lengths (R140). -/
def State.buddySlots (s : State) (sel : Nat) : List (Nat × Nat) :=
  (s.jobs.filter (fun p => p.2.phase != .ended && recBuddy p.2.record && recBudsel p.2.record == sel)).map (fun p => (p.2.budOff, p.2.buddyBytes))

/-- The first place from the top of an entry that some slots fit in (R140); which of the places they take is the model's choice (log 45). -/
def State.buddyPlace (s : State) (sel bytes : Nat) : Option Nat :=
  let e := s.rangeEntry sel
  let used := s.buddySlots sel
  let fits (o : Nat) : Bool := decide (o + bytes ≤ e.limitAddr - e.baseAddr) && used.all (fun u => decide (o + bytes ≤ u.1) || decide (u.1 + u.2 ≤ o))
  if !e.valid then none else smallest (fun o => [o]) ((0 :: used.map (fun u => u.1 + u.2)).filter fits)

/-- The physical address of a gang's buddy slot (R140): the slots of a job follow each other down from its place, two for each gang. -/
def State.slotAt (s : State) (h n b : Nat) : Nat :=
  let j := s.job h
  let size := fun k => imageBytes (j.members k) (recExtent j.record)
  (s.rangeEntry (recBudsel j.record)).limitAddr - j.budOff
    - (((List.range n).map (fun k => 2 * size k)).foldl (· + ·) 0 + (b + 1) * size n)

/-- A line of a gang's buddy slot cannot be read any more (R140). -/
def State.slotLost (s : State) (h n b : Nat) : Bool :=
  let j := s.job h
  let e := s.rangeEntry (recBudsel j.record)
  (s.env.flaws != [] || s.stackTab.any (fun p => p.2.dark || p.2.bad != [] || p.2.poisoned != [])) &&
    (List.range (imageBytes (j.members n) (recExtent j.record) / 256)).any (fun i => s.lineBad (e.place (s.slotAt h n b + 256 * i)))

/-! ### The checks (R98, R99) -/

/-- The checks of the fields in increasing offset, each with whether it failed. -/
def launchFields (s : State) (tenant : Nat) (r : BitVec 1024) (obj : Option Published) : List (Nat × Bool) :=
  let smask := recSmask r
  let ext := recExtent r
  let ovf := recOvf r
  let stride := recOvfStride r
  [(2, natAt 18 14 r != 0),
   (4, natAt 32 32 r != 0),
   (8, obj.isNone),
   (16, recEntry r % 4 != 0 || decide (recEntry r < 0x40)
          || (match obj with | some o => decide (0x40 + o.codesz < recEntry r + 4) | none => true)),
   (20, smask == 0#16),
   (22, natAt 176 16 r != 0),
   (24, decide (65536 < recTiles r)),
   (28, decide (16 < recGlog r)),
   (29, decide (recFanout r < 2) || decide (16 < recFanout r)),
   (30, decide (7 < recPrio r) || decide ((s.ten tenant).set.prioCap < recPrio r)),
   (31, natAt 252 4 r != 0),
   (32, ext % 65536 != 0 || decide (ext < 65536) || decide (33554432 < ext)),
   (36, recSpill r % 256 != 0 || decide (ext < 16 * recSpill r)),
   (40, (List.range 8).any (fun c => !bitAt (natAt (4 * c) 4 (recMcb r)) smask)),
   (44, natAt 352 32 r != 0),
   (56, ovf != 0#64 && (!isGlobal ovf || ovf.toNat % 65536 != 0)),
   (64, stride % 65536 != 0 || ((stride == 0) != (ovf == 0#64))),
   (72, recBuddy r && (decide (16 ≤ recBudsel r) || !bitAt (recBudsel r) (s.ten tenant).set.mask)),
   (73, natAt 584 56 r != 0),
   (80, (recPeers r != 0#64) != recMulti r),
   (96, natAt 768 256 r != 0)]

/-- The first failed check, in increasing offset. -/
def firstFailed (l : List (Nat × Bool)) : Option Nat := (l.find? (fun p => p.2)).map (·.1)

/-- What the checks make of a launch record. -/
inductive LaunchCheck where
  | fails (status value : Nat)
  | ok (r : BitVec 1024)
deriving DecidableEq, Repr

/-- The handle as an address: a handle is written as va[48:0] (R328). -/
def handleVa (h : Word) : Word := 0x8000000000000000#64 ||| h

/-- The checks of R99 on a record and its object, in their order, for a tenant. Two points of the order are the model's choice (log 46): the
version of an object is read at CODE before it is known that CODE names a published one, so that VERSION comes before BADLAUNCH with VALUE 8;
and the room for buddy slots (R140), which is BADLAUNCH with VALUE 72, is looked at after every check of a field and before TEN. -/
def State.checkRecord (s : State) (tenant : Nat) (r : BitVec 1024) : LaunchCheck :=
  match (if natAt 49 15 (recCode r) = 0 then s.readVia (s.tenantAt tenant { rd := true }) (handleVa (recCode r)) 8 else none) with
  | none => .fails 6 0
  | some hb =>
    if natAt 8 8 r ≠ 1 ∨ 3 < natAt 0 8 r ∨ fieldOf hb 5 1 ≠ 1 ∨ 3 < fieldOf hb 4 1 then .fails 3 0
    else
      match firstFailed (launchFields s tenant r (s.published.find? (fun p => p.tenant == tenant && p.base == (recCode r).toNat))) with
      | some off => .fails 4 off
      | none =>
        let j : Job := { record := r, tenant := tenant, g := s.gangSize tenant (recGlog r) }
        if recBuddy r ∧ (s.buddyPlace (recBudsel r) j.buddyBytes).isNone then .fails 4 72
        else if recTen r % 16 ≠ tenant then .fails 5 0
        else .ok r

/-- The checks of R99, for a tenant; `at'` reads the record. -/
def State.checkLaunch (s : State) (tenant : Nat) (at' : Word → Resolved) (va : Word) : LaunchCheck :=
  match s.readVia at' va 128 with
  | none => .fails 6 0
  | some bs => s.checkRecord tenant (BitVec.ofNat 1024 (natOfBytes bs))

/-! ### Acceptance (R99, R100, R102, R105) -/

/-- The modules that run the gangs of a job, where not this one (log 44). -/
def State.homesOf (s : State) (r : BitVec 1024) (o : Origin) : Table (Option Nat) :=
  let other (p : Nat) : Bool := p != s.env.self && (bitAt p (recPeers r) || (match o with | .remote q => p == q | _ => false))
  if recMulti r then (s.env.homes.filter (fun e => other e.2)).foldl (fun t e => tableSet none t e.1 (some e.2)) [] else []

/-- The handle of the next job. -/
def State.accept (s : State) (tenant : Nat) (r : BitVec 1024) (o : Origin) : State :=
  let h := s.nextHandle
  let j : Job := { phase := if recMulti r then .arming else .live, record := r, tenant := tenant, origin := o,
                   g := s.gangSize tenant (recGlog r), progress := s.ticks, armAt := s.ticks,
                   owed := if recMulti r then recPeers r else 0#64, away := s.homesOf r o }
  let j0 := { j with budOff := (s.buddyPlace (recBudsel r) j.buddyBytes).getD 0 }
  let j1 := { j0 with gangs := (List.range j.gangCount).foldl (fun t k => tableSet {} t k { eligibleAt := some (s.ticks : Int) }) [] }
  let s1 := { s.setJob h j1 with nextHandle := h + 1 }
  if recMulti r then s1.sendCtl (peerList (recPeers r)) (.arm h r) else s1

/-- LNCH (R329): a release at device scope, or system scope with MULTI. -/
def execLnch (d a : BitVec 5) (s : State) : Host.Outcome State Fault Refusal :=
  let key := s.cur
  let c := ctxOf key
  let tn := (s.job (jobOf c)).tenant
  match s.settleAt key 4 false with
  | (s1, false) => .next (s1.block key .memwait .lookahead)
  | (s1, true) =>
    match s1.checkLaunch tn (s1.strandRead c) (s.me.rg a) with
    | .fails status value => .next (s1.writeG d (BitVec.ofNat 64 (2 ^ 63 + value % 65536 * 256 + status)))
    | .ok r => .next ((s1.accept tn r (.strand key)).writeG d (BitVec.ofNat 64 s1.nextHandle))

end Sys2Proof.Machine
end

