-- ==== Sys2Proof/Machine/Issue.lean ====
section
/-! DEFINITION. Lookahead (R151): the registers an instruction reads and writes, the memory instructions, and the outstanding operations
that must complete before an instruction issues. -/

namespace Sys2Proof.Machine

/-- What the rules of R151 ask of an instruction: registers it reads and writes (general as 0–31, vector as 32–47, predicates as
48–55), whether it is one of the memory instructions, and the limit it counts against. -/
structure Uses where
  reads : List Nat := []
  writes : List Nat := []
  mem : Bool := false
  /-- A long-latency operation that is no memory access. -/
  long : Bool := false
  /-- A relaxed access. -/
  relaxed : Bool := false
deriving DecidableEq, Repr

/-- The registers of a command word or of a row that ENQ pushes (R357). -/
def enqReads (q : BitVec 4) (a : BitVec 5) : List Nat :=
  if q.toNat = 1 ∨ q.toNat = 2 then vUse [fieldAt 0 4 a] else gUse [a, a + 1#5, a + 2#5, a + 3#5]

/-- Uses of an instruction (R151, R305–R395). -/
def usesOf (i : Instr) : Uses :=
  match i with
  | .add d a b | .sub d a b | .and d a b | .or d a b | .xor d a b | .andn d a b | .orn d a b | .sll d a b | .srl d a b | .sra d a b
  | .ror d a b | .min d a b | .max d a b | .minu d a b | .maxu d a b => { reads := gUse [a, b], writes := gUse [d] }
  | .sel d a b => { reads := gUse [d, a, b], writes := gUse [d] }
  | .clz d a | .ctz d a | .popc d a | .sextI8 d a | .sextI16 d a | .sextI32 d a | .zextN8 d a | .zextN16 d a | .zextN32 d a =>
    { reads := gUse [a], writes := gUse [d] }
  | .mul d a b _ | .mulh d a b _ | .mulhu d a b _ | .div d a b _ | .divu d a b _ | .rem d a b _ | .remu d a b _ =>
    { reads := gUse [a, b], writes := gUse [d], long := true }
  | .cmp d a b _ => { reads := gUse [a, b], writes := gUse [d] }
  | .fadd d a b _ _ | .fsub d a b _ _ | .fmul d a b _ _ | .fdiv d a b _ _ | .fmin d a b _ _ | .fmax d a b _ _ =>
    { reads := gUse [a, b], writes := gUse [d], long := true }
  | .fma d a b _ _ => { reads := gUse [d, a, b], writes := gUse [d], long := true }
  | .fsqrt d a _ _ | .fcvt d a _ _ | .fcvti d a _ _ | .fcvtf d a _ _ => { reads := gUse [a], writes := gUse [d], long := true }
  | .fcmp d a b _ _ _ => { reads := gUse [a, b], writes := gUse [d], long := true }
  | .nop | .b _ | .lclr _ | .lset _ => {}
  | .addi d a _ | .andi d a _ | .ori d a _ | .xori d a _ | .slli d a _ | .srli d a _ | .srai d a _ | .lih d a _ =>
    { reads := gUse [a], writes := gUse [d] }
  | .li d _ | .lapc d _ => { writes := gUse [d] }
  | .beq a b _ | .bne a b _ | .blt a b _ | .bge a b _ | .bltu a b _ | .bgeu a b _ => { reads := gUse [a, b] }
  | .bz a _ | .bnz a _ | .jr a | .loop a _ _ | .loopx a _ _ => { reads := gUse [a] }
  | .call _ => { writes := [1] }
  | .callr a => { reads := gUse [a], writes := [1] }
  | .ret => { reads := [1] }
  | .jtab a b => { reads := gUse [a, b], mem := true }
  | .ld d a o _ _ _ | .ldu d a o _ _ _ => { reads := gUse [a], writes := gUse [d], mem := true, relaxed := o == 1#2 }
  | .jld d a _ => { reads := gUse [a], writes := gUse [d], mem := true }
  | .st d a o _ _ _ => { reads := gUse [d, a], mem := true, relaxed := o == 1#2 }
  | .jst d a _ => { reads := gUse [d, a], mem := true }
  | .ldx d a b o _ _ | .ldux d a b o _ _ => { reads := gUse [a, b], writes := gUse [d], mem := true, relaxed := o == 1#2 }
  | .stx d a b o _ _ => { reads := gUse [d, a, b], mem := true, relaxed := o == 1#2 }
  | .ldex d a b => { reads := gUse [a, b], writes := gUse [d], mem := true }
  | .stfx d a b => { reads := gUse [d, a, b], mem := true }
  | .lde d a _ | .ldf d a _ | .feq d a _ => { reads := gUse [a], writes := gUse [d], mem := true }
  | .stf d a _ | .sts d a _ => { reads := gUse [d, a], mem := true }
  | .feset a _ | .feclr a _ => { reads := gUse [a], mem := true }
  | .ldpc d _ => { writes := gUse [d], mem := true }
  | .amoSwap d a b r _ _ | .amoAdd d a b r _ _ | .amoAnd d a b r _ _ | .amoOr d a b r _ _ | .amoXor d a b r _ _ | .amoMin d a b r _ _
  | .amoMax d a b r _ _ | .amoMinu d a b r _ _ | .amoMaxu d a b r _ _ =>
    { reads := gUse [a, b], writes := gUse [d], mem := true, relaxed := r == 1#1 }
  | .cas d a b r _ _ => { reads := gUse [d, a, b], writes := gUse [d], mem := true, relaxed := r == 1#1 }
  | .waiteq d a b r _ | .waitge d a b r _ | .waitne d a b r _ =>
    { reads := gUse [a, b], writes := gUse [d], mem := true, relaxed := r == 1#1 }
  | .atomar d a b _ f _ => { reads := gUse (if f = 9#4 then [d, a, b] else [a, b]), writes := gUse [d], mem := true }
  | .fence _ | .tfence _ | .bfence _ | .jopen | .jabort | .msge | .lease | .gclr _ | .eret | .exit | .step | .brk _ _ | .halt => {}
  | .jclose d | .recv d _ | .recvh d _ | .mprobe d _ | .leasef d _ => { writes := gUse [d] }
  | .msgh a | .msgw a | .gset a _ | .pegf a | .trap a _ => { reads := gUse [a] }
  | .enq q a _ => { reads := enqReads q a }
  | .deq _ a => { writes := vUse [fieldAt 0 4 a] }
  | .qstat _ a => { writes := gUse [a] }
  | .pega d a | .pegv d a | .pegw d a | .pegq d a | .idle d a | .qcap d a | .lnch d a | .mgmt d a =>
    { reads := gUse [a], writes := gUse [d] }
  | .spawn a b | .iunlock a b | .tblw a b => { reads := gUse [a, b] }
  | .ilock d a b | .publish d a b => { reads := gUse [a, b], writes := gUse [d] }
  | .crd d _ | .crdc d _ => { writes := gUse [d] }
  | .cwr a _ => { reads := gUse [a] }
  | .cins d a _ => { reads := gUse [a ++ 0#1, a ++ 1#1], writes := gUse [d] }
  | .vld d a b k o _ => { reads := gUse [gr a, gr b] ++ kUse k, writes := vUse [d], mem := true, relaxed := o == 1#1 }
  | .vlds d a b k _ o _ => { reads := gUse [gr a, gr b] ++ kUse k, writes := vUse [d], mem := true, relaxed := o == 1#1 }
  | .vldg d a b k _ o _ => { reads := gUse [gr a] ++ vUse [b] ++ kUse k, writes := vUse [d], mem := true, relaxed := o == 1#1 }
  | .vst d a b k o _ => { reads := gUse [gr a, gr b] ++ vUse [d] ++ kUse k, mem := true, relaxed := o == 1#1 }
  | .vsts d a b k _ o _ => { reads := gUse [gr a, gr b] ++ vUse [d] ++ kUse k, mem := true, relaxed := o == 1#1 }
  | .vstx d a b k _ o _ => { reads := gUse [gr a] ++ vUse [b, d] ++ kUse k, mem := true, relaxed := o == 1#1 }
  | .vadd d a b k _ _ | .vsub d a b k _ _ | .vmul d a b k _ _ | .vmin d a b k _ _ | .vmax d a b k _ _ | .vfadd d a b k _ _
  | .vfsub d a b k _ _ | .vfmul d a b k _ _ | .vfma d a b k _ _ | .vfmin d a b k _ _ | .vfmax d a b k _ _ | .vfdiv d a b k _ _ =>
    { reads := vUse [d, a, b] ++ kUse k, writes := vUse [d], long := true }
  | .vlogAnd d a b k _ | .vlogOr d a b k _ | .vlogXor d a b k _ | .vshfSll d a b k _ | .vshfSrl d a b k _ | .vshfSra d a b k _
  | .vslideDn d a b k _ | .vslideUp d a b k _ => { reads := vUse [d, a, b] ++ kUse k, writes := vUse [d], long := true }
  | .vsel d a b k _ => { reads := vUse [a, b] ++ kUse k, writes := vUse [d], long := true }
  | .vperm d a b k _ => { reads := vUse [d, a, b] ++ kUse k, writes := vUse [d], long := true }
  | .vfsqrt d a k _ _ | .vqmxQ d a k _ _ | .vqmxX d a k _ _ => { reads := vUse [d, a] ++ kUse k, writes := vUse [d], long := true }
  | .vfsfExp2 d a k _ | .vfsfLog2 d a k _ | .vscan d a k _ => { reads := vUse [d, a] ++ kUse k, writes := vUse [d], long := true }
  | .vcmp p a b k _ _ _ | .vfcmp p a b k _ _ _ => { reads := vUse [a, b] ++ kUse k, writes := kUse p, long := true }
  | .vcvt d a _ k _ _ _ => { reads := vUse [d, a] ++ kUse k, writes := vUse [d], long := true }
  | .vred d a k _ _ _ => { reads := vUse [a] ++ kUse k, writes := vUse [d], long := true }
  | .vpres p a _ k _ => { reads := vUse [a] ++ kUse k, writes := kUse p, long := true }
  | .vfill d a _ k _ | .vmka d a _ k _ => { reads := vUse [d, a] ++ kUse k, writes := vUse [d], long := true }
  | .vlen a _ => { writes := gUse [gr a] }
  | .vbnd p a b _ _ => { reads := gUse [gr a, gr b], writes := kUse p, long := true }
  | .vmovGv d a k _ => { reads := gUse [gr a] ++ vUse [d] ++ kUse k, writes := vUse [d], long := true }
  | .vmovVg d a b _ => { reads := vUse [d] ++ gUse [gr b], writes := gUse [gr a], long := true }
  | .pand d a b | .por d a b | .pxor d a b | .pandn d a b => { reads := kUse a ++ kUse b, writes := kUse d }
  | .pnot d a => { reads := kUse a, writes := kUse d }
  | .pmov d a k => { reads := kUse a ++ kUse k ++ kUse d, writes := kUse d }
  | _ => {}

/-- Registers an outstanding operation will write. -/
def OutOp.writes (o : OutOp) : List Nat :=
  gUse (o.gw.map (·.1)) ++ vUse (o.vw.map (·.1)) ++ (o.kw.map (fun p => kUse p.1)).flatten ++
    (match o.access with
     | some a => gUse [a.dest] ++ (match a.op with | .vload d _ => vUse [d] | _ => [])
     | none => [])

/-- Two register lists share a register. -/
def shares (a b : List Nat) : Bool := a.any (fun x => b.contains x)

/-- An outstanding operation must complete before the next instruction (R151): it lies beyond the window, the operation is an unprefixed
access and the instruction a memory instruction, or one depends on the other. -/
def OutOp.blocks (o : OutOp) (u : Uses) : Bool :=
  o.window == 0 || (o.kind == .unprefixed && u.mem) || shares o.writes (u.reads ++ u.writes) || shares o.reads u.writes

/-- An operation that counts against the limit of 4 long-latency operations. -/
def OutOp.isLong (o : OutOp) : Bool := o.kind == .long || o.kind == .vector

/-- The oldest outstanding operations a limit makes an instruction wait for (R151). -/
def atLimit (out : List OutOp) (u : Uses) : List OutOp :=
  let longs := out.filter OutOp.isLong
  let rxs := out.filter (fun o => o.kind == .relaxed)
  (if u.long then longs.take (longs.length - 3) else []) ++ (if u.relaxed then rxs.take (rxs.length - 7) else [])

/-- The outstanding operations an instruction waits for. -/
def Strand.musts (st : Strand) (u : Uses) : List OutOp :=
  let lim := atLimit st.out u
  st.out.filter (fun o => o.blocks u || lim.contains o)

end Sys2Proof.Machine
end

