-- ==== Sys2Proof/Machine/Slot.lean ====
section
/-! DEFINITION. What a strand's slot comes to (R146–R151): stops and pending traps at an instruction boundary (R219, R220, R226), breakpoints
(R243), the end of outstanding operations, fetch and decode (R176, R289), and the lookahead rules; and the slot's accounts
afterwards (R233–R235, R246). -/

namespace Sys2Proof.Machine

/-! ### Cancelled waits and stops (R197, R219, R220) -/

/-- The waits of a strand are cancelled and its outstanding operations complete (R197, R219). The second component says whether an operation's
flag trap was entered (R220). -/
def State.wind (s : State) (key : Nat) : State × Bool :=
  let s1 := s.force key (fun _ => true)
  (s1.cancelWaits key).settleAll key (s1.strand key).pc

/-- A late response carries an error: the window's completed instructions stand, and the strand is held at the access, or traps
where the host's completion is the error (R103); a flag trap of an older operation is taken first, and the condition arises again (R220,
R223, R337). What is still to be performed from the access on re-executes from there. -/
def State.holdLate (s : State) (key cause : Nat) (va : Word) : State :=
  let s0 := s.force key (fun _ => true)
  let at' := s0.firstBarred key
  let resume := match at' with | some o => o.pc | none => (s0.strand key).pc
  match (s0.cancelWaits key).settleAll key resume with
  | (s1, true) => s1
  | (s1, false) =>
    let s2 := s1.modStrand key (fun st => { st with pc := resume, cut := .none, out := st.out.takeWhile (fun o => some o != at') })
    if cause ≠ 0x50 then s2.takeTrap key cause va resume
    else (s2.meetVa (s2.tile (s2.ptid (ctxOf key))).tlb (s2.job (jobOf (ctxOf key))).tenant va).hold key cause va

/-- A strand whose state a stop does not change: it issues nothing anyway. -/
def Strand.quiet (st : Strand) : Bool :=
  st.state == .inactive || st.state == .exited || st.state == .halted || st.held.isSome

/-- A stop waits until the strand's outstanding accesses are performed; a WAIT is cancelled (R197). -/
def State.holdsStop (s : State) (key : Nat) : Bool := ((s.force key (fun _ => true)).strand key).out.any OutOp.barred

/-- The instruction a strand is at has issued and completes before a stop: an access that waits for the host or for a locked word, a fence or
a JCLOSE that waits for other accesses than a WAIT (R197, R336, R346, R347). -/
def Strand.completesFirst (st : Strand) : Bool :=
  match st.wait with
  | .hostPort _ _ => true
  | .locked => true
  | .fence => !st.out.any OutOp.waits
  | _ => false

/-- The strand stops at this boundary: its outstanding operations complete, a trap of theirs is entered first, its waits are cancelled
and its joint aborts (R219, R220). -/
def State.stopStrand (s : State) (key : Nat) : State :=
  if (s.strand key).quiet then s.modStrand key (fun st =>
    { st.abortJoint 7#4 with
      stopped := st.stopped || st.stopReq, stopReq := false
      state := if st.haltReq && st.held.isSome then .halted else st.state
      haltReq := false })
  else if s.holdsStop key then s.force key (fun _ => true)
  else
    (s.wind key).1.modStrand key (fun st =>
      let y := st.abortJoint 7#4
      { y with state := if y.haltReq then .halted else y.state, stopped := y.stopped || y.stopReq, stopReq := false,
               haltReq := false, stepi := if y.haltReq then none else y.stepi })

/-- A strand may stop now: a stop is asked for, and it is at an instruction boundary outside a packet (R219); an instruction that has
issued finishes first (R197, R336, R346, R347). -/
def Strand.mayStop (st : Strand) : Bool := st.stops && (st.quiet || (st.packet.isNone && !st.joint.locked && !st.completesFirst))

/-- STOP_AT_PREEMPTION (R219). -/
def execStopAtPreemption (s : State) : Host.Outcome State Fault Refusal :=
  .next (if (s.strand s.input.key).mayStop then s.stopStrand s.input.key else s)

/-- A stopped strand goes on: what it waited at re-executes (R219). -/
def Strand.resume (st : Strand) (cycle : Nat) : Strand :=
  if st.quiet then { st with stopped := false, stopReq := false }
  else { st with stopped := false, stopReq := false, state := .ready, wait := .none, cut := .none, readyAt := cycle + 1 }

/-- DEFERRED_FLAG_TRAP (R226): the merged flags trap at the boundary, with the blocked or next instruction as TPC, once every outstanding
access but a WAIT is performed (R197, R217; log 22). -/
def execDeferredFlagTrap (s : State) : Host.Outcome State Fault Refusal :=
  let key := s.input.key
  match (s.strand key).pend with
  | none => .next s
  | some f =>
    if (s.strand key).trap.ha || (s.strand key).quiet then .next s
    else
      let s1 := s.force key (fun _ => true)
      if (s1.strand key).out.any OutOp.barred then .next s1
      else match (s1.cancelWaits key).settleAll key (s1.strand key).pc with
        | (s2, true) => .next s2
        | (s2, false) =>
          .next ((s2.modStrand key (fun st => { st with pend := none, wait := .none, cut := .none })).takeTrap key 0x17 (zext f) (s2.strand key).pc)

/-! ### Breakpoints (R240, R243) -/

/-- A set breakpoint of the job is at the strand's PC. -/
def State.atBreakpoint (s : State) (key : Nat) : Bool :=
  let c := ctxOf key
  !(s.strand key).skipBp && (s.job (jobOf c)).bps.any (fun b =>
    b.addr == (s.strand key).pc && (match b.vtid with | some v => v == vtidOf c | none => true))

/-- BREAKPOINT (R243): the strand halts with its PC at the instruction, once every outstanding access is performed. -/
def execBreakpoint (s : State) : Host.Outcome State Fault Refusal :=
  let key := s.input.key
  if (s.strand key).quiet || !s.atBreakpoint key then .next s
  else
    let s1 := s.force key (fun _ => true)
    if (s1.strand key).out.any OutOp.barred then .next s1
    else match (s1.cancelWaits key).settleAll key (s1.strand key).pc with
      | (s2, true) => .next s2
      | (s2, false) => .next (s2.modStrand key (fun st =>
          { st.abortJoint 7#4 with state := .halted, haltReq := false, stepi := none }))

/-! ### Completions of outstanding operations (R149–R151) -/

/-- An operation whose time has come. -/
def OutOp.due (o : OutOp) (cycle : Nat) : Bool := decide (o.doneAt ≤ cycle) && !o.waits

/-- An outstanding operation is performed; of one with several elements one is, as the free choice has it, after those it overlaps (R378). -/
def State.performSome (s : State) (key idx : Nat) (o : OutOp) : State :=
  if o.elems.length ≤ 1 then s.performOut key o
  else
    match o.elems[Config.schedule s.free % o.elems.length]? with
    | none => s
    | some e =>
      let prior := ((s.strand key).out.take idx).flatMap (fun x => if x.pending.any (fun a => a.ahead e.2) then [x] else [])
      let s1 := prior.foldl (fun x y => x.performOut key y) { s with free := s.free + 1 }
      let own := (o.elems.takeWhile (fun x => x.1 < e.1)).filter (fun x => x.2.ahead e.2)
      (s1.flushFor e.2).performItems key 0 ((own ++ [e]).map (fun x => (idx, some x.1, x.2)))

/-- One outstanding operation of a strand completes, and a strand whose latency has run is ready. -/
def State.completeOne (s : State) (key idx : Nat) (long : Bool) : State :=
  let s1 := match (s.strand key).out[idx]? with
    | some o =>
      if o.due s.cycle && o.isLong == long then
        match s.failed key with
        | some p => s.holdLate key p.2.2 p.2.1
        | none =>
          let s0 := s.performSome key idx o
          if ((s0.strand key).out[idx]?).any OutOp.stuck then s0
          else (s0.completeOps key (fun x => decide (some x = (s0.strand key).out[idx]?))).1
      else s
    | none => s
  s1.modStrand key (fun st =>
    if st.wait = .timed ∧ st.readyAt ≤ s.cycle ∧ st.state = (if long then .engwait else .memwait) then
      { st with state := .ready, wait := .none } else st)

/-- MEMORY_RESPONSE (R149): a memory access of a strand completes, or the request it waits at fails (R75, R104). -/
def execMemoryResponse (s : State) : Host.Outcome State Fault Refusal :=
  .next (match s.failedWait s.input.key with
    | some (w, cause) =>
      (({ s with waiters := s.waiters.erase w } : State).modStrand s.input.key (fun st => { st with state := .ready, wait := .none })).raise
        s.input.key cause w.acc.va
    | none => s.completeOne s.input.key s.input.idx false)

/-- LONG_LATENCY_COMPLETE (R150, R151). -/
def execLongLatencyComplete (s : State) : Host.Outcome State Fault Refusal := .next (s.completeOne s.input.key s.input.idx true)

/-- FE_WAIT_REISSUE (R57, R206): a refused request is issued again once its time has come. -/
def execFeWaitReissue (s : State) : Host.Outcome State Fault Refusal :=
  .next (s.modStrand s.input.key (fun st =>
    if st.wait = .refused ∧ st.readyAt ≤ s.cycle then { st with state := .ready, wait := .none } else st))

/-- HOST_WINDOW_TIMEOUT (R103): the host has not completed an access of the strand within 50 ms; it traps with the virtual address. -/
def execHostWindowTimeout (s : State) : Host.Outcome State Fault Refusal :=
  match (s.strand s.input.key).wait with
  | .hostPort va t => if s.cycle < t + hostPatience then .next s else .next ((s.modStrand s.input.key (fun st => { st with state := .ready, wait := .none })).raise s.input.key 0x2C va)
  | _ => .next s

/-- ILLEGAL_OPCODE (R289): a word that names no form, or one with a non-zero reserved field. -/
def execIllegalOpcode (word : BitVec 32) (reserved : Bool) (s : State) : Host.Outcome State Fault Refusal :=
  .next (s.trapP (if reserved then 0x02 else 0x01) (zext word))

/-! ### The slot (R146, R147) -/

/-- What a slot comes to: nothing issues, something happens at the boundary instead of an instruction, or an instruction issues. -/
inductive Slot where
  | vacant (s : State)
  | boundary (s : State) (i : Instr)
  | issues (s : State) (i : Instr)

/-- A wait that only something outside the slot ends. -/
def Wait.parked (w : Wait) : Bool :=
  match w with
  | .fullEmpty => true
  | .waitForm => true
  | .window => true
  | .pegw _ _ _ => true
  | .ashape _ _ => true
  | .stepMark => true
  | _ => false

/-- Decode a fetched word and apply the lookahead rules (R151, R289). -/
def State.decodeSlot (s : State) (w : BitVec 32) : Slot :=
  match decodeWord w with
  | .illegalOpcode => .issues s (.illegalOpcode w false)
  | .reservedBits => .issues s (.illegalOpcode w true)
  | .ok i =>
    match (s.me.musts (usesOf i)).head? with
    | none => .issues s i
    | some o => .vacant (s.block s.cur (if o.isLong then .engwait else .memwait)
        (if (s.me.musts (usesOf i)).any OutOp.waits then .behindWait else .lookahead))

/-- What a fetch comes to; one that misses waits for its line. -/
def State.fetched (s : State) (f : Fetch) : Slot :=
  match f with
  | .fails cause => .vacant (s.raise s.cur cause s.me.pc)
  | .misses line lam => .vacant ((s.block s.cur .memwait (.icache [line])).modStrand s.cur (fun st => { st with readyAt := s.fillAt (ctxOf s.cur) line lam }))
  | .word s1 w => s1.decodeSlot w

/-- Fetch at the strand's PC (R176, R182); a line that another strand of the tile has asked for and that has come is there. -/
def State.fetchSlot (s : State) : Slot :=
  let c := ctxOf s.cur
  match s.fetch c s.me.pc with
  | .misses line lam =>
    (match s.filler c line with
     | some k =>
       if (s.strand k).readyAt ≤ s.cycle then (s.fillArrived k).fetched ((s.fillArrived k).fetch c s.me.pc) else s.fetched (.misses line lam)
     | none => s.fetched (.misses line lam))
  | f => s.fetched f

/-- The slot of the strand that owns it in the context the step looks at. While the part is in a power state or leaves it, strands only stop: so
that gangs can be swapped out before L4 (R47). -/
def State.slot (s : State) : Slot :=
  let key := s.cur
  let c := ctxOf key
  let st := s.me
  let act := fun (i : Instr) => Slot.boundary { s with input := { key := key, ctx := c } } i
  if !s.hosted c || !(s.ctx c).live || st.stopped then .vacant s
  else if st.mayStop && (st.quiet || !s.holdsStop key) then act .stopAtPreemption
  else if !s.awake then .vacant s
  else if st.quiet then .vacant s
  else if (s.failed key).isSome || (s.failedWait key).isSome then act .memoryResponse
  else if st.stops && st.packet.isNone && !st.joint.locked && !st.completesFirst then .vacant (s.force key (fun _ => true))
  else if st.pend.isSome && !st.trap.ha && !st.joint.locked then act .deferredFlagTrap
  else if s.cycle < st.readyAt then .vacant s
  else if st.wait.parked then .vacant s
  else
    let s0 := s.fillArrived key
    if s0.atBreakpoint key && !st.joint.locked then .boundary { s0 with input := { key := key, ctx := c } } .breakpoint
    else match s0.completeOps key (fun o => o.due s0.cycle) with
      | (s1, true) => .vacant s1
      | (s1, false) =>
        match s1.rejoin key with
        | (s2, true) => s2.fetchSlot
        | (s2, false) => .vacant s2

/-! ### The accounts of a slot (R132, R233–R235, R246) -/

/-- The charge of an issued instruction that is no memory access (R246); accesses are charged at their place. -/
def issuePj (i : Instr) : Nat :=
  match i with
  | .mul _ _ _ _ | .mulh _ _ _ _ | .mulhu _ _ _ _ => 20
  | .div _ _ _ _ | .divu _ _ _ _ | .rem _ _ _ _ | .remu _ _ _ _ => 60
  | .fadd _ _ _ _ _ | .fsub _ _ _ _ _ | .fmul _ _ _ _ _ | .fdiv _ _ _ _ _ | .fsqrt _ _ _ _ | .fma _ _ _ _ _ | .fmin _ _ _ _ _
  | .fmax _ _ _ _ _ | .fcvt _ _ _ _ | .fcvti _ _ _ _ | .fcvtf _ _ _ _ | .fcmp _ _ _ _ _ _ => 14
  | .fence _ | .tfence _ | .bfence _ | .jopen | .jclose _ | .jabort | .msgh _ | .recv _ _ | .recvh _ _ | .mprobe _ _ => 0
  | .msgw _ | .msge => 40
  | .jtab _ _ => 6
  | .vlen _ _ => 900
  | _ => if (usesOf i).mem then 0 else if (usesOf i).long then 900 else 6

/-- An instruction has issued in its slot: it has completed, or what is left of it is done elsewhere, without another slot of the
strand (R147, R233). -/
def Wait.went (w : Wait) : Bool := w == .none || w == .timed || w.parked

/-- The accounts after a slot: slot counters, PC table, activity, and the charge of an issued instruction. The slot of an EXIT that
retires its context has been counted before the context's counters were flushed, and a context that no tile hosts any more counts nothing
(R233, R236, R248). -/
def State.account (s : State) (key : Nat) (pc : Word) (i : Option Instr) : State :=
  let c := ctxOf key
  let st := s.strand key
  if (s.job (jobOf c)).phase ≠ .live ∨ (s.ctx c).retired ∨ s.hosted c = false then s
  else
    match i with
    | some x => if st.wait.went then s.countIssue key pc (issuePj x) else s.countSlot key (slotReason st.state) pc false
    | none => s.countSlot key (slotReason st.state) pc (st.state == .inactive || st.state == .exited)

/-! ### The clock (R146, R45; log 1, log 4) -/

/-- The contexts a cycle has a slot of, in increasing order. -/
def State.slotContexts (s : State) : List Nat := (s.ctxs.map (·.1)).filter (fun c => s.hosted c && (s.ctx c).live)

/-- The next slot: of the next context in this cycle, or of the first one in the next cycle. -/
def State.nextSlot (s : State) : State :=
  match s.slotContexts.find? (fun c => decide (s.focus < c)) with
  | some c => { s with focus := c }
  | none => { s with focus := s.slotContexts.headD 0, cycle := s.cycle + 1, ticks := s.ticks + 10 }

end Sys2Proof.Machine
end

