-- ==== Sys2Proof/Machine/Pegs.lean ====
section
/-! DEFINITION. Peg instructions (R172–R175, R361–R365). -/

namespace Sys2Proof.Machine

/-- The lowest free entry of the pool (R362). -/
def Ctx.freePeg (c : Ctx) : Option Nat := (List.range 32).find? (fun i => !(c.peg i).live)

/-- PEGA (R362): a full pool gives the handle with FAIL set. -/
def execPega (d a : BitVec 5) (s : State) : Host.Outcome State Fault Refusal :=
  let e := s.me.rg a
  let c := ctxOf s.cur
  if e.toNat < 1 ∨ 65535 < e.toNat then .next (s.trapP 0x48 e)
  else match (s.ctx c).freePeg with
    | none => .next (s.writeG d 0x8000000000000000#64)
    | some i =>
      let gen := ((s.ctx c).peg i).gen + 1
      .next ((s.modCtx c (fun x => x.setPeg i { expect := e.toNat, arrived := 0, phase := 0, refs := 1, gen := gen, live := true })).writeG d
        (0#16 ++ gen ++ 0#27 ++ BitVec.ofNat 5 i))

/-- PEGV (R363): a release at tile scope, then one arrival; the handle names the phase it counted in. -/
def execPegv (d a : BitVec 5) (s : State) : Host.Outcome State Fault Refusal :=
  let h := s.me.rg a
  let c := ctxOf s.cur
  let i := natAt 0 5 h
  if !(s.ctx c).validHandle h then .next (s.trapP 0x48 h)
  else .next (s.releaseThen s.cur (fun s1 =>
    let ph := ((s1.ctx c).peg i).phase
    (s1.retireWith s.cur (fun st => st.setG d ((fieldAt 32 32 h : BitVec 32) ++ ph ++ (fieldAt 0 16 h : BitVec 16)))).pegArrive c i (View.join [] (s1.viewOf s.cur) 1)))

/-- PEGW (R364): a peg that went back to the pool while the strand was stopped gives 0. -/
def execPegw (d a : BitVec 5) (s : State) : Host.Outcome State Fault Refusal :=
  let h := s.me.rg a
  let p := (s.ctx (ctxOf s.cur)).peg (natAt 0 5 h)
  if s.me.pegfreed then .next (s.retireWith s.cur (fun st => { st.setG d 0#64 with pegfreed := false }))
  else if !(s.ctx (ctxOf s.cur)).validHandle h then .next (s.trapP 0x48 h)
  else if p.phase = fieldAt 16 16 h then .next (s.block s.cur .engwait (.pegw (natAt 0 5 h) (fieldAt 16 16 h) d))
  else .next ((s.acquire s.cur p.view 5).retireWith s.cur (fun st => st.setG d 1#64))

/-- PEGF (R365). -/
def execPegf (a : BitVec 5) (s : State) : Host.Outcome State Fault Refusal :=
  let h := s.me.rg a
  let c := ctxOf s.cur
  if !(s.ctx c).validHandle h then .next (s.trapP 0x48 h)
  else .next ((s.retireWith s.cur id).pegUnref c (natAt 0 5 h))

/-- PEGQ (R365): never traps. -/
def execPegq (d a : BitVec 5) (s : State) : Host.Outcome State Fault Refusal :=
  let h := s.me.rg a
  let p := (s.ctx (ctxOf s.cur)).peg (natAt 0 5 h)
  if !(s.ctx (ctxOf s.cur)).validHandle h then .next (s.writeG d 0x8000000000000000#64)
  else .next (s.writeG d (BitVec.ofNat 64 (p.arrived + 65536 * p.expect + 4294967296 * p.phase.toNat + 281474976710656 * (p.refs % 32768))))

end Sys2Proof.Machine
end

