-- ==== Sys2Proof/Machine/System.lean ====
section
/-! DEFINITION. The system instructions of R320–R333: traps and their return, the life of a strand, waiting for a time, capability and
management words, step marks. ILOCK, IUNLOCK, PUBLISH and LNCH are in Icache, Publish and Launch. -/

namespace Sys2Proof.Machine

/-- The class a strand waits in for its outstanding operations: that of the oldest that is not done (R151). -/
def State.awaitClass (s : State) (key : Nat) : StrandState :=
  match (s.strand key).out.find? (fun o => decide (s.cycle < o.doneAt) || o.waits) with
  | some o => if o.kind = .long ∨ o.kind = .vector then .engwait else .memwait
  | none => .memwait

/-- Every outstanding operation of the strand can complete now. -/
def State.outDone (s : State) (key : Nat) : Bool := (s.strand key).out.all (fun o => decide (o.doneAt ≤ s.cycle) && !o.waits)

/-! ### Traps (R217, R218, R321, R322) -/

/-- TRAP (R321): A-class. The instruction completes, its redirect applies, and the trap is taken once every outstanding operation has
completed, unless one of those takes the trap (R220). -/
def execTrap (a : BitVec 5) (n : BitVec 3) (s : State) : Host.Outcome State Fault Refusal :=
  let key := s.cur
  let val := s.me.rg a
  let s0 := s.force key (fun _ => true)
  if (s0.strand key).out.any OutOp.stuck then .next (s0.block key .memwait .lookahead)
  else match s0.settleAll key s.me.pc with
    | (s1, true) => .next s1
    | (s1, false) =>
      let s2 := s1.retireWith key id
      .next (s2.takeTrapAt key (0x08 + n.toNat) val (s2.strand key).pc s.me.pc)

/-- BRK (R321): P-class. -/
def execBrk (k j : BitVec 5) (s : State) : Host.Outcome State Fault Refusal := .next (s.trapP 0x05 (wordVal (.brk k j)))

/-- ERET (R218, R322): a pending deferred-flag trap is taken after it, by R226. -/
def execEret (s : State) : Host.Outcome State Fault Refusal := .next (s.trapReturn s.cur)

/-- HALT (R332): privileged, and PRV is 0 in every job strand. -/
def execHalt (s : State) : Host.Outcome State Fault Refusal := .next (s.trapP 0x03 (wordVal .halt))

/-! ### The life of a strand (R153, R323, R324) -/

/-- What EXIT leaves of a strand. -/
def Strand.exited (st : Strand) : Strand :=
  { st with state := .exited, wait := .none, pend := none, pendflags := 0#6, haltReq := st.haltReq }

/-- EXIT (R323). Where the context retires with it, the slot and its rotation are counted before the counters are flushed (R233, R234, R236,
R248). -/
def execExit (s : State) : Host.Outcome State Fault Refusal :=
  let key := s.cur
  if s.me.packet.isSome || s.me.joint.isOpen then .next (s.trapP 0x35 (wordVal .exit))
  else if !s.outDone key then .next (s.block key (s.awaitClass key) .lookahead)
  else match s.completeOps key (fun _ => true) with
    | (s1, true) => .next s1
    | (s1, false) =>
      if (s1.strand key).out ≠ [] then .next (s1.block key .memwait .lookahead)
      else
        let s2 := ((s1.dropLease key).modStrand key Strand.exited).progress (jobOf (ctxOf key))
        .next (if s2.idleContext (ctxOf key) then ((s2.countIssue key s.me.pc 6).lastRotation key).checkRetire (ctxOf key) else s2)

/-- The registers of a strand that starts (R153): the registers R153 does not name keep their values (log 19). -/
def Strand.start (st : Strand) (g4 g5 pc : Word) (readyAt : Nat) : Strand :=
  (({ st with state := .ready, wait := .none, readyAt := readyAt, pc := pc, g := [], v := [], k := [], loops := {}, lstat := 0#2,
              fflags := 0#6, frm := 0#2, fen := 0#6 }.setG 2#5 st.spbase).setG 4#5 g4).setG 5#5 g5

/-- SPAWN (R324); of two failed checks, the cause earlier in the order of R215 is taken. -/
def execSpawn (a b : BitVec 5) (s : State) : Host.Outcome State Fault Refusal :=
  let key := s.cur
  let i := s.me.rg a
  let pc := s.me.rg b
  let k := strandKey (ctxOf key) i.toNat
  let free := (s.strand k).state = .inactive ∨ (s.strand k).state = .exited
  if natAt 0 2 pc ≠ 0 then .next (s.trapP 0x06 pc)
  else if 15 < i.toNat ∨ ¬ free then .next (s.trapP 0x36 i)
  else .next (s.releaseThen key (fun s1 =>
    (s1.modStrand k (fun st =>
      let x := st.start i ((s1.strand key).rg 5#5) pc (s1.cycle + 2)
      { x with trap := { x.trap with tvec := 0#64 }, view := x.view.join (s1.viewOf key) 1 })).retireWith key id))

/-! ### Waiting for a word or a time (R325) -/

/-- Some class bound to the strand has a word (R325). -/
def State.hasWord (s : State) (key : Nat) : Bool :=
  let c := s.ctx (ctxOf key)
  (List.range 8).any (fun n => natAt (4 * n) 4 c.mcb == stridOf key && decide (0 < c.fill n))

/-- IDLE (R325). -/
def execIdle (d a : BitVec 5) (s : State) : Host.Outcome State Fault Refusal :=
  let t := s.me.rg a
  if s.hasWord s.cur then .next (s.writeG d 1#64)
  else if t.toNat ≤ s.time then .next (s.writeG d 0#64)
  else .next (s.block s.cur .msgwait (.idle t))

/-- IDLE_DEADLINE (R325): TIME has reached the deadline, and the strand becomes ready; a swapped gang is then eligible (R122). -/
def execIdleDeadline (s : State) : Host.Outcome State Fault Refusal :=
  let key := s.input.key
  let c := ctxOf key
  match (s.strand key).wait, (s.strand key).cut with
  | .idle t, _ =>
    if s.time < t.toNat then .next s
    else .next (s.modStrand key (fun st => { st with state := .ready, wait := .none, readyAt := Nat.max st.readyAt (s.cycle + 1) }))
  | _, .idle t =>
    if s.time < t.toNat ∨ (s.gangOf c).state ≠ .swapped then .next s
    else .next ((s.modStrand key (fun st => { st with cut := .none })).modGang (jobOf c) (s.gangNo c) (fun g => g.nowEligible s.ticks))
  | _, _ => .next s

/-! ### Capability and management words (R326, R333) -/

/-- STATUS (R34); CAPPED while any tile's RIC is above 1. -/
def State.statusWord (s : State) : Word :=
  let b (x : Bool) (n : Nat) : Nat := if x then 2 ^ n else 0
  let t := s.status
  BitVec.ofNat 64 (b t.ready 0 + b t.fwerr 1 + b t.calerr 2 + b t.underbin 3 + b t.pwrfail 4 + b t.coolfault 5
    + b (s.tiles.any (fun p => decide (1 < p.2.ric.toNat))) 6 + 256 * t.pstate.toNat + 4096 * t.bin.toNat + 65536 * t.pool.toNat)

/-- Capability words (R326). -/
def State.capability (s : State) (ctx n : Nat) : Word :=
  let j := s.job (jobOf ctx)
  match n with
  | 0 => 0x10003#64
  | 1 => 2048#64
  | 2 => 0xFFF#64
  | 3 => BitVec.ofNat 64 (s.granted j.tenant)
  | 4 => 33554432#64
  | 5 => 16#64
  | 6 => 1536#64
  | 7 => 3298534883328#64
  | 8 => 1700000#64
  | 9 => 850000#64
  | 10 => BitVec.ofNat 64 j.g
  | 11 => zext s.sched.eff.turnlen
  | 12 => BitVec.ofNat 64 (recExtent j.record)
  | 13 => 8#64
  | 14 => 64#64
  | 15 => 63#64
  | 16 => 32#64
  | 17 => 8#64
  | 18 => 512#64
  | 19 => 0x400400040#64
  | 20 => 262144#64
  | 21 => 65536#64
  | 22 => 8#64
  | 23 => 8#64
  | 24 => 16384#64
  | 25 => 0x220210000#64
  | 26 => 0x3431#64
  | 27 => zext s.status.bin
  | 28 => BitVec.ofNat 64 (1 + popcount (recPeers j.record))
  | 29 => 48#64
  | 30 => 65536#64
  | 31 => 0x4060#64
  | _ => 0x8000000000000000#64

/-- QCAP (R326). -/
def execQcap (d a : BitVec 5) (s : State) : Host.Outcome State Fault Refusal :=
  .next (s.writeG d (s.capability (ctxOf s.cur) (s.me.rg a).toNat))

/-- The power cap in effect (R24, R40). -/
def State.capNow (s : State) : Nat := if s.status.coolfault then Nat.min s.power.cap 14000 else s.power.cap

/-- The highest temperature of a tile. -/
def State.maxTemp (s : State) : Int := (List.range 1024).foldl (fun m p => max m (s.tile p).temp) (s.tile 0).temp

/-- Management readings (R333). -/
def State.reading (s : State) (ctx n : Nat) : Word :=
  let p := s.ptid ctx
  match n with
  | 0 => wrap (s.tile p).temp
  | 1 => wrap s.maxTemp
  | 2 => BitVec.ofNat 64 s.power.power
  | 3 => BitVec.ofNat 64 s.capNow
  | 4 => s.statusWord
  | 5 => zext (s.tile p).ric
  | 6 => BitVec.ofNat 64 (8 * (p / 32 / 4) + p % 32 / 4)
  | _ => 0x8000000000000000#64

/-- MGMT (R333). -/
def execMgmt (d a : BitVec 5) (s : State) : Host.Outcome State Fault Refusal :=
  .next (s.writeG d (s.reading (ctxOf s.cur) (s.me.rg a).toNat))

/-! ### Step marks and the table of lut4 (R330, R331) -/

/-- STEP (R330): the arrival waits in ENGWAIT for the mark where the job has buddy images. -/
def execStep (s : State) : Host.Outcome State Fault Refusal :=
  let key := s.cur
  if s.me.packet.isSome then .next (s.trapP 0x33 (wordVal .step))
  else
    let s0 := s.modStrand key (fun st => st.abortJoint 7#4)
    if !recBuddy (s.job (jobOf (ctxOf key))).record then .next (s0.retireWith key (fun st => { st with stepk := st.stepk + 1 }))
    else if s.me.arrived then .next (s0.block key .engwait .stepMark)
    else .next (s0.releaseThen key (fun s1 =>
      (s1.modStrand key (fun st => { st with stepk := st.stepk + 1, arrived := true })).block key .engwait .stepMark))

/-- TBLW (R331). -/
def execTblw (a b : BitVec 5) (s : State) : Host.Outcome State Fault Refusal :=
  .next ((s.modCtx (ctxOf s.cur) (fun c => { c with tbl4 := s.me.rg b ++ s.me.rg a })).retireWith s.cur id)

end Sys2Proof.Machine
end

