-- ==== Sys2Proof/Machine/Sched.lean ====
section
/-! DEFINITION. The decisions of the gang scheduler: eligibility (R122), the waiting order and the offer of free tiles (R123, R128), victims
(R115, R121, R124, R129), and when a gang is blocked or has stopped (R114, R116, R219). -/

namespace Sys2Proof.Machine

/-! ### Gangs and their tiles (R106, R111) -/

/-- Handles of the jobs that are live. -/
def State.liveJobs (s : State) : List Nat := (s.jobs.filter (fun p => p.2.phase == .live)).map (·.1)

/-- The gangs of the live jobs whose size is fixed, by handle and number, that this module runs. -/
def State.allGangs (s : State) : List (Nat × Nat) :=
  (s.liveJobs.map (fun h => if (s.job h).g = 0 then [] else ((List.range (s.job h).gangCount).filter (fun n => (tableGet none (s.job h).away n).isNone)).map (fun n => (h, n)))).flatten

def State.gangAt (s : State) (id : Nat × Nat) : Gang := s.gang id.1 id.2
def State.gangSize' (s : State) (id : Nat × Nat) : Nat := (s.job id.1).members id.2
def State.gangTenant (s : State) (id : Nat × Nat) : Nat := (s.job id.1).tenant

/-- A gang holds its tiles (R128). -/
def GangState.holds (g : GangState) : Bool := g == .resident || g == .loading || g == .stopping

/-- A tenant's share in tiles (R128). -/
def State.share (s : State) (tenant : Nat) : Nat :=
  ((s.allGangs.filter (fun id => s.gangTenant id == tenant && (s.gangAt id).state.holds)).map s.gangSize').foldl (· + ·) 0

/-- A tile the scheduler may place a context on: in the pool, in service, and held by nothing (R29, R53, R113). -/
def Tile.free (t : Tile) : Bool := t.code == 0#4 && t.usedBy.isNone && !t.emergency

/-- The free tiles: those the scheduler prefers first, then in increasing PTID (R123 takes any). -/
def State.freeTiles (s : State) : List Nat :=
  (s.sched.placeOrder.dedup.filter (fun p => decide (p < 1024) && (s.tile p).free))
    ++ (List.range 1024).filter (fun p => (s.tile p).free && !s.sched.placeOrder.contains p)

/-! ### Deficits (R128) -/

/-- A tenant has held some tiles for the last `d` ticks up to now. -/
def Tenant.book (t : Tenant) (now : Int) (d k : Nat) : Tenant :=
  match t.delivered with
  | (a, b, m) :: r => if b = now - d ∧ m = k then { t with delivered := (a, now, m) :: r } else { t with delivered := (now - d, now, k) :: (a, b, m) :: r }
  | [] => { t with delivered := [(now - d, now, k)] }

/-- The shares of all tenants have held for the last `d` ticks (R128). -/
def State.bookShares (s : State) (d : Nat) : State :=
  ((s.allGangs.filter (fun id => (s.gangAt id).state.holds)).map s.gangTenant).dedup.foldl (fun x n =>
    x.modTen n (fun t => t.book s.ticks d (s.share n))) s

/-- The tile-ticks delivered in the last second are counted, and older stretches forgotten (R128). -/
def Tenant.count (t : Tenant) (now : Int) : Tenant :=
  let since : Int := now - ticksOf 1000000000
  let l := t.delivered.filter (fun p => decide (since < p.2.1))
  { t with delivered := l, lastSecond := (l.map (fun p => (p.2.1 - max p.1 since).toNat * p.2.2)).foldl (· + ·) 0 }

/-- Tile-milliseconds delivered to a tenant over the last second, as of the last turn boundary. -/
def State.deliveredMs (s : State) (tenant : Nat) : Nat := (s.ten tenant).lastSecond / ticksOf 1000000

def State.deficit (s : State) (tenant : Nat) : Int := ((s.ten tenant).set.service : Int) - (s.deliveredMs tenant : Int)

/-! ### Blocked gangs (R114, R115) -/

/-- An engine of a context is busy (R114): a command that has not completed, held under a guard or not. -/
def Ctx.engineBusy (c : Ctx) : Bool := !c.running.isEmpty || [0, 4, 5, 6, 8].any (fun q => !(c.cmdList q).isEmpty)

/-- A gang is fully blocked (R114). -/
def State.fullyBlocked (s : State) (h n : Nat) : Bool :=
  (s.members h n).all (fun c => !(s.ctx c).engineBusy && (List.range 16).all (fun i =>
    let st := s.strand (strandKey c i)
    st.state == .inactive || st.state == .exited || st.blocked))

/-- Keep the time since which a resident gang has been fully blocked; `broke` says that it was not so before the slot (R115). -/
def State.noteBlocked (s : State) (h n : Nat) (broke : Bool) : State :=
  s.modGang h n (fun g => { g with blockedSince :=
    if g.state == .resident && s.fullyBlocked h n then
      (match g.blockedSince with | some t => if broke then some s.ticks else some t | none => some s.ticks)
    else none })

/-! ### Eligible gangs (R122) -/

/-- The condition of a wait a stop has cancelled holds, or the wait must be tried again (R122). -/
def State.cutReady (s : State) (key : Nat) (w : Wait) : Bool :=
  let c := s.ctx (ctxOf key)
  match w with
  | .recv cls => !(tableGet [] c.inbox cls).isEmpty
  | .idle t => s.hasWord key || decide (t.toNat ≤ s.time)
  | .push q => decide ((if isCommandQueue q then (c.cmdList q).length else (c.rowList q).length) < queueDepth q)
  | .pop q => !(c.rowList q).isEmpty
  | .lease => c.lease.holder.isNone || c.lease.holder == some (stridOf key)
  | .stepMark => false
  | _ => true

/-- A strand of a gang that is not resident is ready, waits again, or has a STEPI pending (R122). -/
def State.canGoOn (s : State) (key : Nat) : Bool :=
  let st := s.strand key
  if st.held.isSome then false
  else match st.state with
    | .halted => st.stepi.isSome
    | .ready =>
      (match st.wait with
       | .pegw i ph _ => let p := (s.ctx (ctxOf key)).peg i; st.pegfreed || !p.live || p.phase != ph
       | _ => s.cutReady key st.cut)
    | _ => false

/-- A matrix command could make progress: it does not wait for a row or for room (R122). -/
def Ctx.matrixReady (c : Ctx) (i : Instr) : Bool :=
  match i with
  | .mwload _ _ _ _ => !(c.rowList 1).isEmpty
  | .mstream _ _ _ _ _ => !(c.rowList 2).isEmpty
  | .mdrain _ _ _ _ _ dq _ _ _ => dq == 1#1 || decide ((c.rowList 3).length < queueDepth 3)
  | _ => true

/-- The command at the head of a context's q6 does not wait for other contexts of its operation (R122, R415). -/
def State.trussReady (s : State) (ctx : Nat) : Bool :=
  match s.headInstr ctx 6 with
  | none => false
  | some p => (trussShape p.2).isNone || (s.trussHeads ctx).all (fun t => t.head.isSome)

/-- An engine command of a context could make progress on resumption (R122). -/
def State.engineReady (s : State) (ctx : Nat) : Bool :=
  let c := s.ctx ctx
  c.running.any (fun r => r.queue != 0) || [4, 5, 8].any (fun q => (s.headInstr ctx q).isSome) || s.trussReady ctx
    || c.running.any (fun r => r.queue == 0 && c.matrixReady (s.entryInstr ctx 0 r.entry))
    || (match s.headInstr ctx 0 with | some p => c.matrixReady p.2 | none => false)

/-- A gang that is not resident is eligible (R122). -/
def State.eligible (s : State) (id : Nat × Nat) : Bool :=
  let g := s.gangAt id
  match g.state with
  | .pending => true
  | .swapped =>
    !g.frozen && (!g.park.isEmpty || (s.members id.1 id.2).any (fun c =>
      let x := s.ctx c
      (x.live && (!x.inflight.isEmpty || !x.posted.isEmpty || x.running.any (fun r => !r.rows.isEmpty) || s.engineReady c
        || (List.range 16).any (fun i => s.canGoOn (strandKey c i))))))
  | _ => false

/-! ### The waiting order (R123) -/

/-- A list in increasing order of keys. -/
def inOrder (key : α → List Nat) (l : List α) : List α :=
  let insert (x : α) (r : List α) : List α := r.takeWhile (fun y => !lexLt (key x) (key y)) ++ x :: r.dropWhile (fun y => !lexLt (key x) (key y))
  l.foldl (fun r x => insert x r) []

/-- A number that rises with an integer. -/
def upKey (x : Int) : Nat := (2 ^ 64 + x).toNat

/-- The key of a waiting gang (R123): PRIO 7 first, then gangs marked first, then the time of becoming eligible, handle, number. -/
def State.waitKey (s : State) (id : Nat × Nat) : List Nat :=
  let g := s.gangAt id
  [7 - recPrio (s.job id.1).record, if g.first then 0 else 1, upKey (g.eligibleAt.getD s.ticks), id.1, id.2]

/-- The first waiting gang of a tenant. -/
def State.firstWaiting (s : State) (tenant : Nat) : Option (Nat × Nat) :=
  smallest s.waitKey (s.allGangs.filter (fun id => s.gangTenant id == tenant && !(s.job id.1).saveHalted && s.eligible id))

/-! ### The offer of tiles (R128) -/

/-- A number that falls as an integer rises. -/
def downKey (x : Int) : Nat := (2 ^ 64 - x).toNat

/-- The tenants with a waiting gang, in the order in which tiles are offered (R128). -/
def State.offerOrder (s : State) : List Nat :=
  inOrder (fun n => if s.share n < (s.ten n).set.min then [0, 0, n] else [1, downKey (s.deficit n), n])
    ((List.range 16).filter (fun n => (s.firstWaiting n).isSome))

/-- A gang fits on `free` tiles within its tenant's MAX, `less` of whose tiles are given back. -/
def State.fits (s : State) (id : Nat × Nat) (free less : Nat) : Bool :=
  decide (s.gangSize' id ≤ free) && decide (s.share (s.gangTenant id) - less + s.gangSize' id ≤ s.maxOf (s.gangTenant id))

/-- The gang that takes the free tiles (R123, R128). -/
def State.nextPlace (s : State) : Option (Nat × Nat) :=
  (s.offerOrder.filterMap s.firstWaiting).find? (fun id => s.fits id s.freeTiles.length 0)

/-! ### The scheduler area (R116, R121, R130, R229) -/

/-- The packets on their way to a context that have ended (R117, R230). -/
def Ctx.inTransit (c : Ctx) : List InPacket := c.inflight ++ c.ended?

/-- In-flight words of a context: headers and payload (R230). -/
def Ctx.flightWords (c : Ctx) : Nat := (c.inTransit.map (fun p => 1 + p.words.length)).foldl (· + ·) 0

/-- Bytes of a context record (R229). -/
def State.recordBytes (s : State) (ctx : Nat) : Nat :=
  let c := s.ctx ctx
  if c.retired then 65536 else roundUp (0x68008 + 8 * c.flightWords) 65536 + 131072 + s.extent ctx

/-- The scheduler area in bytes, and what images and park queues take of it. -/
def State.areaBytes (s : State) : Nat := (s.sched.eff.schlim.toNat - s.sched.eff.schbase.toNat) * 65536
def State.areaUsed (s : State) : Nat :=
  (s.allGangs.map (fun id =>
    let g := s.gangAt id
    (if g.state == .swapped || g.state == .stopping then imageBytes (s.gangSize' id) (recExtent (s.job id.1).record) else 0)
      + (if g.parkAlloc then s.parkCap else 0))).foldl (· + ·) 0

/-- What a gang's image and park queue will take of the area. -/
def State.areaNeed (s : State) (id : Nat × Nat) : Nat :=
  imageBytes (s.gangSize' id) (recExtent (s.job id.1).record) + (if (s.gangAt id).parkAlloc then 0 else s.parkCap)

/-- The area can take the images and park queues of some gangs together (R121). -/
def State.areaRoom (s : State) (ids : List (Nat × Nat)) : Bool :=
  decide (s.areaUsed + (ids.map s.areaNeed).foldl (· + ·) 0 ≤ s.areaBytes)

/-! ### Victims (R115, R124, R129) -/

/-- A gang has a truss operation in progress (R418). -/
def State.trussBusy (s : State) (h n : Nat) : Bool := (s.members h n).any s.trussHolds

/-- A context of a gang is being moved. -/
def State.movingGang (s : State) (h n : Nat) : Bool :=
  s.moves.any (fun m => (s.members h n).contains m.ctx || (match m.other with | some o => (s.members h n).contains o | none => false))

/-- A resident gang may be swapped out now (R121, R124). -/
def State.mayLeave (s : State) (id : Nat × Nat) : Bool :=
  (s.gangAt id).state == .resident && !s.trussBusy id.1 id.2 && s.areaRoom [id] && !(s.job id.1).saveHalted && !(s.job id.1).restored

/-- Resident for at least MINRES (R124). -/
def State.overMinres (s : State) (g : Gang) : Bool := decide (g.residentAt + ticksOf (1000 * s.sched.eff.minres.toNat) ≤ s.ticks)

/-- Fully blocked past IDLESWAP; 0 disables idle swaps (R115, R130). -/
def State.overIdle (s : State) (g : Gang) : Bool :=
  s.sched.eff.idleswap != 0#16 && (match g.blockedSince with
    | some t => decide (t + ticksOf (1000 * s.sched.eff.idleswap.toNat) ≤ s.ticks)
    | none => false)

/-- A list without its later copies. -/
def firsts (l : List (Nat × Nat)) : List (Nat × Nat) := l.foldl (fun r v => if r.contains v then r else r ++ [v]) []

/-- The victims of rank 1, of any tenant, and of ranks 2 and 3, which a waiting gang may take, in order (R124); rank 3 at a turn boundary. -/
def State.rankOne (s : State) : List (Nat × Nat) :=
  inOrder (fun v => [(s.gangAt v).blockedSince.getD 0]) (s.allGangs.filter (fun v => s.mayLeave v && s.overIdle (s.gangAt v)))

def State.lowRanks (s : State) (id : Nat × Nat) (turn : Bool) : List (Nat × Nat) :=
  let prio := recPrio (s.job id.1).record
  let mine := s.allGangs.filter (fun v => s.mayLeave v && s.gangTenant v == s.gangTenant id)
  inOrder (fun v => [recPrio (s.job v.1).record, (s.gangAt v).residentAt])
      (mine.filter (fun v => decide (recPrio (s.job v.1).record < prio) && s.overMinres (s.gangAt v)))
    ++ (if turn then inOrder (fun v => [(s.gangAt v).residentAt])
        (mine.filter (fun v => decide (s.sched.eff.quantum.toNat ≤ (s.gangAt v).turnsResident) && s.overMinres (s.gangAt v)))
      else [])

/-- Tiles of gangs that already leave for a tenant's waiting gang, and those of the tenant's own among them. -/
def State.leavers (s : State) (tenant : Nat) : List (Nat × Nat) :=
  s.allGangs.filter (fun v => (s.gangAt v).state == .stopping && (s.gangAt v).leavesFor == some tenant)
def State.tilesOf (s : State) (vs : List (Nat × Nat)) : Nat := (vs.map s.gangSize').foldl (· + ·) 0

/-- A waiting gang fits once some gangs have left, besides those that already leave for its tenant. -/
def State.fitsAfter (s : State) (id : Nat × Nat) (vs : List (Nat × Nat)) : Bool :=
  let all := s.leavers (s.gangTenant id) ++ vs
  s.fits id (s.freeTiles.length + s.tilesOf all) (s.tilesOf (all.filter (fun v => s.gangTenant v == s.gangTenant id)))

/-- The first run of candidates, each with room in the area, that makes a gang fit; none where all of them do not. -/
def State.takeVictims (s : State) (id : Nat × Nat) (taken vs : List (Nat × Nat)) : List (Nat × Nat) :=
  if s.fitsAfter id taken then taken
  else match vs with
    | [] => []
    | v :: t => s.takeVictims id (if s.areaRoom (taken ++ [v]) then taken ++ [v] else taken) t

/-- Victims that are not needed are spared, the last of them first (R124). -/
def State.spare (s : State) (id : Nat × Nat) (taken : List (Nat × Nat)) : List (Nat × Nat) :=
  taken.reverse.foldl (fun vs v => if s.fitsAfter id (vs.filter (fun w => w != v)) then vs.filter (fun w => w != v) else vs) taken

/-- The tiles that victims free would be offered to the waiting gang's tenant: no tenant before it in the order of R128 can take them. -/
def State.offeredTo (s : State) (id : Nat × Nat) (vs : List (Nat × Nat)) : Bool :=
  (s.offerOrder.takeWhile (fun n => n != s.gangTenant id)).all (fun n =>
    match s.firstWaiting n with
    | some w => !s.fits w (s.freeTiles.length + s.tilesOf (s.leavers (s.gangTenant id) ++ vs))
        (s.tilesOf (vs.filter (fun v => s.gangTenant v == n)))
    | none => true)

/-- The victims of the moment for the first waiting gang of a tenant (R124). -/
def State.victims (s : State) (tenant : Nat) (turn : Bool) : List (Nat × Nat) :=
  match s.firstWaiting tenant with
  | none => []
  | some id =>
    if s.fitsAfter id [] then []
    else
      let r1 := s.rankOne
      let low := s.lowRanks id turn
      let vs := s.spare id (s.takeVictims id [] (firsts (r1 ++ low)))
      if vs.all (fun v => !r1.contains v) || s.offeredTo id vs then vs else s.spare id (s.takeVictims id [] (firsts low))

/-- The victims of R129 for a tenant below MIN: other tenants' gangs past MINRES, of the lowest deficit first; a tenant keeps its MIN. -/
def State.preemptFor (s : State) (id : Nat × Nat) (taken : List (Nat × Nat)) (fuel : Nat) : List (Nat × Nat) :=
  match fuel with
  | 0 => []
  | fuel + 1 =>
    if s.fitsAfter id taken then taken
    else
      let held := fun (m : Nat) => s.share m - s.tilesOf (taken.filter (fun v => s.gangTenant v == m))
      match smallest (fun v => [upKey (s.deficit (s.gangTenant v)), (s.gangAt v).residentAt])
          (s.allGangs.filter (fun v => !taken.contains v && s.gangTenant v != s.gangTenant id && s.mayLeave v && s.areaRoom (taken ++ [v])
            && s.overMinres (s.gangAt v) && decide ((s.ten (s.gangTenant v)).set.min < held (s.gangTenant v)))) with
      | none => []
      | some v => s.preemptFor id (taken ++ [v]) fuel

/-- The gangs swapped out at a turn boundary for tenants below MIN (R129): for a tenant whose share is below MIN, also where its waiting gang
takes it above MIN: the model's choice (log 58). -/
def State.preempted (s : State) (tenant : Nat) : List (Nat × Nat) :=
  match s.firstWaiting tenant with
  | none => []
  | some id => if s.share tenant < (s.ten tenant).set.min then s.preemptFor id [] s.allGangs.length else []

/-- Gangs enter STOPPING, for a tenant's waiting gang or for no one (R116). -/
def State.stopAll (s : State) (for' : Option Nat) (vs : List (Nat × Nat)) : State :=
  vs.foldl (fun x v =>
    if (x.gangAt v).state = .resident then (x.stopGang v.1 v.2 .swap false).modGang v.1 v.2 (fun g => { g with leavesFor := for' }) else x) s

/-- The victims of the moment leave (R124): scheduler work. -/
def State.evict (s : State) (tenant : Nat) (turn : Bool) : State := (s.stopAll (some tenant) (s.victims tenant turn)).overheadFor 2

/-! ### Stopped gangs (R116, R219, R221) -/

/-- Every strand of a context has stopped; a retired context has none. -/
def State.ctxStopped (s : State) (ctx : Nat) : Bool :=
  !(s.ctx ctx).live || (List.range 16).all (fun i => (s.strand (strandKey ctx i)).stopped)

/-- The engines of a context have reached their stop points: no write is in flight, and a drain to memory is at the end of a row or waits at a
chunk (R221, R407). -/
def State.enginesStopped (s : State) (ctx : Nat) : Bool :=
  (s.ctx ctx).running.all (fun r => r.late.isEmpty && (r.rows.isEmpty || r.waitSince.isSome || r.queue != 0 ||
    (match s.entryInstr ctx 0 r.entry with | .mdrain _ _ _ _ _ dq _ _ _ => dq != 1#1 | _ => true)))

/-- A gang has reached its stop points. -/
def State.gangStopped (s : State) (h n : Nat) : Bool :=
  (s.members h n).all (fun c => s.ctxStopped c && s.enginesStopped c) && !s.trussBusy h n && !s.movingGang h n

/-- The strands of a context go on (R219). -/
def State.resumeCtx (s : State) (ctx : Nat) : State :=
  (List.range 16).foldl (fun x i => x.modStrand (strandKey ctx i) (fun st => st.resume s.cycle)) s

/-! ### Waking (R47, R49) -/

/-- Entry delay and exit latency of a power state in ns (R47). -/
def stateTimes (n : Nat) : Nat × Nat :=
  match n with
  | 0 => (0, 0)
  | 1 => (1000, 2000)
  | 2 => (100000, 40000)
  | 3 => (10000000, 3000000)
  | _ => (10000000000, 2000000000)

/-- The part leaves its power state; its first instruction issues, and its first record is fetched, after the exit latency (R47, R49). A wake
event that leaves the part idle starts the time from which entry delays count anew: the model's choice (log 38). Exit from L4 repeats the
calibration of bring-up, and a failure has its effect there (R43, R47). -/
def State.wake (s : State) : State :=
  if s.status.pstate = 0#3 then { s with power := { s.power with idleSince := none } }
  else
    let lam := (stateTimes s.status.pstate.toNat).2 * 17 / 10
    let failed := s.status.pstate == 4#3 && s.env.calFail
    { s with
      status := { s.status with pstate := 0#3, calerr := s.status.calerr || failed, ready := s.status.ready && !failed }
      bootStopped := s.bootStopped || failed
      power := { s.power with idleSince := none, awakeAt := Nat.max s.power.awakeAt (s.cycle + lam) } }

end Sys2Proof.Machine
end

