-- ==== Sys2Proof/Machine/Image.lean ====
section
/-! DEFINITION. The bytes of gang images (R228–R231), of translation-table entries (R108), and of a SAVE image (R232). Where the spec gives a
part of an image no layout its bytes are free (log 10). -/

namespace Sys2Proof.Machine

/-! ### Blocks of bytes -/

/-- A run of bytes of a block: where it begins, how many bytes it has, and its value, little-endian; none where the spec gives no layout. -/
structure Piece where
  off : Nat
  len : Nat
  val : Option Nat
deriving DecidableEq, Repr

/-- 64-bit words from an offset on, and rows of 256 bytes. -/
def wordsAt (off : Nat) (ws : List Word) : List Piece := ws.zipIdx.map (fun p => ⟨off + 8 * p.2, 8, some p.1.toNat⟩)
def rowsAt (off : Nat) (rs : List Row) : List Piece := rs.zipIdx.map (fun p => ⟨off + 256 * p.2, 256, some p.1.toNat⟩)

/-- A byte of a block: of its piece, zero outside every piece (reserved), free where no layout is given. -/
def blockByte (ps : List Piece) (free i : Nat) : Byte :=
  match ps.find? (fun p => decide (p.off ≤ i) && decide (i < p.off + p.len)) with
  | none => 0#8
  | some p =>
    match p.val with
    | some v => BitVec.ofNat 8 (v / 256 ^ (i - p.off))
    | none => Config.imageByte free i

def blockBytes (ps : List Piece) (free n : Nat) : List Byte := (List.range n).map (blockByte ps free)

/-- Bytes up to a length, those that are missing free. -/
def padded (bs : List Byte) (free n : Nat) : List Byte := bs ++ ((List.range n).drop bs.length).map (Config.imageByte (free + 1))

/-! ### Strand blocks (R231) -/

/-- The number of a state of R147 in STATE. -/
def StrandState.number (x : StrandState) : Nat :=
  match x with
  | .inactive => 0
  | .ready => 1
  | .memwait => 2
  | .msgwait => 3
  | .engwait => 4
  | .halted => 5
  | .exited => 6

/-- The state in which a strand waited whose wait a stop has cancelled: its image holds it, and a restore makes the strand READY (R231, R429). -/
def Wait.state (w : Wait) : Option Nat :=
  match w with
  | .fullEmpty | .waitForm | .refused | .window | .noPark _ | .hostPort _ _ | .locked | .fence | .lookahead | .behindWait | .locks | .icache _ | .timed =>
    some StrandState.memwait.number
  | .recv _ | .send | .idle _ => some StrandState.msgwait.number
  | .push _ | .pop _ | .lease | .pegw _ _ _ | .stepMark | .ashape _ _ => some StrandState.engwait.number
  | .none => Option.none

/-- STATE: the state, the held fault's cause and PEND. -/
def Strand.stateWord (st : Strand) : Nat :=
  (match st.cut.state with | some n => n | none => st.state.number) + (match st.held with | some (c, _) => 8 + 16 * (c.toNat % 128) | none => 0) + (if st.pend.isSome then 2048 else 0)

/-- SYNCST. -/
def Strand.syncWord (st : Strand) : Nat :=
  st.stepk.toNat + (if st.arrived then 2 ^ 32 else 0) + (if st.pegfreed then 2 ^ 33 else 0)

def Loops.words (l : Loops) : List Word := [l.lb0, l.le0, l.lc0, l.lb1, l.le1, l.lc1]

/-- The pieces of a strand block. -/
def Strand.pieces (st : Strand) : List Piece :=
  wordsAt 0 ((List.range 32).map (fun r => st.rg (BitVec.ofNat 5 r)))
  ++ (List.range 8).map (fun r => ⟨0x100 + 32 * r, 32, some (st.rk (BitVec.ofNat 3 r)).toNat⟩)
  ++ wordsAt 0x200 (st.loops.words ++ [zext st.lstat])
  ++ wordsAt 0x240 st.shadow.words
  ++ wordsAt 0x280 [st.pc, st.trap.tvec, st.trap.tpc, zext st.trap.tcause, st.trap.tval, st.trap.tstat, zext st.fflags, zext st.frm, zext st.fen,
      st.joint.stat, st.spbase, st.splim, st.spovf]
  ++ [⟨0x2E8, 8, some st.stateWord⟩, ⟨0x2F0, 8, some st.pendflags.toNat⟩,
      ⟨0x2F8, 8, some (match st.held with | some (_, v) => v.toNat | none => 0)⟩, ⟨0x300, 8, some st.syncWord⟩]
  ++ rowsAt 0x400 ((List.range 16).map (fun r => st.rv (BitVec.ofNat 4 r)))

/-! ### Tile blocks (R230) -/

/-- The lease word: holder, held, pushes of the term, and the mask of waiting strands. -/
def Lease.word (l : Lease) : Nat :=
  (match l.holder with | some h => h + 16 | none => 0) + 32 * l.pushes + 4096 * l.waiters.toNat

/-- The words of in-flight packets, headers first, in arrival order (R117). -/
def Ctx.flight (c : Ctx) : List Word := c.inTransit.flatMap (fun p => (match p.hdr with | some h => [h] | none => []) ++ p.words)

/-- The kind of an accumulator row in bits [63:62] of its column-0 entry. -/
def AccKind.number (k : AccKind) : Nat :=
  match k with
  | .fp32 => 0
  | .fp64 => 1
  | .residue => 2

/-- The commands of a queue, head first; the places that hold none are free (log 10). -/
def Ctx.commandPieces (c : Ctx) (off n q : Nat) : List Piece :=
  (List.range n).map (fun i => ⟨off + 32 * i, 32, ((c.cmdList q)[i]?).map (fun e => e.word.toNat)⟩)

/-- The pieces of a tile block. The spec gives the peg pool, the progress records, the positions of queues, weight buffers and accumulator entries
by size alone. -/
def Ctx.pieces (c : Ctx) (vtid : Nat) : List Piece :=
  wordsAt 0 [BitVec.ofNat 64 (vtid + if c.retired then 65536 else 0), c.turns, zext c.mcb, zext c.ashape, c.guardsCsr, BitVec.ofNat 64 c.lease.word,
      fieldAt 0 64 c.tbl4, fieldAt 64 64 c.tbl4, c.inboxCsr, BitVec.ofNat 64 c.trussBuf.length]
  ++ [⟨0x100, 512, none⟩, ⟨0x300, 512, none⟩, ⟨0x500, 64, none⟩, ⟨0x540, 64, none⟩, ⟨0x580, 128, none⟩]
  ++ wordsAt 0x800 (c.locks.map (fun l => BitVec.ofNat 64 (256 * l)))
  ++ (List.range 8).flatMap (fun k => wordsAt (0x1000 + 512 * k) ((tableGet [] c.inbox k).map InWord.word))
  ++ c.commandPieces 0x2000 16 0 ++ c.commandPieces 0x2200 16 4 ++ c.commandPieces 0x2400 16 8 ++ c.commandPieces 0x2600 8 5
  ++ c.commandPieces 0x2700 8 6
  ++ rowsAt 0x4000 (c.rowList 1) ++ rowsAt 0x8000 (c.rowList 2) ++ rowsAt 0xC000 (c.rowList 3) ++ rowsAt 0x10000 (c.rowList 9)
  ++ rowsAt 0x14000 (c.rowList 7) ++ rowsAt 0x15000 c.trussBuf
  ++ [⟨0x18000, 65536, none⟩, ⟨0x28000, 262144, none⟩]
  ++ wordsAt 0x68000 (BitVec.ofNat 64 c.flight.length :: c.flight)

/-- A tile block: a byte of the accumulator file with a row's kind has the kind in its two high bits. -/
def Ctx.tileByte (c : Ctx) (ps : List Piece) (free i : Nat) : Byte :=
  let b := blockByte ps free i
  if 0x28000 ≤ i ∧ i < 0x68000 ∧ (i - 0x28000) % 512 = 7 then
    BitVec.ofNat 8 (b.toNat % 64 + 64 * (tableGet AccKind.fp32 c.kinds ((i - 0x28000) / 512)).number)
  else b

/-! ### Context records and gang images (R228, R229) -/

/-- The record of a context. -/
def State.contextImage (s : State) (ctx free : Nat) : List Byte :=
  let c := s.ctx ctx
  if c.retired then blockBytes [⟨0, 8, some (vtidOf ctx + 65536)⟩] free 65536
  else
    let n := 0x68008 + 8 * c.flight.length
    padded ((List.range n).map (c.tileByte (c.pieces (vtidOf ctx)) free)) free (roundUp n 65536)
      ++ padded ((List.range 16).flatMap (fun i => blockBytes (s.strand (strandKey ctx i)).pieces free 5120)) free 131072
      ++ (List.range (s.extent ctx)).map (fun i => s.byteAt (.spm ctx i))

/-- The gang header but for its digest. -/
def State.headerPieces (s : State) (h n len : Nat) : List Piece :=
  let j := s.job h
  let g := s.gang h n
  wordsAt 0 [0x0000000001030001#64, BitVec.ofNat 64 h, BitVec.ofNat 64 (n + j.members n * 4294967296), BitVec.ofNat 64 j.g, BitVec.ofNat 64 g.mark,
    BitVec.ofNat 64 (g.energy + if g.sat then 2 ^ 48 else 0), zext (recEnergy j.record), BitVec.ofNat 64 len]

/-- The image of a gang, its digest included. -/
def State.gangImage (s : State) (h n free : Nat) : List Byte :=
  let body := (s.members h n).flatMap (fun c => s.contextImage c free)
  let head := blockBytes (s.headerPieces h n (65536 + body.length)) free 4064
  let rest := ((List.range 65536).drop 4096).map (Config.imageByte (free + 1)) ++ body
  head ++ digestBytes (sm3 (head ++ rest)) ++ rest

/-- The bytes of the image of a gang at mark `k`. -/
def State.markImage (s : State) (h n k : Nat) : List Byte := (s.modGang h n (fun g => { g with mark := k })).gangImage h n s.free

/-- The bytes of an image are written into slot k mod 2 of a gang's buddy slots, line by line (R139, R140). -/
def State.writeSlot (s : State) (h n k : Nat) (bs : List Byte) : State :=
  let e := s.rangeEntry (recBudsel (s.job h).record)
  let a := s.slotAt h n (k % 2)
  if !e.valid then s
  else (List.range ((bs.length + 255) / 256)).foldl
    (fun x i => x.engPut (.rim (e.place (a + 256 * i)) false) ((bs.drop (256 * i)).take 256) 0 hostWriter) s

/-! ### The SAVE image (R108, R232) -/

/-- An entry of a translation table (R108). -/
def XltEntry.bits (e : XltEntry) : Nat :=
  e.ptid % 1024 + (if e.res then 1024 else 0) + (if e.move then 2048 else 0) + (if e.drain then 4096 else 0) + (if e.done then 8192 else 0)

/-- Bytes of a job's part of section 6: its scheduler record, of a size the spec does not give, its table, its park queues, of a size the spec does
not give either, and its images. -/
def State.jobImage (s : State) (h free : Nat) : List Byte :=
  let j := s.job h
  let t := roundUp (4 * recTiles j.record) 65536
  (List.range (65536 * Config.jobSection free (2 * h))).map (Config.imageByte (free + 2))
    ++ blockBytes ((List.range (recTiles j.record)).map (fun v => ⟨4 * v, 4, some (j.entry v).bits⟩)) free t
    ++ (List.range (65536 * Config.jobSection free (2 * h + 1))).map (Config.imageByte (free + 4))
    ++ ((List.range j.gangCount).filter (fun n => (j.gang n).state != .retired && (tableGet none j.away n).isNone)).flatMap (fun n => s.gangImage h n free)

/-- The fields of the device header: the layout version, the firmware versions of the running slot, STATUS.POOL and TIME, in words in that order,
since R232 gives no offsets (log 10). -/
def State.devicePieces (s : State) : List Piece :=
  let v := if s.laroon.slot = some 2 then s.laroon.slotB.images else s.laroon.slotA.images
  wordsAt 0 ([1#64] ++ v.map (BitVec.ofNat 64) ++ [zext s.status.pool, BitVec.ofNat 64 s.time])

/-- The image of the part: the device header and sections 1 to 5, the jobs in the order of their handles, and the trailer, which ends it with the
length and the SM3 digest of every byte before it. -/
def State.partImage (s : State) (free n : Nat) : List Byte :=
  let head := blockBytes s.devicePieces (free + 3) 4096
  let body := (head ++ ((List.range (65536 * (Config.sections free).toNat)).drop 4096).map (Config.imageByte (free + 3))
    ++ (inOrder (fun h => [h]) s.liveJobs).flatMap (fun h => s.jobImage h free)).take (n - 64)
  body ++ (List.range 8).map (fun i => BitVec.ofNat 8 (n / 256 ^ i)) ++ digestBytes (sm3 body) ++ List.replicate 24 0#8

end Sys2Proof.Machine
end

