-- ==== Sys2Proof/Machine/Residency.lean ====
section
/-! DEFINITION. A gang becomes resident and leaves (R105, R112, R115–R118, R124): placing, loading, swap-out, and the delivery of parked
messages. -/

namespace Sys2Proof.Machine

/-! ### Gang size of jobs accepted without tiles (R105) -/

/-- G is fixed for a job whose tenant is granted tiles for the first time. -/
def State.fixSize (s : State) (h : Nat) : State :=
  let j := s.job h
  if j.g = 0 then
    let g := s.gangSize j.tenant (recGlog j.record)
    if g = 0 then s
    else
      let j1 := { j with g := g, gangs := [] }
      s.setJob h { j1 with gangs := (List.range j1.gangCount).foldl (fun t k => tableSet {} t k { eligibleAt := some (s.ticks : Int) }) [] }
  else s

def State.fixSizes (s : State) : State := s.liveJobs.foldl State.fixSize s

/-! ### Placing and setting up (R99, R112, R123, R153) -/

/-- The entry PC of a job (R98). -/
def entryPc (r : BitVec 1024) : Word := handleVa (recCode r) + BitVec.ofNat 64 (recEntry r)

/-- A strand of a context at launch (R99, R153). -/
def launchStrand (r : BitVec 1024) (vtid i readyAt : Nat) : Strand :=
  let ext := recExtent r
  let sp := recSpill r
  let st : Strand := {
    spbase := BitVec.ofNat 64 (ext - (i + 1) * sp)
    splim := BitVec.ofNat 64 (ext - i * sp)
    spovf := if recOvf r = 0#64 then 0#64 else recOvf r + BitVec.ofNat 64 ((16 * vtid + i) * recOvfStride r) }
  if bitAt i (recSmask r) then st.start (BitVec.ofNat 64 i) (recArg r) (entryPc r) readyAt else st

/-- A context at launch (R99). -/
def State.setupCtx (s : State) (h v : Nat) : State :=
  let r := (s.job h).record
  (List.range 16).foldl (fun x i => x.setStrand (strandKey (ctxKey h v) i) (launchStrand r v i (s.cycle + 1)))
    (s.setCtx (ctxKey h v) { live := true, mcb := recMcb r })

/-- Place contexts on tiles, in order. -/
def State.assign (s : State) (cs ps : List Nat) : State :=
  (cs.zip ps).foldl (fun x p =>
    ((x.modTile p.2 (fun t => t.host p.1)).modJob (jobOf p.1) (fun j =>
      j.setEntry (vtidOf p.1) { j.entry (vtidOf p.1) with ptid := p.2 })).invalidate p.1) s

/-- GANG_PLACE (R105, R112, R123, R128): the first waiting gang that is offered tiles and fits is granted them. -/
def execGangPlace (s : State) : Host.Outcome State Fault Refusal :=
  let s0 := s.fixSizes
  match s0.nextPlace with
  | none => .next s0
  | some id => .next (((s0.assign (s0.members id.1 id.2) s0.freeTiles).modGang id.1 id.2 (fun g => { g with state := .loading, since := s.ticks })).overheadFor 2)

/-! ### Loading (R112, R117, R118, R225, R422) -/

/-- No context of the gang has run yet: it is loaded as at launch. -/
def State.fresh (s : State) (h n : Nat) : Bool := (s.members h n).all (fun c => !(s.ctx c).live && !(s.ctx c).retired)

/-- Instruction-cache locks are re-established on the tile that hosts a context (R112, R178). -/
def State.relock (s : State) (ctx : Nat) : State := (s.ctx ctx).locks.foldl (fun x l => x.fillLine ctx l true) s

/-- Flags that waited in PENDFLAGS are merged (R225). -/
def State.mergePending (s : State) (ctx : Nat) : State :=
  (List.range 16).foldl (fun x i =>
    let k := strandKey ctx i
    let f := (x.strand k).pendflags
    if f = 0#6 then x else (x.modStrand k (fun st => { st with pendflags := 0#6 })).mergeFlags k f) s

/-- Bank rows that waited enter q9 (R422). -/
def State.deliverBank (s : State) (ctx : Nat) : State :=
  (s.ctx ctx).running.foldl (fun x r =>
    if r.queue = 8 ∧ r.rows ≠ [] then
      let o := x.offerBank ctx r.rows
      o.1.modRun ctx (r.entry.hdr 8) (fun y => { y with rows := o.2 })
    else x) s

/-- The parked engine arrivals of a gang, in park order (R225). -/
def State.deliverArrivals (s : State) (h n : Nat) : State :=
  let park := (s.gang h n).park
  let s1 := s.modGang h n (fun g => { g with park := park.filter (fun e => match e with | .arrival _ _ _ => false | _ => true) })
  park.foldl (fun x e => match e with
    | .arrival c i v => (x.pegArrive c i v).pegUnref c i
    | _ => x) s1

/-- Commands of a context no longer wait at a chunk, or for a row: they look again (R122, R167, R410). -/
def Ctx.rewait (c : Ctx) : Ctx := { c with running := c.running.map (fun r => { r with waitSince := none, hostSince := none, waitsOn := none, grant := [] }) }

/-- A context of a loaded gang, before any of its strands issues; the traffic of an image is charged to it (R246). -/
def State.restoreCtx (s : State) (image : Bool) (ctx : Nat) : State :=
  let s := if image && ((s.ctx ctx).live || (s.ctx ctx).retired) then s.charge ctx (trafficPj (s.recordBytes ctx)) else s
  if (s.ctx ctx).live then
    (((((s.dropProfile ctx)).modCtx ctx (fun c =>
      { c.rewait with staging := c.inflight ++ c.staging, inflight := [] })).relock ctx).mergePending ctx).deliverBank ctx
  else s

/-- The entries of a gang's contexts change together: each is written, and invalidated where it is cached (R109). -/
def State.setEntries (s : State) (cs : List Nat) (f : XltEntry → XltEntry) : State :=
  cs.foldl (fun x c => (x.modJob (jobOf c) (fun j => j.setEntry (vtidOf c) (f (j.entry (vtidOf c))))).invalidate c) s

/-- The gang becomes resident (R112). -/
def Gang.resident (g : Gang) (ticks : Nat) : Gang :=
  { g with state := .resident, residentAt := ticks, turnsResident := 0, pastMinres := false, blockedSince := none, eligibleAt := none,
           first := false, leavesFor := none }

/-- The strands of a context are held stopped (R145). -/
def State.holdCtx (s : State) (ctx : Nat) : State :=
  (List.range 16).foldl (fun x i => x.modStrand (strandKey ctx i) (fun st => { st with stopped := true, stopReq := false })) s

/-- A resident gang must leave a tile in a thermal emergency, and the scheduler area can take it (R53, R121). -/
def State.mustCool (s : State) (h n : Nat) : Bool :=
  (s.gang h n).state == .resident && !s.movingGang h n && (s.members h n).any (fun c => (s.tile (s.ptid c)).emergency && (s.ctx c).live)
    && s.areaRoom [(h, n)]

/-- A resident gang on a tile in a thermal emergency is stopped and swapped out (R53, R137). -/
def State.coolGang (s : State) (h n : Nat) : State := if s.mustCool h n then s.stopGang h n .thermal false else s

/-- The rest of a load, once the state of every context is placed: entries with RES = 1, DRAIN while messages are parked, and the strands
of a gang nothing holds stopped go on (R112, R118, R145); contexts that have nothing left to do retire (R113). -/
def State.becomeResident (s : State) (h n : Nat) (image : Bool) : State :=
  let cs := s.members h n
  let s1 := (s.modGang h n (fun g => g.resident s.ticks)).setEntries cs (fun e => { e with res := true, move := false })
  let s2 := (cs.foldl (fun x c => x.restoreCtx image c) s1).deliverArrivals h n
  let s3 := s2.setEntries cs (fun e => { e with drain := !(s2.gang h n).park.isEmpty })
  let s4 := if (s3.job h).restored || (s3.job h).saveHalted then cs.foldl State.holdCtx s3 else cs.foldl State.resumeCtx s3
  ((cs.foldl State.checkRetire (s4.progress h)).retireIfDone h n).coolGang h n

/-- GANG_LOADED (R112): from PENDING each context is set up as R99 states, from SWAPPED its image is reloaded. -/
def execGangLoaded (s : State) : Host.Outcome State Fault Refusal :=
  let h := s.input.handle
  let n := s.input.gang
  if (s.gang h n).state ≠ .loading then .next s
  else
    if s.fresh h n then .next (((s.members h n).foldl (fun x c => x.setupCtx h (vtidOf c)) s).becomeResident h n false)
    else .next (s.becomeResident h n true)

/-! ### Swap-out (R115, R116, R124) -/

/-- SWAP_OUT (R116): the victims of the moment enter STOPPING together (R124), and so does a gang that must leave a hot tile (R53); once a gang's
strands and engines have stopped, its entries are written with RES = 0, and from then on its messages park. A gang that a fault has stopped waits
on its tiles for room in the scheduler area (R121). -/
def execSwapOut (s : State) : Host.Outcome State Fault Refusal :=
  let h := s.input.handle
  let n := s.input.gang
  let g := s.gang h n
  if g.state = .resident then
    match (List.range 16).find? (fun t => (s.victims t false).contains (h, n)) with
    | some t => .next (s.evict t false)
    | none => .next (s.coolGang h n)
  else if g.state = .stopping ∧ g.reason ≠ .save ∧ s.gangStopped h n ∧ s.areaUsed ≤ s.areaBytes then
    .next ((s.setEntries (s.members h n) (fun e => { e with res := false, drain := false })).modGang h n (fun g => { g with parkAlloc := true, since := s.ticks }))
  else .next s

/-- IDLE_SWAP (R49, R115): a gang fully blocked past IDLESWAP is a victim of rank 1 for a gang that waits. -/
def execIdleSwap (s : State) : Host.Outcome State Fault Refusal :=
  let v := (s.input.handle, s.input.gang)
  if s.overIdle (s.gangAt v) then
    match (List.range 16).find? (fun t => (s.victims t false).contains v) with
    | some t => .next (s.evict t false).wake
    | none => .next s
  else .next s

/-- MINRES_EXPIRY (R49, R124): a resident gang has passed MINRES; as a victim of rank 2 it leaves at once. -/
def execMinresExpiry (s : State) : Host.Outcome State Fault Refusal :=
  let v := (s.input.handle, s.input.gang)
  if (s.gangAt v).state = .resident ∧ s.overMinres (s.gangAt v) then
    let s1 := s.modGang v.1 v.2 (fun g => { g with pastMinres := true })
    match (List.range 16).find? (fun t => (s1.victims t false).contains v) with
    | some t => .next (s1.evict t false).wake
    | none => .next s1
  else .next s

/-- Packets on their way to a context that is leaving: whole ones stay in its image in arrival order, those a sender holds open go on in
the park queue (R116, R117, R120). -/
def State.catchPackets (s : State) (ctx : Nat) : State :=
  let c := s.ctx ctx
  let s1 := s.modCtx ctx (fun c => { c with inflight := c.inTransit, staging := [] })
  (c.staging.filter (fun p => p.hdr.isNone)).foldl (fun x p => x.parkPut ctx (.packet p)) s1

/-- Waits at window words of a context that is leaving are returned and reissued: they park (R119, R207). -/
def State.parkWaiters (s : State) (ctx : Nat) : State :=
  let mine := s.waiters.filter (fun w => match w.acc.loc with | .spm c _ => c == ctx && ctxOf w.key != ctx | _ => false)
  mine.foldl (fun x w =>
    let y := ({ x with waiters := x.waiters.erase w }).parkPut ctx (.access ctx w)
    if (y.strand w.key).out.any (fun o => o.access == some w.acc) then y
    else if (y.strand w.key).wait = .fullEmpty ∨ (y.strand w.key).wait = .waitForm then y.block w.key .memwait .window else y) s

/-- Chunks of a context's commands that wait in park queues are discarded (R119, R410). -/
def State.dropChunks (s : State) (ctx : Nat) : State :=
  s.modJob (jobOf ctx) (fun j => { j with gangs := tableMap {} j.gangs (fun _ g =>
    { g with park := g.park.filter (fun e => match e with | .chunk _ c _ _ => c != ctx | _ => true) }) })

/-- A context leaves its tile: its packets are caught, waits at its words and its chunks elsewhere given up, its counters flushed, the traffic
charged and the remainder discarded (R116, R236, R246, R248). -/
def State.leaveTile (s : State) (ctx : Nat) : State :=
  if (s.ctx ctx).live then
    let s1 := ((((s.catchPackets ctx).parkWaiters ctx).dropChunks ctx).modCtx ctx Ctx.rewait).flushProfile ctx
    (s1.charge ctx (trafficPj (s1.recordBytes ctx))).dropPj (s.ptid ctx)
  else if (s.ctx ctx).retired then (s.charge ctx (trafficPj (s.recordBytes ctx))).dropPj (s.ptid ctx)
  else s

/-- SWAP_OUT_COMPLETE (R116): the gang's image is complete, its tiles are released and it is SWAPPED. -/
def execSwapOutComplete (s : State) : Host.Outcome State Fault Refusal :=
  let h := s.input.handle
  let n := s.input.gang
  let g := s.gang h n
  if g.state = .stopping ∧ g.reason ≠ .save ∧ s.gangStopped h n ∧ (s.members h n).all (fun c => !((s.job h).entry (vtidOf c)).res) then
    let s1 := ((s.members h n).foldl State.leaveTile s).releaseTiles h n
    let s2 := s1.modGang h n (fun g => { g.update with state := .swapped, blockedSince := none })
    let s3 := s2.modGang h n (fun g => { g with eligibleAt := if s2.eligible (h, n) then some (s.ticks : Int) else none, leavesFor := none })
    .next (({ s3 with sched := { s3.sched with swaps := s3.sched.swaps + 1 } }.applyTenants).progress h)
  else .next s

/-! ### Parked messages (R118, R119, R225) -/

/-- The order that park entries must keep: packets of one destination and class, accesses of one destination (R118). -/
def ParkEntry.lane (e : ParkEntry) : Nat × Nat :=
  match e with
  | .packet p => (p.dest, p.cls)
  | .access c _ => (c, 8)
  | .again c _ => (c, 8)
  | .chunk c _ _ _ => (c, 8)
  | .arrival c _ _ => (c, 9)

/-- A park entry may be delivered now (R118): its packet has ended and fits its inbox behind the packets held in the image; the
word of an access is not locked (R210). -/
def State.deliverable (s : State) (e : ParkEntry) : Bool :=
  match e with
  | .packet p => p.hdr.isSome && (s.path p.dest == .gone ||
      (!(s.ctx p.dest).staging.any (fun q => q.cls == p.cls) && decide ((s.ctx p.dest).fill p.cls + p.words.length + 1 ≤ 64)))
  | .access _ r => !s.lockedFor r.key r.acc.loc r.acc.op.bytes
  | _ => true

/-- The first entry that may be delivered and that no earlier entry of its lane holds back. -/
def State.nextParked (s : State) (held : List (Nat × Nat)) (es : List ParkEntry) : Option ParkEntry :=
  match es with
  | [] => none
  | e :: t => if !held.contains e.lane && s.deliverable e then some e else s.nextParked (e.lane :: held) t

/-- A parked access is served: performed, or its strand waits at the word (R119, R206); an outstanding WAIT waits there beside its window
(R345). -/
def State.serveAccess (s : State) (dest : Nat) (r : WaitReq) : State :=
  if s.path dest = .gone then (s.discard (jobOf dest)).served r (s.goneGains r.key r.acc)
  else match s.perform r.key r.acc with
    | some (s1, g) => s1.served r g
    | none =>
      if (s.strand r.key).out.any (fun o => o.access == some r.acc) then (if s.waitFull r.acc.loc then s else s.join r.key r.acc)
      else if s.waitFull r.acc.loc then s.refuse r.key r.acc.loc
      else (s.join r.key r.acc).block r.key .memwait r.acc.op.wait

/-- One entry leaves a park queue. -/
def State.deliver (s : State) (e : ParkEntry) : State :=
  match e with
  | .packet p =>
    (match p.hdr with
     | some h => if s.path p.dest = .gone then s.discard (jobOf p.dest) else s.enterInbox p.dest p h
     | none => s)
  | .access c r => s.serveAccess c r
  | .again c key => s.modStrand key (fun st => { st with state := .ready, wait := .none, grant := st.grant ++ [c] })
  | .chunk c ctx q n => s.modCtx ctx (fun x => { x with running := x.running.map (fun r =>
      if r.queue == q && r.entry.seq == n then { r with waitSince := none, hostSince := none, waitsOn := none, grant := r.grant ++ [c] } else r) })
  | .arrival c i v => (s.pegArrive c i v).pegUnref c i

/-- PARKED_DELIVERY (R118): an entry is delivered; DRAIN clears when the queue is empty. -/
def execParkedDelivery (s : State) : Host.Outcome State Fault Refusal :=
  let h := s.input.handle
  let n := s.input.gang
  if (s.gang h n).state ≠ .resident then .next s
  else
    let s1 := (match s.nextParked [] (s.gang h n).park with
      | none => s
      | some e => (s.modGang h n (fun g => { g with park := g.park.erase e })).deliver e).overheadFor 1
    .next (if (s1.gang h n).park = [] then s1.setEntries (s1.members h n) (fun e => { e with drain := false }) else s1)

end Sys2Proof.Machine
end

