-- ==== Sys2Proof/Machine/Turn.lean ====
section
/-! DEFINITION. The turn boundary (R124, R128–R133, R236, R250) and context moves (R134–R137). -/

namespace Sys2Proof.Machine

/-! ### Sensors (R50, R53, R131; log 6) -/

/-- A tile's issue rate is to be raised, or may be lowered (R50). -/
def State.tooHot (s : State) (t : Tile) : Bool := decide ((s.sched.eff.thot.toNat : Int) ≤ t.temp) || decide (s.capNow < s.power.power)
def State.coolEnough (s : State) (t : Tile) : Bool :=
  decide (t.temp ≤ (s.sched.eff.thot.toNat : Int) - 4) && decide (100 * s.power.power ≤ 97 * s.capNow)

/-- Since when a condition holds. -/
def sinceWhen (holds : Bool) (now : Nat) (t : Option Nat) : Option Nat := if holds then some (t.getD now) else none

/-- Keep the times since which the conditions of R50 hold on a tile. -/
def State.noteRic (s : State) : State :=
  let ps := if s.capNow < s.power.power then List.range 1024 else tableKeys s.tiles
  ps.foldl (fun x p => x.modTile p (fun t =>
    { t with hotSince := sinceWhen (s.tooHot t) s.ticks t.hotSince, coolSince := sinceWhen (s.coolEnough t && decide (1 < t.ric.toNat)) s.ticks t.coolSince })) s

/-- The readings an event brings are taken over: temperatures in whole °C, module power in W. -/
def State.readSensors (s : State) : State :=
  let s1 := s.input.sense.foldl (fun x p => x.modTile p.1 (fun t => { t with temp := p.2 })) s
  let s2 : State := match s.input.watts with
    | some w => { s1 with power := { s1.power with power := w } }
    | none => s1
  if s.input.sense = [] ∧ s.input.watts = none then s else s2.noteRic

/-! ### Pairing (R131, R132) -/

/-- The context of a RESIDENT gang that a tile hosts and that has not retired. -/
def State.hostOf (s : State) (p : Nat) : Option Nat :=
  match (s.tile p).usedBy with
  | some c => if s.ptid c = p ∧ (s.gangOf c).state = .resident ∧ (s.ctx c).live then some c else none
  | none => none

/-- Moved within the last four turn boundaries, or being moved (R132, R137). -/
def State.movedRecently (s : State) (ctx : Nat) : Bool :=
  s.moves.any (fun m => m.ctx == ctx || m.other == some ctx)
    || (match (s.ctx ctx).movedAt with | some t => decide (s.sched.turn ≤ t + 4) | none => false)

/-- The tiles of a thermal cluster (R131). -/
def cluster (k : Nat) : List Nat := (List.range 16).map (fun i => 32 * (4 * (k / 8) + i / 4) + 4 * (k % 8) + i % 4)

/-- The hot tile of a cluster (R132). -/
def State.hotTile (s : State) (k : Nat) : Option Nat :=
  smallest (fun p => [downKey (s.tile p).temp, p]) ((cluster k).filter (fun p =>
    decide ((s.sched.eff.thot.toNat : Int) ≤ (s.tile p).temp) &&
      (match s.hostOf p with | some c => !s.movedRecently c | none => false)))

/-- A tile may be the partner of a hot tile (R132). -/
def State.partner (s : State) (hot : Nat) (paired : List Nat) (p : Nat) : Bool :=
  let t := s.tile p
  let h := s.tile hot
  t.code == 0#4 && !t.emergency && !paired.contains p && p != hot && decide (s.hops hot p ≤ 4)
    && decide (t.temp ≤ (s.sched.eff.tcool.toNat : Int)) && decide (t.temp ≤ h.temp - 8)
    && (match t.usedBy, s.hostOf p with
        | none, _ => true
        | some _, some c =>
          !s.movedRecently c &&
            (match s.hostOf hot with | some x => decide ((s.ctx c).activity < (s.ctx x).activity) | none => false)
        | some _, none => false)

/-- Pair the hot tiles in order (R132). -/
def State.pair (s : State) (hots paired : List Nat) : List (Nat × Nat) :=
  match hots with
  | [] => []
  | h :: t =>
    if paired.contains h then s.pair t paired
    else match smallest (fun p => [upKey (s.tile p).temp, if (s.hostOf p).isSome then 1 else 0, s.hops h p, p])
        ((List.range 1024).filter (s.partner h paired)) with
    | none => s.pair t paired
    | some p => (h, p) :: s.pair t (h :: p :: paired)

/-- The pairs of a turn (R132). -/
def State.pairs (s : State) : List (Nat × Nat) :=
  s.pair (inOrder (fun p => [downKey (s.tile p).temp, p]) ((List.range 64).filterMap s.hotTile)) []

/-! ### Moves (R134) -/

/-- A stop is requested of the strands of a context (R219). -/
def State.stopCtx (s : State) (ctx : Nat) : State :=
  (List.range 16).foldl (fun x i => x.modStrand (strandKey ctx i) (fun st => { st with stopReq := true })) s

/-- A pair starts to move: its contexts are asked to stop, an idle partner is reserved. -/
def State.startMove (s : State) (p : Nat × Nat) : State :=
  match s.hostOf p.1 with
  | none => s
  | some c =>
    let other := s.hostOf p.2
    let cs := c :: (match other with | some o => [o] | none => [])
    let s1 := { s with moves := s.moves ++ [{ ctx := c, old := p.1, new := p.2, other := other }] }
    let s2 := cs.foldl (fun x k => (x.stopCtx k).modCtx k (fun y => { y with movedAt := some s.sched.turn })) s1
    if other.isNone then s2.modTile p.2 (fun t => { t with usedBy := some c }) else s2

/-- A moved context's strands go on where its gang is resident. -/
def State.resumeMoved (s : State) (ctx : Nat) : State :=
  if (s.gangOf ctx).state = .resident ∧ (s.ctx ctx).live ∧ !(s.job (jobOf ctx)).saveHalted ∧ !(s.job (jobOf ctx)).restored then s.resumeCtx ctx else s

/-- A move is given up (R137): the contexts stay on their tiles, and where the new tile of one of them has failed the cause 0x55 is counted. -/
def State.abortMove (s : State) (m : Move) (counted : Bool) : State :=
  let s1 := { s with moves := s.moves.erase m, sched := { s.sched with rotationAborts := s.sched.rotationAborts + (if counted then 1 else 0) } }
  let s2 := (s1.setEntries m.ctxs (fun e => { e with move := false }))
  let s3 := if m.other.isNone ∧ (s2.tile m.new).usedBy = some m.ctx then s2.modTile m.new Tile.vacate else s2
  m.ctxs.foldl (fun x c => (x.resumeMoved c).coolGang (jobOf c) (x.gangNo c)) s3

/-- A context crosses the mesh: traffic charged to it and the remainder discarded (R134, R248). -/
def State.crossMesh (s : State) (ctx : Nat) (to' : Nat) : State :=
  let s1 := (s.charge ctx (trafficPj (s.recordBytes ctx))).dropPj (s.ptid ctx)
  ((s1.dropChunks ctx).setEntries [ctx] (fun e => { e with ptid := to' })).modGang (jobOf ctx) (s.gangNo ctx) Gang.update

/-- Steps 3 to 6 of a move (R134, R136, R178, R190); a thermal emergency of either tile then has its effect (R137). -/
def State.finishMove (s : State) (m : Move) : State :=
  let s1 := s.crossMesh m.ctx m.new
  let s2 := match m.other with
    | some o => (s1.crossMesh o m.old).modTile m.old (fun t => t.vacate.host o)
    | none => s1.modTile m.old Tile.vacate
  let s3 := { (s2.modTile m.new (fun t => t.vacate.host m.ctx)) with moves := s.moves.erase m }
  let s4 := s3.setEntries m.ctxs (fun e => { e with move := false })
  let s5 := m.ctxs.foldl (fun x c => (((x.modCtx c (fun y => { y.rewait with turns := y.turns + 1 })).dropProfile c).relock c).resumeMoved c) s4
  let s6 := m.ctxs.foldl (fun x c => x.coolGang (jobOf c) (x.gangNo c)) s5
  let s6 := if m.other.isNone && (s.tile m.old).emergency && s6.inGang m.ctx .resident && s6.areaRoom [(jobOf m.ctx, s6.gangNo m.ctx)] then
    s6.stopGang (jobOf m.ctx) (s6.gangNo m.ctx) .thermal false else s6
  { s6 with sched := { s6.sched with moves := s6.sched.moves + BitVec.ofNat 32 m.ctxs.length } }

/-- The contexts of a move have stopped, and no truss operation of their gangs is in progress (R134, R219, R221). -/
def State.moveReady (s : State) (m : Move) : Bool := m.ctxs.all (fun c => s.ctxStopped c && s.enginesStopped c && !s.trussBusy (jobOf c) (s.gangNo c))

/-- A context of a move has retired meanwhile: the move has lost its object (R113). -/
def State.moveVoid (s : State) (m : Move) : Bool := m.ctxs.any (fun c => (s.ctx c).retired)

/-- MOVE_COMPLETE (R134): where a context has retired the others stay; once the contexts have stopped their entries show MOVE, then they cross the mesh and go on. -/
def execMoveComplete (s : State) : Host.Outcome State Fault Refusal :=
  match s.moves.find? (fun m => m.ctx == s.input.ctx) with
  | none => .next s
  | some m =>
    if s.moveVoid m then .next (s.abortMove m false)
    else if !s.moveReady m then .next s
    else if !((s.job (jobOf m.ctx)).entry (vtidOf m.ctx)).move then
      .next ((m.ctxs.foldl State.flushProfile s).setEntries m.ctxs (fun e => { e with move := true }))
    else .next (s.finishMove m)

/-! ### The turn boundary (R131) -/

/-- Length of a turn in core cycles: an arithmetic cycle is two (R13). -/
def State.turnCycles (s : State) : Nat := 2 * s.sched.eff.turnlen.toNat

/-- What has been delivered to every tenant in the last second is counted (R128). -/
def State.countShares (s : State) : State := (List.range 16).foldl (fun x n => x.modTen n (fun t => t.count s.ticks)) s

/-- Every hosted context is flushed (R236), every gang's counter updated (R250), and resident gangs are a turn older (R124). -/
def State.closeTurn (s : State) : State :=
  let s1 := (s.slotContexts).foldl State.flushProfile s
  s1.allGangs.foldl (fun x id => x.modGang id.1 id.2 (fun g =>
    { g.update with turnsResident := if g.state = .resident then g.turnsResident + 1 else g.turnsResident })) s1

/-- Activity is counted from zero again (R132). -/
def State.clearActivity (s : State) : State :=
  { s with ctxs := tableMap {} s.ctxs (fun _ c => { c with activity := 0 }) }

/-- TURN_BOUNDARY (R128–R133): shares, parameters, flushes, victims of rank 3 and of R129, and then pairing. A gang with parked messages makes
it a wake event (R49). -/
def execTurnBoundary (s : State) : Host.Outcome State Fault Refusal :=
  if s.cycle < s.sched.lastTurn + s.turnCycles then .next s
  else
    let s1 := s.readSensors.countShares
    let s2 := { s1 with sched := { s1.sched with eff := s1.sched.written, turn := s1.sched.turn + 1, lastTurn := s1.sched.lastTurn + s1.turnCycles } }
    let s3 := s2.noteRic.closeTurn
    let s4 := (List.range 16).foldl (fun x n => x.stopAll (some n) (x.preempted n)) s3
    let s5 := (List.range 16).foldl (fun x n => x.stopAll (some n) (x.victims n true)) s4
    let s6 := if s5.sched.eff.roten then s5.pairs.foldl State.startMove s5 else s5
    let s7 := if s6.allGangs.any (fun id => !(s6.gangAt id).park.isEmpty) then s6.wake else s6
    .next (s7.clearActivity.overheadFor 2)

end Sys2Proof.Machine
end

