-- ==== Sys2Proof/Machine/Recovery.lean ====
section
/-! DEFINITION. Routes and the pool (R26–R30), step marks (R139), step recovery (R107, R141, R142), lasting tile faults (R30, R80), thermal
emergencies (R53), and the watchdog (R126). -/

namespace Sys2Proof.Machine

/-! ### Routes and the pool region (R26, R27, R29) -/

/-- The mesh neighbours of a tile. -/
def neighbours (p : Nat) : List Nat :=
  (if p % 32 = 0 then [] else [p - 1]) ++ (if p % 32 = 31 then [] else [p + 1]) ++ (if p < 32 then [] else [p - 32])
    ++ (if 992 ≤ p then [] else [p + 32])

/-- Tiles reached from a set over routers that forward, in `fuel` rounds. -/
def State.flood (s : State) (fuel : Nat) (seen front : List Nat) : List Nat :=
  match fuel with
  | 0 => seen
  | fuel + 1 =>
    match front with
    | [] => seen
    | _ =>
      let next := ((front.map neighbours).flatten.dedup).filter (fun p => !s.darkTile p && !seen.contains p)
      s.flood fuel (seen ++ next) next

/-- The tiles with a live route to a tile. -/
def State.reach (s : State) (p : Nat) : List Nat := if s.darkTile p then [] else s.flood 1024 [p] [p]

/-- The parts of the mesh that live routes connect. -/
def State.regions (s : State) : List (List Nat) :=
  (List.range 1024).foldl (fun rs p => if s.darkTile p || rs.any (fun r => r.contains p) then rs else rs ++ [s.reach p]) []

/-- A rim quadrant has a port in service among tiles (R25, R27). -/
def quadrantServed (r : List Nat) (q : Nat) : Bool := (portTiles q).any (fun p => r.contains p)

/-- Usable sites of a part of the mesh that reaches every quadrant (R29). -/
def State.usable (s : State) (r : List Nat) : List Nat :=
  if (List.range 4).all (quadrantServed r) then r.filter (fun p => (s.tile p).code == 0#4) else []

/-- THE POOL REGION (R29): the largest such set, the one with the lowest PTID among equals. -/
def State.poolRegion (s : State) : List Nat :=
  (smallest (fun r => [1024 - r.length, r.foldl Nat.min 1024]) (s.regions.map s.usable)).getD []

/-- Tiles in the pool. -/
def State.poolSize (s : State) : Nat := ((List.range 1024).filter (fun p => (s.tile p).code == 0#4)).length

/-- Minimum of usable tiles of the ordering code (R1). -/
def binMinimum (bin : BitVec 2) : Nat :=
  match bin.toNat with
  | 0 => 960
  | 1 => 896
  | _ => 832

/-- STATUS.POOL and UNDERBIN follow the defect map (R29, R30, R34). -/
def State.countPool (s : State) : State :=
  { s with status := { s.status with pool := BitVec.ofNat 11 s.poolSize, underbin := decide (s.poolSize < binMinimum s.status.bin) } }

/-- Usable sites outside a region leave the pool with code 0x7 (R29, R30). -/
def State.keepOnly (s : State) (r : List Nat) : State :=
  ((List.range 1024).filter (fun p => (s.tile p).code == 0#4 && !r.contains p)).foldl (fun x p => x.modTile p (fun t => { t with code := 7#4 })) s

/-- THE POOL IS FORMED (R29). -/
def State.trimPool (s : State) : State := s.keepOnly s.poolRegion

/-- A router has gone dark after READY (R30): sites without a live route to the pool region leave the pool, and a quadrant without a port takes
no site with it (R27). Where the pool itself is split, the part of it taken as the pool region of R29 is the largest, of equals the one with the
lowest PTID: the model's choice (log 47). -/
def State.splitPool (s : State) : State :=
  s.keepOnly ((smallest (fun r => [1024 - r.length, r.foldl Nat.min 1024])
    (s.regions.map (fun r => r.filter (fun p => (s.tile p).code == 0#4)))).getD [])

/-- Stacks of a quadrant whose last port has gone out of service (R27). -/
def State.darkQuadrants (s : State) : State :=
  ((List.range 4).filter (fun q => (portTiles q).all s.darkTile)).foldl (fun x q =>
    (List.range 12).foldl (fun y i => y.modStack (12 * q + i) (fun st => { st with dark := true })) x) s

/-! ### Step marks (R139, R228) -/

/-- A strand that has not exited and was started. -/
def Strand.alive (st : Strand) : Bool := st.state != .inactive && st.state != .exited

/-- Somewhere in a job a `k`-th STEP has been executed: a strand stands at it, or another module's gang has completed it. -/
def State.someArrived (s : State) (h k : Nat) : Bool :=
  s.strands.any (fun p => jobOf (ctxOf p.1) == h && decide (k ≤ p.2.stepk.toNat))
    || (s.job h).gangs.any (fun p => (tableGet none (s.job h).away p.1).isSome && p.2.state != .retired && decide (k ≤ p.2.mark))

/-- Every live strand of a gang has arrived at its `k`-th STEP (R139). A gang without a live strand, whose engines still run, counts as arrived
once somewhere in the job that STEP has been executed (log 48). -/
def State.allArrived (s : State) (h n k : Nat) : Bool :=
  let sts := ((s.members h n).map (fun c => (List.range 16).map (fun i => s.strand (strandKey c i)))).flatten.filter Strand.alive
  sts.all (fun st => st.arrived && st.stepk.toNat == k) && (!sts.isEmpty || s.someArrived h k)

/-- A gang has completed a mark; a retired gang has completed every one. -/
def Gang.completed (g : Gang) (k : Nat) : Bool := g.state == .retired || decide (k ≤ g.mark)

/-- A strand continues past STEP (R330). -/
def Strand.passMark (st : Strand) (cycle : Nat) : Strand :=
  if !st.alive then st
  else
    let y := st.advance.done cycle
    { y with arrived := false, cut := .none, state := if st.state == .halted then .halted else .ready }

/-- The contexts and strands of a gang as its image holds them. -/
def State.capture (s : State) (h n mark : Nat) : Image :=
  let cs := s.members h n
  let g := s.gang h n
  { mark := mark
    ctxs := (s.ctxs.filter (fun p => cs.contains p.1)).map (fun p => (p.1, { p.2 with inflight := p.2.inTransit, staging := p.2.staging.filter (fun q => q.hdr.isNone) }))
    strands := s.strands.filter (fun p => cs.contains (ctxOf p.1)),
    energy := g.energy, sat := g.sat }

/-- The modules that take part in a job, by increasing peer id (R140). -/
def State.modulesOf (s : State) (h : Nat) : List Nat := peerList (s.othersOf h ||| (1#64 <<< s.env.self))

/-- The next module of a job after one, taken cyclically, that has not been lost (R140, R141). -/
def State.buddyModule (s : State) (h p : Nat) : Nat :=
  let ms := (s.modulesOf h).filter (fun m => !(s.peer m).lost)
  match ms.find? (fun m => decide (p < m)) with
  | some m => m
  | none => ms.headD s.env.self

/-- The other modules of a job learn of a completed mark, and the buddy module takes the image (R139, R140; log 44). -/
def State.shareMark (s : State) (h n k : Nat) (i : Image) : State :=
  let j := s.job h
  if s.othersOf h = 0#64 then s
  else (s.sendCtl (peerList (s.othersOf h)) (.marked (s.jobName h) n k)).sendCtl [s.buddyModule h s.env.self] (.image (s.jobName h) n k i)

/-- A gang may take its next mark (R139): its strands have arrived, its engines are at their stop points, and every gang of the job has completed
the mark before. -/
def State.markReady (s : State) (h n : Nat) : Bool :=
  let g := s.gang h n
  recBuddy (s.job h).record && (g.state == .resident || g.state == .swapped) && s.allArrived h n (g.mark + 1) && !s.trussBusy h n
    && (s.members h n).all s.enginesStopped && (List.range (s.job h).gangCount).all (fun i => (s.gang h i).completed g.mark)

/-- A 64 KiB block of a scratchpad: its bytes, and the words of it that are empty. -/
def Ctx.block (c : Ctx) (b : Nat) : Table Byte × Table Bool :=
  (c.spm.filter (fun p => p.1 / 65536 == b), c.spfe.filter (fun p => p.1 / 8192 == b))

/-- The bytes of a context that its gang's image writes into a slot which holds an older image: its strand blocks, its tile block and the 64 KiB
blocks of its scratchpad that differ from the slot's (R139). A block rewritten with the values it had counts as not written (log 24). -/
def State.markBytes (s : State) (old : Option Image) (ctx : Nat) : Nat :=
  match old with
  | none => s.recordBytes ctx
  | some i =>
    let c := s.ctx ctx
    let o : Ctx := tableGet {} i.ctxs ctx
    if c.retired then (if o.retired then 0 else 65536)
    else
      5120 * ((List.range 16).filter (fun n => s.strand (strandKey ctx n) != tableGet {} i.strands (strandKey ctx n))).length
        + (if { c with spm := [], spfe := [] } = { o with spm := [], spfe := [] } then 0 else roundUp (0x68008 + 8 * c.flightWords) 65536)
        + 65536 * ((List.range (s.extent ctx / 65536)).filter (fun b => c.block b != o.block b)).length

/-- STEP_MARK (R139, R246): the image is written into slot k mod 2, the mark is complete and the strands continue; what has changed since the
slot was filled is written, and charged as save traffic. -/
def execStepMark (s : State) : Host.Outcome State Fault Refusal :=
  let h := s.input.handle
  let n := s.input.gang
  let k := (s.gang h n).mark + 1
  if s.markReady h n then
    let s0 := (s.members h n).foldl (fun x c => (List.range 16).foldl (fun y i => y.modStrand (strandKey c i) (fun st => st.passMark s.cycle)) x) s
    let old := (s.gang h n).slots.find? (fun p => p.1 == k % 2)
    let s1 := (s.members h n).foldl (fun x c => x.charge c (trafficPj (s0.markBytes (old.map (·.2)) c))) s0
    let i := s1.capture h n k
    let s2 := ((s1.writeSlot h n k (s1.markImage h n k)).modGang h n (fun g =>
      { g.update with mark := k, slots := tableSet {} g.slots (k % 2) i })).bump
    .next (((s2.modGang h n (fun g => if g.state = .swapped then g.nowEligible s.ticks else g)).shareMark h n k i).progress h)
  else .next s

/-! ### Step recovery (R107, R141, R142) -/

/-- The mark every gang of a job that this module runs has completed; a retired gang has completed every one. -/
def State.ownMark (s : State) (h : Nat) : Nat :=
  ((List.range (s.job h).gangCount).filter (fun n => (s.gang h n).state != .retired && (tableGet none (s.job h).away n).isNone)).foldl
    (fun m n => Nat.min m (s.gang h n).mark) (2 ^ 32)

/-- A job is in step recovery. -/
def State.rollingBack (s : State) (h : Nat) : Bool := (s.job h).rollOwed != 0#64 || (s.job h).gangs.any (fun p => p.2.state == .recovering)

/-- A gang of this module that has not retired enters RECOVERING; what is on its way to it is discarded (R141). -/
def State.rollGang (s : State) (h n : Nat) : State :=
  if (s.gang h n).state = .retired ∨ (tableGet none (s.job h).away n).isSome then s
  else
    (s.modGang h n (fun g => { g with state := .recovering, heldTiles := g.state.holds, park := [], blockedSince := none, eligibleAt := none, leavesFor := none })).setEntries
      (s.members h n) (fun e => { e with res := false, move := false, drain := false })

/-- Step recovery starts (R141): on every module of the job, which tell each other how far their gangs have come. -/
def State.startRecovery (s : State) (h : Nat) : State :=
  if s.rollingBack h then s
  else
    let s0 := (s.moves.filter (fun m => m.ctxs.any (fun c => jobOf c == h))).foldl (fun x m => x.abortMove m false) s
    let s1 := { s0 with waiters := s0.waiters.filter (fun w => jobOf (ctxOf w.key) ≠ h) }
    let s2 := (List.range (s.job h).gangCount).foldl (fun x n => x.rollGang h n) s1
    let others := (peerList (s.othersOf h)).filter (fun p => !(s.peer p).lost)
    (s2.modJob h (fun j => { j with rollOwed := others.foldl (fun m p => m ||| (1#64 <<< p)) 0#64 })).sendCtl others
      (.rollback (s.jobName h) (s.ownMark h))

/-- A job of a lost tile or module recovers where it has buddy images, and ends otherwise (R107, R138, R141). A job that a lost module ends is
given the tile-lost cause 0x51 of R107, as R138 has it end under that rule; R214 lists 0x58 for the loss itself: the model's choice (log 49). -/
def State.loseFor (s : State) (h : Nat) : State :=
  if recBuddy (s.job h).record then s.startRecovery h else s.endJob h 8 0x51

/-- The gangs of a lost module go to its buddy module (R141). -/
def State.rehome (s : State) (h p : Nat) : State :=
  let q := s.buddyModule h p
  let s1 := s.modJob h (fun j => { j with rollOwed := j.rollOwed &&& ~~~(1#64 <<< p) })
  (List.range (s.job h).gangCount).foldl (fun x n =>
    if tableGet none (x.job h).away n = some p then
      let y := x.modJob h (fun j => { j with away := tableSet none j.away n (if q = s.env.self then none else some q) })
      if x.rollingBack h then y.rollGang h n else y
    else x) s1

/-- The highest mark every gang has completed (R141). -/
def State.commonMark (s : State) (h : Nat) : Nat :=
  let ms := ((List.range (s.job h).gangCount).filter (fun n => (s.gang h n).state != .retired)).map (fun n => (s.gang h n).mark)
  match ms with
  | [] => 0
  | m :: t => t.foldl Nat.min m

/-- The contexts and strands of a gang are replaced by those of an image, or are none (R141). -/
def State.reload (s : State) (h n : Nat) (i : Image) : State :=
  let cs := s.members h n
  let s1 := { s with ctxs := s.ctxs.filter (fun p => !cs.contains p.1), strands := s.strands.filter (fun p => !cs.contains (ctxOf p.1)) }
  let s2 := i.ctxs.foldl (fun x p => x.setCtx p.1 { p.2 with staging := [] }) s1
  let s3 := i.strands.foldl (fun x p => x.setStrand p.1 p.2) s2
  cs.foldl (fun x c => x.setEntries [c] (fun e => { e with done := (x.ctx c).retired })) s3

/-- A strand of a mark's image starts again from its boundary. -/
def State.restartStrands (s : State) (h n : Nat) : State :=
  (s.members h n).foldl (fun x c => (List.range 16).foldl (fun y i => y.modStrand (strandKey c i) (fun st =>
    if st.quiet then st else { st with state := .ready, wait := .none, readyAt := s.cycle + 1 })) x) s

/-- The gang's contexts as at launch, or as its buddy image holds them (R141, R142). What the gang has spent since stays charged to it beside
the counter, which is the image's (R249; log 24). -/
def State.rewind (s : State) (h n m : Nat) : State :=
  let i := if m = 0 then ({} : Image) else tableGet {} (s.gang h n).slots (m % 2)
  let s1 := ((s.reload h n i).releaseTiles h n).modGang h n (fun g =>
    { g with mark := m, energy := i.energy, sat := i.sat, shown := i.energy, shownSat := i.sat, spent := g.spent + (g.energy - i.energy), frozen := false })
  if m = 0 then (s1.members h n).foldl (fun x c => x.setupCtx h (vtidOf c)) s1 else s1.restartStrands h n

/-- A recovered gang (R112, R141, R142): one that held tiles is RESIDENT where enough are free, beyond MAX if needed, and SWAPPED with its image
otherwise; one that held none waits for its turn. -/
def State.recoverGang (s : State) (h n m : Nat) : State :=
  let s1 := s.rewind h n m
  let cs := s1.members h n
  if (s.gang h n).heldTiles ∧ cs.length ≤ s1.freeTiles.length then (s1.assign cs s1.freeTiles).becomeResident h n (m != 0)
  else s1.modGang h n (fun g => ({ g with state := .swapped, parkAlloc := true }).nowEligible s.ticks)

/-- A notice to the driver (R222, R224): dropped where the ring is off or full; only its cause, KIND and job handle are stated (log 15). -/
def State.notice (s : State) (h cause : Nat) : State :=
  let tn := (s.job h).tenant
  let r := s.ring tn
  if r.en ∧ (r.ftail - r.fhead).toNat + r.waiting.length < 2 ^ (4 + Nat.min 8 r.size.toNat) then
    let x := s.openWord
    (s.bump.bump.bump).queueFault tn
      { cause := BitVec.ofNat 8 cause, kind := 2#8, strand := fieldAt 0 8 x, vtid := fieldAt 8 16 x,
        handle := BitVec.ofNat 64 h, tval := s.bump.openWord, pc := s.bump.bump.openWord }
  else s

/-- The gangs of a job that this module recovers. -/
def State.recovering (s : State) (h : Nat) : List Nat := (List.range (s.job h).gangCount).filter (fun n => (s.gang h n).state == .recovering)

/-- Every module of a job goes on from a mark: the gangs of this one, and what it knows of the others'. -/
def State.goBack (s : State) (h m : Nat) : State :=
  let s1 := (s.recovering h).foldl (fun x n => x.recoverGang h n m) s
  s1.modJob h (fun j => { j with gangs := tableMap {} j.gangs (fun n g =>
    if (tableGet none j.away n).isSome && g.state != .retired then { g with mark := m } else g) })

/-- RECOVERY_COMPLETE (R107, R140–R142): the modules of the job have said how far their gangs have come, and every gang goes back to the highest
mark that all have completed; a job that has lost a buddy image ends. -/
def execRecoveryComplete (s : State) : Host.Outcome State Fault Refusal :=
  let h := s.input.handle
  let m := s.commonMark h
  if s.recovering h = [] ∨ (s.job h).rollOwed ≠ 0#64 then .next s
  else if m ≠ 0 ∧ (s.recovering h).any (fun n => s.slotLost h n (m % 2)) then .next (s.endJob h 8 0x51)
  else .next (((s.goBack h m).progress h).notice h 0x56)

/-! ### Lasting tile faults (R30, R80, R137) -/

/-- The contexts that some tiles host and that have not retired. -/
def State.hostedBy (s : State) (ps : List Nat) : List Nat :=
  ps.filterMap (fun p => match (s.tile p).usedBy with | some c => if s.ptid c = p ∧ !(s.ctx c).retired then some c else none | none => none)

/-- Moves that a lost tile takes part in are given up (R137): where it was the new tile of one of the contexts the abort is counted. -/
def State.dropMoves (s : State) (gone : List Nat) : State :=
  (s.moves.filter (fun m => gone.contains m.new || gone.contains m.old)).foldl
    (fun x m => x.abortMove m (gone.contains m.new || m.other.isSome)) s

/-- Live jobs whose largest gang the pool can no longer hold end (R107). -/
def State.endTooLarge (s : State) : State :=
  s.liveJobs.foldl (fun x h => if (x.job h).g ≠ 0 ∧ x.status.pool.toNat < (x.job h).members 0 then x.endJob h 8 0x51 else x) s

/-- An error that ECC corrects in a unit of a tile is counted (R80, R82). -/
def Tile.countError (t : Tile) (unit now : Nat) : Tile :=
  { t with
    ce := if t.ce = 65535#16 then t.ce else t.ce + 1
    lastUnit := BitVec.ofNat 4 (unit % 16)
    errs := tableSet [] t.errs unit (tableGet [] t.errs unit ++ [now]) }

/-- A tile is lastingly faulty from now on (R27, R30, R80, R83, R107, R137, R141): with its router when that is the unit. -/
def State.loseTile (s : State) (p : Nat) (router : Bool) : State :=
  let s2 := s.modTile p (fun t => { t with code := if router then 6#4 else 5#4 })
  let s3 := ((if router then s2.splitPool.darkQuadrants else s2).countPool).rasInterrupt
  let gone := (List.range 1024).filter (fun q => q == p || ((s.tile q).code == 0#4 && (s3.tile q).code != 0#4))
  let hit := s3.hostedBy gone
  (((hit.map jobOf).dedup).foldl State.loseFor (s3.dropMoves gone)).endTooLarge

/-- LASTING_TILE_FAULT (R30, R80, R82): an error in a unit of a tile, which the input gives in bits 3 to 0 of its value (0 core, 1 scratchpad,
2 array band, 3 vector unit, 4 router), and the scratchpad bank or the array band in the bits above them. Three corrected errors of one unit
within 24 h make the tile lastingly faulty, and so does one uncorrectable error. A faulty tile stays so; its router may still fail. -/
def execLastingTileFault (s : State) : Host.Outcome State Fault Refusal :=
  let p := s.input.ptid
  let u := natAt 0 4 s.input.value
  let unit := u + 16 * (if u = 1 then natAt 4 6 s.input.value else if u = 2 then natAt 4 2 s.input.value else 0)
  let old := (s.tile p).code
  let s1 := if s.input.err = .corrected then s.modTile p (fun t => t.countError unit s.ticks) else s
  if 4 < u ∨ 1023 < p then .next s
  else if (s.input.err = .uncorrectable ∨ (s.input.err = .corrected ∧ 3 ≤ (s1.recent (tableGet [] (s1.tile p).errs unit)).length))
      ∧ s.status.ready ∧ old ≠ 4#4 ∧ old ≠ 6#4 ∧ (old ≠ 5#4 ∨ u = 4) then .next (s1.loseTile p (u == 4))
  else .next s1

/-! ### Thermal emergencies (R53) -/

/-- THERMAL_EMERGENCY (R49, R53): RIC 16 at once, the gang is stopped and swapped out, the tile leaves service. A gang that is loading, moving or
stopped for a SAVE is swapped out when it would go on (`State.coolGang`). -/
def execThermalEmergency (s : State) : Host.Outcome State Fault Refusal :=
  let s0 := s.readSensors
  let p := s.input.ptid
  let t := s0.tile p
  if t.temp < 105 ∨ t.emergency then .next s0
  else
    let s1 := s0.wake.modTile p (fun t => { t with ric := 16#5, coolSince := none, emergency := true, therm := if t.therm = 255#8 then t.therm else t.therm + 1 })
    let s2 := if t.therm = 0#8 then s1.rasInterrupt else s1
    match t.usedBy with
    | none => .next s2
    | some c => .next (s2.coolGang (jobOf c) (s2.gangNo c))

/-- THERMAL_RELEASE (R49, R53): below 95 °C the tile returns to service. -/
def execThermalRelease (s : State) : Host.Outcome State Fault Refusal :=
  let s0 := s.readSensors.wake
  .next (if (s0.tile s.input.ptid).temp < 95 then s0.modTile s.input.ptid (fun t => { t with emergency := false }) else s0)

/-! ### The watchdog (R126) -/

/-- The interval of a job does not count now (R126): a strand is HALTED or held, or the part is saving, recovering or in a deep state. -/
def State.watchPaused (s : State) (h : Nat) : Bool :=
  (s.job h).saveHalted || (s.job h).restored || decide (3 ≤ s.status.pstate.toNat) ||
    (s.job h).gangs.any (fun p => p.2.state == .recovering) ||
    s.strands.any (fun p => jobOf (ctxOf p.1) == h && (p.2.state == .halted || p.2.held.isSome))

/-- WATCHDOG (R126): a job without progress for WDOG ms ends with cause 0x53; 0 disables it. -/
def execWatchdog (s : State) : Host.Outcome State Fault Refusal :=
  let h := s.input.handle
  let w := s.sched.eff.wdog.toNat
  if (s.job h).phase = .live ∧ w ≠ 0 ∧ !s.watchPaused h ∧ (s.job h).progress + ticksOf (1000000 * w) ≤ s.ticks then .next (s.endJob h 8 0x53)
  else .next s

end Sys2Proof.Machine
end

