-- ==== Sys2Proof/Machine/Power.lean ====
section
/-! DEFINITION. Power control and power states (R22–R24, R46–R52, R95), and static energy (R247). -/

namespace Sys2Proof.Machine

/-! ### Idleness (R46, R47) -/

/-- A context does nothing that keeps the part from being idle: none of its strands is ready and none of its engines is busy (R46). -/
def State.ctxQuiet (s : State) (c : Nat) : Bool :=
  !(s.ctx c).live || (!(s.ctx c).engineBusy && (List.range 16).all (fun i =>
    let st := s.strand (strandKey c i)
    !st.alive || st.blocked || st.stopped))

/-- An access of a strand to a peer is on its way (R46). -/
def Strand.flying (st : Strand) : Bool := st.out.any (fun o => o.pending.any (fun a => match a.loc with | .peer _ _ => true | _ => false))

/-- The part is idle (R46): no resident strand is ready, no engine is busy, no bank unit serves a command, no record waits to be fetched and no COPY
moves bytes, no flit is in flight, no gang is being loaded, and no message is parked for a gang that is resident. -/
def State.partIdle (s : State) : Bool :=
  s.allGangs.all (fun id =>
    let g := s.gangAt id
    g.state != .loading && (!(g.state == .resident || g.state == .stopping) || (g.park.isEmpty && (s.members id.1 id.2).all s.ctxQuiet)))
  && s.ctxs.all (fun p => p.2.running.all (fun r => r.queue != 8 || !r.rows.isEmpty))
  && s.strands.all (fun p => !p.2.flying)
  && s.hq.all (fun p => p.2.records.all (fun r => !r.started || (match decodeRecord r.bytes with | .copy => false | _ => true)))
  && (List.range 64).all (fun q => let b := s.queue q; !b.en || b.stop || b.notify == b.head)

/-- Keep the time since which the part has been idle. -/
def State.noteIdle (s : State) : State :=
  { s with power := { s.power with idleSince :=
      if s.partIdle then (match s.power.idleSince with | some t => some t | none => some s.ticks) else none } }

/-- The tolerance of a function, by `17 * port + vf + 1`, or `17 * port` for the physical function (R95): 2 µs for port 0's physical function
after READY, no limit otherwise. -/
def tolKey (f : HostFn) : Nat := 17 * f.port.toNat + (match f.vf with | some v => v.toNat + 1 | none => 0)

def State.toleranceOf (s : State) (k : Nat) : Nat := tableGet (if k = 0 then 2000 else 2 ^ 64 - 1) s.power.tolerance k

/-- The tolerance in force: the smallest value of any function (R95). -/
def State.tolerance (s : State) : Nat := (List.range 68).foldl (fun m k => Nat.min m (s.toleranceOf k)) (2 ^ 64 - 1)

/-- Every gang that holds tiles has left (R47: before L4), or the scheduler area can take those that are resident (R121). -/
def State.noneResident (s : State) : Bool := s.allGangs.all (fun id => !(s.gangAt id).state.holds)
def State.mayEmpty (s : State) : Bool := s.noneResident || s.areaRoom (s.allGangs.filter (fun id => (s.gangAt id).state == .resident))

/-- The deepest state that the tolerance and the time of being idle allow (R47, R48); none while the part is still leaving one. -/
def State.deepest (s : State) : Nat :=
  if s.cycle < s.power.awakeAt then 0 else
  match s.power.idleSince with
  | none => 0
  | some t =>
    (List.range 5).foldl (fun m n =>
      if (stateTimes n).2 ≤ s.tolerance ∧ t + ticksOf (stateTimes n).1 ≤ s.ticks ∧ (n = 0 ∨ s.tolerance ≠ 0) ∧ (n ≠ 4 ∨ s.mayEmpty) then n else m) 0

/-- POWER_STATE_ENTRY (R47): an idle part enters the deepest state; before L4 every resident gang is swapped out. -/
def execPowerStateEntry (s : State) : Host.Outcome State Fault Refusal :=
  let s1 := s.noteIdle
  let n := s1.deepest
  if n ≤ s1.status.pstate.toNat ∨ !s1.status.ready then .next s1
  else if n = 4 ∧ !s1.noneResident then
    .next (s1.stopAll none (s1.allGangs.filter (fun id => (s1.gangAt id).state == .resident)))
  else .next { s1 with status := { s1.status with pstate := BitVec.ofNat 3 n } }

/-- WAKE_EVENT (R49). -/
def execWakeEvent (s : State) : Host.Outcome State Fault Refusal := .next s.wake

/-! ### Limits (R22–R24, R50, R52) -/

/-- COOLANT_FAULT (R24, R49). -/
def execCoolantFault (s : State) : Host.Outcome State Fault Refusal :=
  .next ({ s.wake with status := { s.wake.status with coolfault := true } } : State).noteRic

/-- COOLANT_RECOVER (R24, R49). -/
def execCoolantRecover (s : State) : Host.Outcome State Fault Refusal :=
  .next ({ s.wake with status := { s.wake.status with coolfault := false } } : State).noteRic

/-- RIC of the tiles a test picks goes up or down, within 1 to 16, and the next step counts from now (R50). -/
def State.stepRic (s : State) (p : Tile → Bool) (up : Bool) : State :=
  (List.range 1024).foldl (fun x n => x.modTile n (fun t =>
    if !p t then t
    else if up then { t with ric := if t.ric.toNat < 16 then t.ric + 1 else t.ric, hotSince := some s.ticks }
    else { t with ric := if 1 < t.ric.toNat then t.ric - 1 else t.ric, coolSince := if 2 < t.ric.toNat then some s.ticks else none })) s

/-- A condition has held for some ns. -/
def State.heldFor (s : State) (since : Option Nat) (ns : Nat) : Bool :=
  match since with
  | some t => decide (t + ticksOf ns ≤ s.ticks)
  | none => false

/-- Tiles whose RIC goes up, every 100 µs, or down, every 1 ms, while the conditions of R50 hold. -/
def State.risesNow (s : State) (t : Tile) : Bool := s.tooHot t && s.heldFor t.hotSince 100000
def State.fallsNow (s : State) (t : Tile) : Bool := s.coolEnough t && s.heldFor t.coolSince 1000000

/-- RIC_RAISE (R50): hot tiles, or every tile while the module is above its cap. -/
def execRicRaise (s : State) : Host.Outcome State Fault Refusal :=
  let s0 := s.readSensors
  .next (s0.stepRic s0.risesNow true).noteRic

/-- RIC_LOWER (R50): tiles at least 4 °C below T_hot, while power is at or below 97 % of the cap. -/
def execRicLower (s : State) : Host.Outcome State Fault Refusal :=
  let s0 := s.readSensors
  .next (s0.stepRic s0.fallsNow false)

/-- BALLAST (R52): no visible state changes but the overhead account, by the energy the input gives. -/
def execBallast (s : State) : Host.Outcome State Fault Refusal := .next (s.chargeOverhead s.input.value.toNat)

/-- STATIC_ENERGY_TICK (R247): 9 nJ for each pool tile, to the gang it hosts or to the overhead account. -/
def execStaticEnergyTick (s : State) : Host.Outcome State Fault Refusal :=
  let ps := (List.range 1024).filter (fun p => (s.tile p).code == 0#4)
  let s1 := ps.foldl (fun x p => match (s.tile p).usedBy with
    | some c => if s.ptid c = p then x.modGang (jobOf c) (s.gangNo c) (fun g => g.chargeNj 9) else x.chargeOverhead 9
    | none => x.chargeOverhead 9) s
  .next { s1 with power := { s1.power with charged := s.power.charged + 1 } }

end Sys2Proof.Machine
end

