-- ==== Sys2Proof/Machine/Boot.lean ====
section
/-! DEFINITION. Bring-up (R39, R42–R45), supply failure and resets of ports (R23, R33), Eoven links (R35–R38, R43), and the mailbox of Laroon
(R40, R41). -/

namespace Sys2Proof.Machine

/-! ### Bring-up (R39, R42–R45) -/

/-- A firmware slot passes the boot ROM (R39): its signatures verify and its version is not below the anti-rollback counter. -/
def FirmwareSlot.verifies (f : FirmwareSlot) (rollback : Nat) : Bool := f.signed && decide (rollback ≤ f.version)

/-- The slot the boot ROM runs (R39): A, then B. -/
def Laroon.boot (l : Laroon) : Option Nat :=
  if l.slotA.verifies l.rollback then some 1 else if l.slotB.verifies l.rollback then some 2 else none

/-- The part at the end of bring-up step 1: tile state and memory contents are lost, what other supply domains and the outside hold stays, and so
does the training of port 0 (R23, R33, R34, R39, R44, R45). Retired and poisoned rows are forgotten with the counters that bring-up clears (R81):
whether they survive is the model's choice (log 50). `keep` keeps the codes of sites that have gone faulty or have been cut off, which only a
power-up takes back (R30). -/
def State.bringUp (s : State) (l : Laroon) (keep : Bool) : State :=
  { cycle := s.cycle
    boot := 1
    bootStopped := l.boot.isNone
    status := { fwerr := l.boot.isNone, pwrfail := s.status.pwrfail, coolfault := s.status.coolfault, bin := s.status.bin }
    tiles := tableMap {} s.tiles (fun _ t => { temp := t.temp, code := if keep && decide (5 ≤ t.code.toNat) then t.code else 0#4 })
    power := { cap := s.power.cap, power := s.power.power }
    laroon := { l with slot := l.boot, mailbox := {} }
    ports := s.ports.filter (fun p => p.1 == 0)
    hostMem := s.hostMem
    peerMem := s.peerMem
    saved := s.saved
    env := s.env
    agenda := s.agenda
    phase := s.phase
    free := s.free }

/-- Slots written since the last power-up take effect (R40). -/
def Laroon.applyStaged (l : Laroon) : Laroon :=
  { l with slotA := l.stagedA.getD l.slotA, slotB := l.stagedB.getD l.slotB, stagedA := none, stagedB := none }

/-- POWER_GOOD (R39, R42, R45): bring-up step 1. -/
def execPowerGood (s : State) : Host.Outcome State Fault Refusal := .next (s.bringUp s.laroon.applyStaged false)

/-- Bring-up step `n` runs when the steps before it have ended, the sequence has not stopped and there is power (R23, R42, R43). -/
def State.atStep (s : State) (n : Nat) : Bool := s.boot + 1 == n && !s.bootStopped && !s.powerLost

/-- SELF_CALIBRATION (R42, R43): step 2. -/
def execSelfCalibration (s : State) : Host.Outcome State Fault Refusal :=
  if !s.atStep 2 then .next s
  else if s.env.calFail then .next { s with bootStopped := true, status := { s.status with calerr := true } }
  else .next { s with boot := 2 }

/-- MEMORY_INITIALISATION (R42, R57): step 3, every word zero and full. -/
def execMemoryInitialisation (s : State) : Host.Outcome State Fault Refusal :=
  if !s.atStep 3 then .next s else .next { s with boot := 3, rim := [], rimfe := [], ctxs := [] }

/-- IN_FIELD_TILE_TEST (R2, R28, R42): step 4, the defect map is built; a site that has left the pool since power-up keeps its code (R30). -/
def execInFieldTileTest (s : State) : Host.Outcome State Fault Refusal :=
  if !s.atStep 4 then .next s
  else .next { s.env.tileTest.foldl (fun x p => x.modTile p.1 (fun t => { t with code := if 5 ≤ t.code.toNat then t.code else p.2 })) s with boot := 4 }

/-- Entry 0 of the range table when READY is set (R61). -/
def readyRange : RangeEntry :=
  { valid := true, gran := 4#4, base := 0#26, limit := 0x3000000#26, stackSet := BitVec.allOnes 48, sbase := 0#20 }

/-- POOL_FORMATION (R29, R38, R42, R43, R61): step 5, routes, pool and tables; then READY. -/
def execPoolFormation (s : State) : Host.Outcome State Fault Refusal :=
  if !s.atStep 5 then .next s
  else if (List.range 4).any (fun q => (portTiles q).all s.darkTile) then
    .next { s with bootStopped := true, status := { s.status with calerr := true } }
  else
    let s1 := s.trimPool.countPool
    .next ({ s1 with
      boot := 5
      status := { s1.status with ready := true }
      range := tableSet {} [] 0 readyRange
      peers := s.env.routes.foldl (fun t p => tableSet {} t p.1 { routed := true, ports := p.2.take 4, lastFlit := s.ticks }) []
      sched := { s1.sched with lastTurn := s.cycle }
      overhead := 0
      power := { s1.power with charged := s.time / 1000 } } : State).noteRic

/-! ### Supply and resets (R23, R33) -/

/-- SUPPLY_FAIL (R23): every strand stops, PWRFAIL is set, READY is clear, tile state and memory are lost. -/
def execSupplyFail (s : State) : Host.Outcome State Fault Refusal :=
  .next { s with
    powerLost := true
    status := { s.status with pwrfail := true, ready := false }
    strands := []
    ctxs := []
    jobs := []
    tiles := tableMap {} s.tiles (fun _ t => { temp := t.temp })
    rim := []
    rimfe := []
    waiters := []
    unfenced := []
    moves := [] }

/-- PORT0_RESET (R33): the whole bring-up sequence runs; after a supply failure only a power cycle does that (R23). -/
def execPort0Reset (s : State) : Host.Outcome State Fault Refusal := .next (if s.powerLost then s else s.bringUp s.laroon true)

def State.modPort (s : State) (p : Nat) (f : HostPort → HostPort) : State := { s with ports := tableSet {} s.ports p (f (s.hostPort p)) }

/-- PORT_HOT_RESET (R33): a port other than 0 retrains. -/
def execPortHotReset (s : State) : Host.Outcome State Fault Refusal :=
  if s.input.port = 0 ∨ 3 < s.input.port then .next s else .next (s.modPort s.input.port (fun p => { p with up := false }))

/-- PORT_BACK_UP (R31, R33, R43, R44): a port has trained, at the width and rate the input gives in bytes 0 and 1 of its value. -/
def execPortBackUp (s : State) : Host.Outcome State Fault Refusal :=
  if 3 < s.input.port then .next s
  else .next (s.modPort s.input.port (fun _ => { up := true, width := natAt 0 8 s.input.value, rate := natAt 8 8 s.input.value }))

/-! ### Eoven links (R35–R38, R43) -/

/-- LANE_FAIL (R35): a port retrains at 4 lanes; with fewer than 4 good lanes it is down. -/
def execLaneFail (s : State) : Host.Outcome State Fault Refusal :=
  .next (s.modLink s.input.port (fun l => { l with lanes := l.lanes - 1, up := l.up && decide (4 ≤ l.lanes - 1) }))

/-- Lanes a port runs at (R35). -/
def Link.width (l : Link) : Nat := if !l.up then 0 else if l.lanes = 8 then 8 else 4

/-- A peer is heard on a port that its route lists (R38). -/
def State.heard (s : State) (p port : Nat) : State :=
  s.modPeer p (fun x => if x.routed && x.ports.contains port then { x with lastFlit := s.ticks } else x)

/-- LINK_TRAINING (R43): a link has trained, and its peer is heard. -/
def execLinkTraining (s : State) : Host.Outcome State Fault Refusal :=
  .next (((s.modLink s.input.port (fun l => { l with up := decide (4 ≤ l.lanes) })).heard s.input.peer s.input.port).modPeer s.input.peer (fun p =>
    if p.routed && p.ports.contains s.input.port then { p with lost := false } else p))

/-! ### The mailbox (R40, R41) -/

/-- A request is written and the doorbell set (R40, R44, R49): it is not accepted while another is in progress. -/
def State.ask (s : State) (code : Nat) : State :=
  if s.boot = 0 then s
  else
    let t := s.wake
    match s.laroon.mailbox.busy with
    | some _ => t
    | none => { t with laroon := { t.laroon with mailbox := { t.laroon.mailbox with
        busy := some { code := code, value := s.input.value, nonce := s.input.nonce, image := s.input.image } } } }

/-- The request in progress is answered, and the doorbell reads 0 (R40). -/
def State.reply (s : State) (status : MailStatus) (ws : List Word) : State :=
  { s with laroon := { s.laroon with mailbox := { status := status, reply := ws } } }

/-- An event of a request (R40): it is written where `idx` of the input is 0, and otherwise answered; in the management-only state only where
`always` says so (R39). -/
def State.mail (s : State) (code : Nat) (always : Bool) (f : MailRequest → State → State × List Word) : State :=
  if s.input.idx = 0 then s.ask code
  else match s.laroon.mailbox.busy with
  | none => s
  | some r =>
    if r.code ≠ code then s
    else if s.status.fwerr && !always then s.reply .notAccepted []
    else (f r s).1.reply .done (f r s).2

/-- The 512 bytes of the defect map (R28). -/
def State.defectBytes (s : State) : List Byte :=
  (List.range 512).map (fun i => (s.tile (2 * i + 1)).code ++ (s.tile (2 * i)).code)

/-- Bytes as 64-bit words, little-endian. -/
def wordsOf (n : Nat) (bs : List Byte) : List Word := (List.range n).map (fun i => BitVec.ofNat 64 (natOfBytes ((bs.drop (8 * i)).take 8)))

/-- A number in 64-bit words. -/
def wordsOfNat (n v : Nat) : List Word := (List.range n).map (fun i => BitVec.ofNat 64 (v / 2 ^ (64 * i)))

/-- READ_DEFECT_MAP (R40). -/
def execReadDefectMap (s : State) : Host.Outcome State Fault Refusal := .next (s.mail 1 false (fun _ x => (x, wordsOf 64 x.defectBytes)))

/-- The running slot. -/
def Laroon.running (l : Laroon) : FirmwareSlot :=
  match l.slot with
  | some 1 => l.slotA
  | some _ => l.slotB
  | none => ⟨false, 0, [], []⟩

/-- The words of an attestation report before its signature (R41). -/
def State.report (s : State) (nonce : BitVec 256) : List Word :=
  [zext s.status.bin] ++ wordsOfNat 2 s.laroon.serial.toNat ++ (s.laroon.running.digests.map (fun d => wordsOfNat 4 d.toNat)).flatten
    ++ wordsOfNat 4 (sm3 s.defectBytes).toNat ++ [BitVec.ofNat 64 s.laroon.rollback] ++ wordsOfNat 4 nonce.toNat

/-- The bytes of words, as memory holds them. -/
def wordBytes (ws : List Word) : List Byte := (ws.map (fun w => (List.range 8).map (fun i => (fieldAt (8 * i) 8 w : Byte)))).flatten

/-- ATTESTATION (R41): the report and its SM2 signature. -/
def execAttestation (s : State) : Host.Outcome State Fault Refusal :=
  .next (s.mail 2 true (fun q x =>
    let r := x.report q.nonce
    (x, r ++ wordsOfNat 8 (Config.sm2 (sm3 (wordBytes r))).toNat)))

/-- SET_POWER_CAP (R22, R40): clamped to 8 kW to 28 kW. The reply is the clamped cap also while COOLFAULT holds a lower one: the model's
choice (log 60). -/
def execSetPowerCap (s : State) : Host.Outcome State Fault Refusal :=
  .next (s.mail 3 false (fun q x =>
    let cap := Nat.max 8000 (Nat.min 28000 q.value.toNat)
    (({ x with power := { x.power with cap := cap } } : State).noteRic, [BitVec.ofNat 64 cap])))

/-- READ_LINK_STATUS (R40): for each Eoven port whether it is up, its lanes and its rate in Gb/s per lane; for each PCIe port rate and
width. Of a port that is down it gives what it last trained at, 64 GT/s and x16 where it has not trained: the model's choice (log 51). -/
def execReadLinkStatus (s : State) : Host.Outcome State Fault Refusal :=
  .next (s.mail 4 false (fun _ x => (x,
    ((List.range 24).map (fun p => [boolWord (x.link p).up, BitVec.ofNat 64 (x.link p).width, if (x.link p).up then 224#64 else 0#64])).flatten
      ++ ((List.range 4).map (fun p => [BitVec.ofNat 64 (x.hostPort p).rate, BitVec.ofNat 64 (x.hostPort p).width])).flatten)))

/-- READ_FIRMWARE_VERSIONS (R40). -/
def execReadFirmwareVersions (s : State) : Host.Outcome State Fault Refusal :=
  .next (s.mail 5 false (fun _ x => (x, x.laroon.running.images.map (BitVec.ofNat 64))))

/-- WRITE_FIRMWARE_SLOT (R40): bit 0 of the value names slot A or B; it takes effect at the next power-up. -/
def execWriteFirmwareSlot (s : State) : Host.Outcome State Fault Refusal :=
  .next (s.mail 6 true (fun q x =>
    ({ x with laroon := if bitAt 0 q.value then { x.laroon with stagedB := some q.image } else { x.laroon with stagedA := some q.image } }, [])))

/-- UNKNOWN_REQUEST (R40): a request of any other code: status UNKNOWN, no effect. -/
def execUnknownRequest (s : State) : Host.Outcome State Fault Refusal :=
  let t := s.mail 0 false (fun _ x => (x, []))
  .next (if t.laroon.mailbox.busy = none ∧ s.laroon.mailbox.busy ≠ none ∧ !s.status.fwerr then t.reply .unknown [] else t)

end Sys2Proof.Machine
end

