-- ==== Sys2Proof/Machine/Control.lean ====
section
/-! DEFINITION. Branches, jumps, calls and hardware loops (R311–R319). -/

namespace Sys2Proof.Machine

/-- A conditional branch: to its target where it is taken, else on, with the loop redirect (R311, R316). -/
def State.branch (s : State) (taken : Bool) (i : BitVec 15) : State :=
  if taken then s.jumpWith s.cur (target s.me.pc i) id else s.retireWith s.cur id

/-- A jump to a computed target: 0x06 where it is not a multiple of 4 (R312). -/
def State.jumpTo (s : State) (t : Word) (f : Strand → Strand) : State :=
  if natAt 0 2 t ≠ 0 then s.trapP 0x06 t else s.jumpWith s.cur t f

/-- BEQ (R311). -/
def execBeq (a b : BitVec 5) (i : BitVec 15) (s : State) : Host.Outcome State Fault Refusal :=
  .next (s.branch (s.me.rg a == s.me.rg b) i)

/-- BNE (R311). -/
def execBne (a b : BitVec 5) (i : BitVec 15) (s : State) : Host.Outcome State Fault Refusal :=
  .next (s.branch (s.me.rg a != s.me.rg b) i)

/-- BLT (R311): compared as signed. -/
def execBlt (a b : BitVec 5) (i : BitVec 15) (s : State) : Host.Outcome State Fault Refusal :=
  .next (s.branch (decide ((s.me.rg a).toInt < (s.me.rg b).toInt)) i)

/-- BGE (R311): compared as signed. -/
def execBge (a b : BitVec 5) (i : BitVec 15) (s : State) : Host.Outcome State Fault Refusal :=
  .next (s.branch (decide ((s.me.rg b).toInt ≤ (s.me.rg a).toInt)) i)

/-- BLTU (R311): compared as unsigned. -/
def execBltu (a b : BitVec 5) (i : BitVec 15) (s : State) : Host.Outcome State Fault Refusal :=
  .next (s.branch (decide ((s.me.rg a).toNat < (s.me.rg b).toNat)) i)

/-- BGEU (R311): compared as unsigned. -/
def execBgeu (a b : BitVec 5) (i : BitVec 15) (s : State) : Host.Outcome State Fault Refusal :=
  .next (s.branch (decide ((s.me.rg b).toNat ≤ (s.me.rg a).toNat)) i)

/-- BZ (R311). -/
def execBz (a : BitVec 5) (i : BitVec 15) (s : State) : Host.Outcome State Fault Refusal :=
  .next (s.branch (s.me.rg a == 0#64) i)

/-- BNZ (R311). -/
def execBnz (a : BitVec 5) (i : BitVec 15) (s : State) : Host.Outcome State Fault Refusal :=
  .next (s.branch (s.me.rg a != 0#64) i)

/-- B (R311). -/
def execB (i : BitVec 25) (s : State) : Host.Outcome State Fault Refusal :=
  .next (s.jumpWith s.cur (target s.me.pc i) id)

/-- CALL (R154, R311): g1 is the address of CALL plus 4. -/
def execCall (i : BitVec 25) (s : State) : Host.Outcome State Fault Refusal :=
  .next (s.jumpWith s.cur (target s.me.pc i) (fun st => st.setG 1#5 (st.pc + 4#64)))

/-- CALLR (R312): g(a) is read before g1 is written. -/
def execCallr (a : BitVec 5) (s : State) : Host.Outcome State Fault Refusal :=
  .next (s.jumpTo (s.me.rg a) (fun st => st.setG 1#5 (st.pc + 4#64)))

/-- RET (R312). -/
def execRet (s : State) : Host.Outcome State Fault Refusal := .next (s.jumpTo (s.me.rg 1#5) id)

/-- JR (R312). -/
def execJr (a : BitVec 5) (s : State) : Host.Outcome State Fault Refusal := .next (s.jumpTo (s.me.rg a) id)

/-- JTAB (R313): the count, then the entry, two unprefixed reads of 4 bytes; out of bounds falls through. -/
def execJtab (a b : BitVec 5) (s : State) : Host.Outcome State Fault Refusal :=
  let t := s.me.rg a
  let i := s.me.rg b
  let pc := s.me.pc
  match s.peek (a == 2#5) 4 t with
  | .stopped s1 => .next s1
  | .value s1 n lam =>
    if n ≤ i.toNat then .next ((s1.retireWith s.cur id).delay s.cur lam .memwait)
    else match s1.peek (a == 2#5) 4 (t + 4#64 + 4#64 * i) with
      | .stopped s2 => .next s2
      | .value s2 e lam2 => .next ((s2.jumpWith s.cur (target pc (BitVec.ofNat 32 e)) id).delay s.cur (lam + lam2) .memwait)

/-! ### Hardware loops (R314–R318) -/

/-- Set the registers of a loop level. -/
def Strand.setLoop (st : Strand) (n : BitVec 1) (lb le lc : Word) : Strand :=
  if n = 0#1 then { st with loops := { st.loops with lb0 := lb, le0 := le, lc0 := lc } }
  else { st with loops := { st.loops with lb1 := lb, le1 := le, lc1 := lc } }

/-- Set the active bit of a loop level. -/
def Strand.setAct (st : Strand) (n : BitVec 1) (on : Bool) : Strand :=
  let bit : BitVec 2 := if n = 0#1 then 1#2 else 2#2
  { st with lstat := if on then st.lstat ||| bit else st.lstat &&& ~~~bit }

/-- End a loop level: inactive, count 0 (R317). -/
def Strand.endLoop (st : Strand) (n : BitVec 1) : Strand :=
  if n = 0#1 then { st.setAct n false with loops := { st.loops with lc0 := 0#64 } }
  else { st.setAct n false with loops := { st.loops with lc1 := 0#64 } }

/-- Do something for each level a mask names. -/
def Strand.eachLevel (st : Strand) (m : BitVec 2) (f : Strand → BitVec 1 → Strand) : Strand :=
  let x := if bitAt 0 m then f st 0#1 else st
  if bitAt 1 m then f x 1#1 else x

/-- LCLR (R318): the redirect of LCLR itself is decided by the values before it. -/
def execLclr (m : BitVec 2) (s : State) : Host.Outcome State Fault Refusal :=
  .next (s.retireAfter s.cur (fun st => st.eachLevel m (fun x n => (x.setLoop n 0#64 0#64 0#64).setAct n false)))

/-- A level may be activated: LB ≤ LE and LC ≥ 1 (R318). -/
def Strand.loopOk (st : Strand) (n : BitVec 1) : Bool :=
  if n = 0#1 then decide (st.loops.lb0.toNat ≤ st.loops.le0.toNat) && st.loops.lc0 != 0#64
  else decide (st.loops.lb1.toNat ≤ st.loops.le1.toNat) && st.loops.lc1 != 0#64

/-- LSET (R318): a named level that fails its check traps with 0x07 and changes nothing. -/
def execLset (m : BitVec 2) (s : State) : Host.Outcome State Fault Refusal :=
  if (bitAt 0 m && !s.me.loopOk 0#1) || (bitAt 1 m && !s.me.loopOk 1#1) then .next (s.trapP 0x07 (wordVal (.lset m)))
  else .next (s.retireAfter s.cur (fun st => st.eachLevel m (fun x n => x.setAct n true)))

/-- LOOP (R315): a count of 0 skips the body. -/
def execLoop (a : BitVec 5) (n : BitVec 1) (i : BitVec 15) (s : State) : Host.Outcome State Fault Refusal :=
  let pc := s.me.pc
  let lc := s.me.rg a
  let le := target pc i
  if i.toInt < 1 then .next (s.trapP 0x07 (wordVal (.loop a n i)))
  else if lc = 0#64 then .next (s.jumpWith s.cur (le + 4#64) (fun st => (st.setLoop n (pc + 4#64) le lc).setAct n false))
  else .next (s.retireWith s.cur (fun st => (st.setLoop n (pc + 4#64) le lc).setAct n true))

/-- LOOPX (R317): where g(a) ≠ 0 the named levels end and the branch is taken. -/
def execLoopx (a : BitVec 5) (m : BitVec 2) (i : BitVec 15) (s : State) : Host.Outcome State Fault Refusal :=
  if s.me.rg a ≠ 0#64 then .next (s.jumpWith s.cur (target s.me.pc i) (fun st => st.eachLevel m Strand.endLoop))
  else .next (s.retireWith s.cur id)

end Sys2Proof.Machine
end

