-- ==== Sys2Proof/Machine/Records.lean ====
section
/-! DEFINITION. The host command processor: queue blocks (R84, R85), fetching and seals (R86, R87), the order of records (R90), and the
records LAUNCH, COPY, SIGNAL, WAIT, SETLAT and TENANT (R91–R99); tenant reset (R97). Accepted records wait in their queue until their
event; a record that goes on for longer stays in its queue as started. -/

namespace Sys2Proof.Machine

/-! ### Queue blocks (R84, R85) -/

/-- The fields of word 0 that software writes. -/
def HostQueue.setWord0 (b : HostQueue) (x : Word) : HostQueue :=
  { b with loc := bitAt 1 x, size := fieldAt 2 4 x, port := fieldAt 8 2 x, ten := fieldAt 10 4 x, pfq := bitAt 14 x, vec := fieldAt 16 11 x }

/-- EN is set (R85): the counters clear, or the write is refused for its SIZE; started records of before stay. A refused write leaves its other
fields in the block: the model's choice (log 59). -/
def HostQueue.enable (b : HostQueue) (x : Word) : HostQueue :=
  let f := b.setWord0 x
  if 12 < f.size.toNat then { f with err := true, en := false }
  else { f with en := true, err := false, stop := false, notify := 0, head := 0, ctail := 0, badSince := none, fetchAt := 0, latched := false,
                epoch := b.epoch + 1 }

/-- A record is of a type that waits for every record before it, and that every later record waits for (R90). -/
def barrierType (t : Nat) : Bool := t == 3 || t == 4 || t == 5 || t == 6 || t == 8

def HostRecord.type (r : HostRecord) : Nat := natAt 0 8 r.bytes

/-- The SEQ of a record. -/
def HostRecord.seq (r : HostRecord) : BitVec 32 := BitVec.ofNat 32 (r.index + 1)

/-- A record completes (R89); a DBG record that another module has forwarded is answered there (R244). Queue 64 + p holds those of peer p. -/
def State.finishRecord (s : State) (q : Nat) (r : HostRecord) (status : Nat) (value : Nat) : State :=
  if q < 64 then s.complete q r.seq r.epoch r.type status (value % 18446744073709551616)
  else (s.modQueue q (fun b => { b with records := b.records.erase r })).sendCtl [q - 64]
    (.debugReply r.reply.1 r.reply.2 status (value % 18446744073709551616))

/-- EN is cleared (R85): records that have not started, and a running WAIT, complete with ABORTED. -/
def State.disableQueue (s : State) (q : Nat) : State :=
  let s1 := s.modQueue q (fun b => { b with en := false, badSince := none })
  (s.queue q).records.foldl (fun x r => if r.started && r.type != 4 then x else x.finishRecord q r 0x0C 0) s1

/-- A write of word 0 of a queue block (R85): while EN is 1 only clearing EN has an effect; that the other fields of such a write are ignored
is the model's choice (log 59). -/
def State.writeQueue0 (s : State) (q : Nat) (x : Word) : State :=
  let b := s.queue q
  if b.en then (if bitAt 0 x then s else s.disableQueue q)
  else if bitAt 0 x then s.modQueue q (fun b => b.enable x)
  else s.modQueue q (fun b => b.setWord0 x)

/-- QUEUE_ENABLE (R85). -/
def execQueueEnable (s : State) : Host.Outcome State Fault Refusal := .next (s.writeQueue0 s.input.queue (s.input.value ||| 1#64))

/-- QUEUE_DISABLE (R85). -/
def execQueueDisable (s : State) : Host.Outcome State Fault Refusal := .next (s.writeQueue0 s.input.queue (s.input.value &&& ~~~1#64))

/-! ### Fetching (R86, R87) -/

/-- A queue is served (R33, R44, R87): READY is set, its port is up, and records are posted. -/
def State.fetches (s : State) (q : Nat) : Bool :=
  let b := s.queue q
  s.status.ready && s.awake && b.en && !b.stop && s.portUp b.port.toNat && b.notify != b.head

/-- The bytes of record HEAD in its ring; none where the ring does not lie in memory. -/
def State.ringRecord (s : State) (q : Nat) : Option (BitVec 512) :=
  let b := s.queue q
  let a := b.rbase.toNat * 64 + b.head.toNat % 2 ^ (4 + b.size.toNat) * 64
  (s.ringLoc b.loc b.port.toNat a).map (fun l => BitVec.ofNat 512 (s.readNat l 64))

/-- CHK of a record (R86): the first four bytes of SM3 over bytes 0–55 and SEQ, as a big-endian number. -/
def recordChk (r : BitVec 512) : BitVec 32 :=
  fieldAt 224 32 (sm3 ((List.range 60).map (fun i => fieldAt (8 * i) 8 r)))

/-- Fetch record HEAD (R87): it is accepted, or fetched again 1 µs later. -/
def State.fetchNow (s : State) (q : Nat) : State :=
  let b := s.queue q
  if !s.fetches q || decide (s.ticks < b.fetchAt) then s
  else
    let again := fun (bad : Option Nat) => s.modQueue q (fun b => { b with badSince := bad, fetchAt := s.ticks + ticksOf 1000 })
    match s.ringRecord q with
    | none => again none
    | some r =>
      if fieldAt 448 32 r ≠ b.head + 1#32 then again none
      else if fieldAt 480 32 r ≠ recordChk r then again (some (b.badSince.getD s.ticks))
      else s.modQueue q (fun b =>
        { b with head := b.head + 1, badSince := none, fetchAt := 0, records := b.records ++ [{ index := b.head.toNat, epoch := b.epoch, bytes := r }] })

/-- The same, of a queue whose turn it is after READY (R44). -/
def State.fetchRecord (s : State) (q : Nat) : State :=
  (if (s.queue q).latched then s.modQueue q (fun b => { b with latched := false }) else s).fetchNow q

/-- A write of NOTIFY (R44, R87): latched before READY, and a wake event (R49). -/
def State.writeNotify (s : State) (q : Nat) (x : Word) : State :=
  (s.wake.modQueue q (fun b => { b with notify := fieldAt 0 32 x, latched := !s.status.ready && b.en })).fetchNow q

/-- NOTIFY_WRITE (R87). -/
def execNotifyWrite (s : State) : Host.Outcome State Fault Refusal := .next (s.writeNotify s.input.queue s.input.value)

/-- RECORD_REFETCH (R87). -/
def execRecordRefetch (s : State) : Host.Outcome State Fault Refusal := .next (s.fetchRecord s.input.queue)

/-- SEAL_TIMEOUT (R87): after 10 ms of a wrong CHK the record completes with SEALERR and fetching stops. -/
def execSealTimeout (s : State) : Host.Outcome State Fault Refusal :=
  let q := s.input.queue
  let b := s.queue q
  match b.badSince with
  | none => .next s
  | some t =>
    if s.ticks < t + ticksOf 10000000 ∨ !b.en then .next s
    else
      let type := match s.ringRecord q with | some r => natAt 0 8 r | none => 0
      .next ((s.complete q (b.head + 1) b.epoch type 0x02 0).modQueue q (fun b => { b with stop := true, badSince := none }))

/-! ### The record of an event (R90) -/

/-- Change a record of a queue. -/
def State.modRecord (s : State) (q : Nat) (r : HostRecord) (f : HostRecord → HostRecord) : State :=
  s.modQueue q (fun b => { b with records := b.records.map (fun x => if x = r then f x else x) })

/-- A record may start (R90): the records before it in its queue have started, none of them holds back later ones, and a record that
waits for all of them is the first that has not completed. -/
def mayStart (before : List HostRecord) (r : HostRecord) : Bool :=
  before.all (fun b => b.started && !barrierType b.type) && (!barrierType r.type || before.isEmpty)

/-- The record the input names, by its queue, its SEQ and the time EN was set, if it has started or may start now. -/
def State.recordNow (s : State) : Option HostRecord :=
  let l := (s.queue s.input.queue).records
  match l.findIdx? (fun r => r.seq.toNat == s.input.seq % 4294967296 && r.epoch == s.input.idx) with
  | none => none
  | some i =>
    match l[i]? with
    | none => none
    | some r => if r.started || (s.status.ready && mayStart (l.take i) r) then some r else none

/-- A record that has started. -/
def State.startRecord (s : State) (q : Nat) (r : HostRecord) : State × HostRecord :=
  let r' := { r with started := true, startAt := s.ticks }
  (s.modRecord q r (fun _ => r'), r')

/-- Do something for the record of an event, which starts if it had not. -/
def State.withRecord (s : State) (f : State → Nat → HostRecord → State) : State :=
  match s.recordNow with
  | none => s
  | some r =>
    if r.started then f s s.input.queue r
    else
      let p := s.startRecord s.input.queue r
      f p.1 s.input.queue p.2

/-- A record that completes as soon as it starts. -/
def State.atOnce (s : State) (f : State → HostQueue → HostRecord → State × Nat × Nat) : State :=
  s.withRecord (fun x q r =>
    let o := f x (x.queue q) r
    o.1.finishRecord q r o.2.1 o.2.2)

/-- A field of a record: `n` bytes at byte `off`. -/
def HostRecord.word (r : HostRecord) (off : Nat) : Word := fieldAt (8 * off) 64 r.bytes
def HostRecord.num (r : HostRecord) (off n : Nat) : Nat := natAt (8 * off) (8 * n) r.bytes

/-- BADREC (R91). -/
def execBadrec (s : State) : Host.Outcome State Fault Refusal := .next (s.atOnce (fun x _ _ => (x, 0x01, 0)))

/-! ### LAUNCH (R98–R100) -/

/-- LAUNCH (R99, R100): the record completes when a check fails, or when the job ends. -/
def execLaunch (s : State) : Host.Outcome State Fault Refusal :=
  .next (s.withRecord (fun x q r =>
    if (s.recordNow.map (fun r => r.started)) = some true then x
    else
      let tn := (x.queue q).ten.toNat
      match x.checkLaunch tn (x.tenantAt tn { rd := true }) (r.word 8) with
      | .fails status value => x.finishRecord q r status value
      | .ok rec => x.accept tn rec (.host q r.seq.toNat r.epoch)))

/-! ### COPY (R73, R93) -/

/-- The name under which the writes of a record are noted for the bank fence, and the fence that ends a COPY: over its own writes, at system
scope (R73). -/
def recordWriter (q : Nat) (r : HostRecord) : Nat := 2 * (1 + 4294967296 * q + r.seq.toNat) + 1
def State.hostFence (s : State) (writer : Nat) : State :=
  { s with unfenced := tableMap [] s.unfenced (fun _ ws => ws.map (fun w =>
      if w.writer == writer then { w with covered := w.covered ++ [(hostWriter, s.cycle, 4)] } else w)) }

/-- A release of the host at a word: what its completed records have fenced comes before (R73, R94). -/
def State.hostRelease (s : State) (l : Loc) : State :=
  if s.unfenced = [] then s else { s with released := tableSet [] s.released l.wordKey (View.with [] hostWriter 4 s.cycle) }

/-- What an access of a host record comes to: it goes on, it waits, for a host port that does not answer where `silent`, or it fails. -/
inductive HostRun (α : Type) where
  | ok (x : α)
  | waits (silent : Bool)
  | fails

/-- The place of a run of bytes inside one 256-byte block, whose ends both translate; a locked word is waited for (R210), and a host page fails
when its port refuses, or does not answer for 50 ms from a cycle on (R103). R93 and R94 name XLATE for translation and range alone: the model
gives it for a bad line, a lost peer and such a host page too (log 57). -/
def State.hostPlace (s : State) (since : Option Nat) (tn : Nat) (n : Need) (va : Word) (len : Nat) : HostRun Loc :=
  match s.tenantAt tn n va, s.tenantAt tn n (va + BitVec.ofNat 64 (len - 1)) with
  | .at l _, .at _ _ =>
    if s.lockedFor 0 l len then .waits false
    else match s.hostAnswer l with
      | .completes => .ok l
      | .refuses => .fails
      | .silent => if since.any (fun t => decide (t + hostPatience ≤ s.cycle)) then .fails else .waits true
  | _, _ => .fails

/-- The places of the pieces of a run. -/
def State.hostPlaces (s : State) (since : Option Nat) (tn : Nat) (n : Need) (ps : List (Word × Nat)) : HostRun (List (Loc × Nat)) :=
  match ps with
  | [] => .ok []
  | (va, m) :: t =>
    match s.hostPlace since tn n va m, s.hostPlaces since tn n t with
    | .fails, _ => .fails
    | _, .fails => .fails
    | .waits b, _ => .waits b
    | _, .waits b => .waits b
    | .ok l, .ok r => .ok ((l, m) :: r)

/-- The bytes of a run's places. -/
def State.readPlaces (s : State) (ps : List (Loc × Nat)) : List Byte := ps.flatMap (fun p => s.readList p.1 p.2)

/-- The errors that stand in the lines a host record reads or writes are found (R75). -/
def State.hostMeet (s : State) (tn : Nat) (ps : List (Word × Nat)) : State := s.meetRun s.cpTlb tn ps

/-- A record goes on waiting for a place. -/
def State.recordWaits (s : State) (q : Nat) (r : HostRecord) (silent : Bool) : State :=
  s.modRecord q r (fun x => { x with hostSince := if silent then some (x.hostSince.getD s.cycle) else none })

/-- One chunk of a COPY (R93, R407, R410): read and written at one of its events. R407 gives no order among the words of a chunk, and lets 32
be in flight: the model's record moves one after the other, each as a whole (log 25). -/
def State.copyRecord (s : State) (q : Nat) (r : HostRecord) : State :=
  let tn := (s.queue q).ten.toNat
  let len := (r.word 24).toNat
  let dst := r.word 16 + BitVec.ofNat 64 r.moved
  let n := Nat.min (256 - dst.toNat % 256) (len - r.moved)
  let src := pieces 3 (r.word 8 + BitVec.ofNat 64 r.moved) n
  match s.hostPlaces r.hostSince tn { rd := true } src, s.hostPlace r.hostSince tn { wr := true } dst n with
  | .fails, _ => (s.hostMeet tn src).finishRecord q r 0x06 r.moved
  | _, .fails => (s.hostMeet tn (src ++ [(dst, n)])).finishRecord q r 0x06 r.moved
  | .waits b, _ => s.recordWaits q r b
  | _, .waits b => s.recordWaits q r b
  | .ok ps, .ok l =>
    let s1 := (s.engPut l (s.readPlaces ps) 0 (recordWriter q r)).hostMeet tn (src ++ [(dst, n)])
    if len ≤ r.moved + n then (s1.hostFence (recordWriter q r)).finishRecord q r 0x00 len
    else s1.modRecord q r (fun x => { x with moved := r.moved + n, hostSince := none })

/-- COPY (R93): the record starts, then moves one chunk at each of its events. -/
def execCopy (s : State) : Host.Outcome State Fault Refusal := .next (s.withRecord State.copyRecord)

/-- COPY with PUB set (R93, R328). -/
def execCopyPublish (s : State) : Host.Outcome State Fault Refusal :=
  .next (s.atOnce (fun x b r =>
    let tn := b.ten.toNat
    let met := fun y => x.meetPublished y x.cpTlb tn (x.tenantAt tn { rd := true }) (r.word 8) (r.word 16) (some (r.word 24).toNat)
    match x.publish tn (x.tenantAt tn { rd := true }) (r.word 8) (r.word 16) (some (r.word 24).toNat) with
    | .fails w => (met x, 0x00, w.toNat)
    | .done x1 h => ((met x1).hostFence hostWriter, 0x00, h.toNat)))

/-! ### SIGNAL and WAIT (R94) -/

/-- SIGNAL (R94): a store with a release at system scope. -/
def execSignal (s : State) : Host.Outcome State Fault Refusal :=
  .next (s.withRecord (fun x q r =>
    let tn := (x.queue q).ten.toNat
    match x.hostPlace r.hostSince tn { wr := true } (r.word 8) 8 with
    | .fails => (x.hostMeet tn [(r.word 8, 8)]).finishRecord q r 0x06 0
    | .waits b => x.recordWaits q r b
    | .ok l => (((((x.hostMeet tn [(r.word 8, 8)]).writeNat l 8 (r.word 16).toNat (recordWriter q r)).serve l 8).hostRelease l).finishRecord q r 0x00 0)))

/-- The test of a WAIT (R92). -/
def waitHolds (test : Nat) (v y : Word) : Bool :=
  match test with
  | 0 => v == y
  | 1 => decide (y.toNat ≤ v.toNat)
  | _ => v != y

/-- One poll of a WAIT (R94): it completes, or reads again 1 µs later. -/
def State.pollWait (s : State) (q : Nat) (r : HostRecord) : State :=
  if s.ticks < r.nextAt then s
  else
    let tn := (s.queue q).ten.toNat
    let again := fun (x : State) (silent : Bool) =>
      if r.num 28 4 ≠ 0 ∧ r.startAt + ticksOf (1000 * r.num 28 4) ≤ s.ticks then x.finishRecord q r 0x09 0
      else x.modRecord q r (fun y => { y with nextAt := s.ticks + ticksOf 1000, hostSince := if silent then some (y.hostSince.getD s.cycle) else none })
    match s.hostPlace r.hostSince tn { rd := true } (r.word 8) 8 with
    | .fails => (s.hostMeet tn [(r.word 8, 8)]).finishRecord q r 0x06 0
    | .waits b => again s b
    | .ok l =>
      let s1 := s.hostMeet tn [(r.word 8, 8)]
      if waitHolds (r.num 24 1) (BitVec.ofNat 64 (s1.readNat l 8)) (r.word 16) then s1.finishRecord q r 0x00 0 else again s1 false

/-- WAIT (R94): starts with its first poll. -/
def execWait (s : State) : Host.Outcome State Fault Refusal := .next (s.withRecord State.pollWait)

/-- WAIT_POLL (R94). -/
def execWaitPoll (s : State) : Host.Outcome State Fault Refusal :=
  .next (if (s.recordNow.map (fun r => r.started)) = some true then s.withRecord State.pollWait else s)

/-! ### SETLAT and TENANT (R48, R92, R95, R96, R127) -/

/-- The function that owns a queue. -/
def HostQueue.fn (b : HostQueue) : HostFn := { port := b.port, vf := if b.pfq then none else some b.ten }

/-- SETLAT (R48, R95): the posting function's tolerance; a part too deep for it leaves its state. -/
def execSetlat (s : State) : Host.Outcome State Fault Refusal :=
  .next (s.atOnce (fun x b r =>
    let k := tolKey b.fn
    let x1 := { x with power := { x.power with tolerance := tableSet (2 ^ 64) (x.power.tolerance.filter (fun p => p.1 ≠ k)) k (r.word 8).toNat } }
    (if x1.tolerance < (stateTimes x1.status.pstate.toNat).2 then x1.wake else x1, 0x00, 0)))

/-- Minimum tiles of a tenant, of the record that waits to take effect where there is one. -/
def State.minOf (s : State) (n : Nat) : Nat := match (s.ten n).pending with | some t => t.min | none => (s.ten n).set.min

/-- No gang of any tenant holds tiles. -/
def State.noneHeld (s : State) : Bool := s.allGangs.all (fun id => !(s.gangAt id).state.holds)

/-- TENANT (R92, R96, R127). -/
def execTenant (s : State) : Host.Outcome State Fault Refusal :=
  .next (s.atOnce (fun x b r =>
    let n := r.num 8 1
    let t : TenantSet := { min := r.num 10 2, max := some (r.num 12 2), prioCap := r.num 14 1, service := r.num 16 4,
                           mask := BitVec.ofNat 16 (r.num 20 2), root := r.word 24 }
    let sum := (((List.range 16).filter (fun m => m ≠ n)).map x.minOf).foldl (· + ·) 0 + t.min
    if !b.pfq || decide (x.status.pool.toNat < sum) || decide (r.num 12 2 < t.min) then (x, 0x05, 0)
    else
      let x1 := x.modTen n (fun y => { y with pending := some t })
      (if x1.noneHeld then x1.applyTenants else x1, 0x00, 0)))

/-! ### Tenant reset (R97) -/

/-- TENANT_RESET (R97, R328): the tenant's jobs end with ABORTED, its published objects are released, its queues' EN is cleared; pages and memory
stay. -/
def execTenantReset (s : State) : Host.Outcome State Fault Refusal :=
  let n := s.input.tenant
  let s1 := ((s.jobs.filter (fun p => p.2.tenant == n && p.2.phase != .ended)).map (·.1)).foldl (fun x h => x.endJob h 0x0C 0) s
  let s2 := { s1 with published := s1.published.filter (fun o => o.tenant != n) }
  .next (((List.range 64).filter (fun q => let b := s2.queue q; b.en && b.ten.toNat == n && !b.pfq)).foldl State.disableQueue s2)

end Sys2Proof.Machine
end

