-- ==== Sys2Proof/Machine/Multi.lean ====
section
/-! DEFINITION. Jobs of several modules (R102, R145) and the loss of a module (R38, R102, R104, R141). The module that accepted a job is its
coordinator; a part of another module's job is held under a handle of its own and names the coordinator's. -/

namespace Sys2Proof.Machine

/-- The local handle of the part of a job of another module. -/
def State.partOf (s : State) (peer handle : Nat) : Option Nat :=
  (s.jobs.find? (fun p => p.2.origin == .remote peer && p.2.remote == handle && p.2.phase != .ended)).map (·.1)

/-- The local handle of a job by its name, where the module that names it is another one of the job. -/
def State.jobNamed (s : State) (peer name : Nat) : Option Nat :=
  (s.jobs.find? (fun p => p.2.phase != .ended && bitAt peer (s.othersOf p.1) && s.jobName p.1 == name)).map (·.1)

/-- Every strand of a job that stood stopped goes on (R145); a gang on a tile in a thermal emergency leaves (R53). -/
def State.resumeJob (s : State) (h : Nat) : State :=
  (List.range (s.job h).gangCount).foldl (fun x n =>
    let g := x.gang h n
    if g.state = .resident ∨ (g.state = .stopping ∧ g.reason = .save) then
      ((x.members h n).foldl State.resumeCtx (x.modGang h n (fun g => { g with state := .resident }))).coolGang h n
    else x) s

/-- A module no longer holds a job for its SAVE: the job goes on once none holds it, it was not saved with HALT, and it is no restored part that
waits for its start (R96, R145). -/
def State.letGo (s : State) (h p : Nat) : State :=
  let s1 := s.modJob h (fun j => { j with holds := j.holds &&& ~~~(1#64 <<< p), savers := j.savers.erase p, progress := s.ticks })
  if (s1.job h).saveHalted || (s1.job h).restored then s1 else s1.resumeJob h

/-- The start or restart of a job over several modules fails (R102, R145). -/
def State.cancelStart (s : State) (h : Nat) : State :=
  (s.sendCtl (peerList (recPeers (s.job h).record)) (.cancel h)).endJob h 0x07 0

/-- A job waits for acknowledgements (R102, R145). -/
def Job.awaits (j : Job) : Bool := j.phase == .arming || (j.phase == .live && j.restored && j.owed != 0#64)

/-! ### The two-phase start (R102, R145) -/

/-- ARM for a saved job (R145): the answer says whether this module's part is restored and stopped; the status of the NAK, LAUNCH_PEER, is the
model's choice (log 62). -/
def State.armSaved (s : State) (p h : Nat) : State :=
  match s.partOf p h with
  | some l => if (s.job l).restored then s.sendCtl [p] (.armAck h) else s.sendCtl [p] (.armNak h 0x07#8)
  | none => s.sendCtl [p] (.armNak h 0x07#8)

/-- The first gang of a job that this module runs. -/
def Job.firstHere (j : Job) : Option Nat := (List.range j.gangCount).find? (fun n => (tableGet none j.away n).isNone)

/-- ARM with a new record: it is checked, and tiles are reserved for the first gang that this module runs; whichever tiles are asked for beyond
those is the model's choice (log 44). -/
def State.armNew (s : State) (p h : Nat) (r : BitVec 1024) : State :=
  match s.checkRecord (recTen r % 16) r with
  | .fails status _ => s.sendCtl [p] (.armNak h (BitVec.ofNat 8 status))
  | .ok r =>
    let l := s.nextHandle
    let s1 := s.accept (recTen r % 16) r (.remote p)
    let s2 : State := { (s1.modJob l (fun j => { j with phase := .armed, remote := h, owed := 0#64 })) with sent := s.sent }
    let free := s2.freeTiles
    match (s2.job l).firstHere with
    | none => s2.sendCtl [p] (.armAck h)
    | some n =>
      if (s2.job l).g ≠ 0 ∧ (s2.job l).members n ≤ free.length then (s2.assign (s2.members l n) free).sendCtl [p] (.armAck h)
      else (s2.modJob l (fun j => { j with phase := .ended, gangs := [] })).sendCtl [p] (.armNak h 0x07#8)

/-- ARM (R102, R145). It comes in a flit, and so do those below: a wake event (R49). -/
def execArm (s : State) : Host.Outcome State Fault Refusal :=
  .next (if s.input.saved then s.wake.armSaved s.input.peer s.input.handle else s.wake.armNew s.input.peer s.input.handle s.input.launch)

/-- ARM-ACK of a peer, which counts for 50 µs after ARM: once none is owed, GO is sent and the job starts, or goes on from where it was saved. -/
def State.armAck (s : State) (p h : Nat) : State :=
  let j := s.job h
  if !j.awaits ∨ j.armAt + ticksOf 50000 < s.ticks then s
  else
    let owed := j.owed &&& ~~~(1#64 <<< p)
    let s1 := s.modJob h (fun j => { j with owed := owed })
    if owed ≠ 0#64 then s1
    else
      let s2 := s1.sendCtl (peerList (recPeers j.record)) (.go (s.jobName h))
      if j.phase = .arming then s2.modJob h (fun j => { j with phase := .live, progress := s.ticks })
      else (s2.modJob h (fun j => { j with restored := false })).letGo h s.env.self

/-- ARM_ACK (R102, R145). -/
def execArmAck (s : State) : Host.Outcome State Fault Refusal := .next (s.wake.armAck s.input.peer s.input.handle)

/-- ARM-NAK. -/
def State.armNak (s : State) (h : Nat) : State := if (s.job h).awaits then s.cancelStart h else s

/-- ARM_NAK (R102, R145). -/
def execArmNak (s : State) : Host.Outcome State Fault Refusal := .next (s.wake.armNak s.input.handle)

/-- ARM_TIMEOUT (R102, R145): an ARM-ACK is missing 50 µs after ARM. -/
def execArmTimeout (s : State) : Host.Outcome State Fault Refusal :=
  let j := s.job s.input.handle
  .next (if j.awaits && decide (j.armAt + ticksOf 50000 ≤ s.ticks) then s.cancelStart s.input.handle else s)

/-- GO, with the name of the job: the gangs of an armed part start, the first on its reserved tiles; a restored part goes on where its coordinator
says so; any other job is let go by the module that had stopped it. -/
def State.go (s : State) (p h : Nat) : State :=
  match s.jobNamed p h with
  | none => s
  | some l =>
    if (s.job l).phase = .armed then
      let s1 := s.modJob l (fun j => { j with phase := .live, progress := s.ticks })
      match (s.job l).firstHere with
      | some n => s1.modGang l n (fun g => { g with state := .loading, since := s.ticks })
      | none => s1
    else if (s.job l).restored ∧ (s.job l).origin = .remote p then (s.modJob l (fun j => { j with restored := false })).letGo l p
    else s.letGo l p

/-- GO (R102, R145). -/
def execGo (s : State) : Host.Outcome State Fault Refusal := .next (s.wake.go s.input.peer s.input.handle)

/-- CANCEL: a reservation is released, and a part of a saved job ends, restored or still live (R145). -/
def State.cancel (s : State) (p h : Nat) : State :=
  match s.partOf p h with
  | none => s
  | some l => s.endJob l 0x07 0

/-- CANCEL (R102, R145). -/
def execCancel (s : State) : Host.Outcome State Fault Refusal := .next (s.wake.cancel s.input.peer s.input.handle)

/-! ### What modules tell each other (R139–R141; log 44) -/

/-- A module's gangs go back (R141): this module's do too, and its mark counts. -/
def State.rolled (s : State) (p h mark : Nat) : State :=
  match s.jobNamed p h with
  | none => s
  | some l =>
    let s1 := s.startRecovery l
    s1.modJob l (fun j => { j with
      rollOwed := j.rollOwed &&& ~~~(1#64 <<< p)
      gangs := tableMap {} j.gangs (fun n g => if tableGet none j.away n = some p && g.state != .retired then { g with mark := Nat.min g.mark mark } else g) })

/-- A gang of another module has completed a mark, or has retired. -/
def State.peerGang (s : State) (p h n : Nat) (f : Gang → Gang) : State :=
  match s.jobNamed p h with
  | none => s
  | some l => if tableGet none (s.job l).away n = some p then s.modGang l n f else s

/-- The buddy image of another module's gang is written into its slot here, in the BUDSEL range of this module (R140). -/
def State.keepImage (s : State) (p h n k : Nat) (i : Image) : State :=
  let s1 := s.peerGang p h n (fun g => { g with slots := tableSet {} g.slots (k % 2) i })
  match s.jobNamed p h with
  | none => s1
  | some l => if tableGet none (s.job l).away n = some p then s1.writeSlot l n k ((s.reload l n i).markImage l n k) else s1

/-- A gang of another module has retired (R113): the job completes with the last. -/
def State.peerRetired (s : State) (p h n : Nat) : State :=
  let s1 := s.peerGang p h n (fun g => { g with state := .retired })
  match s1.jobNamed p h with
  | none => s1
  | some l =>
    let s2 := s1.modJob l (fun j => { j with xlt := (s1.members l n).foldl (fun t c => tableSet {} t (vtidOf c) { tableGet {} t (vtidOf c) with done := true }) j.xlt })
    if (s2.job l).phase = .live ∧ (List.range (s2.job l).gangCount).all (fun k => (s2.gang l k).state == .retired) then s2.endJob l 0 0 else s2

/-- A job has failed on another module (R107). -/
def State.peerEnded (s : State) (p h status cause : Nat) : State :=
  match s.jobNamed p h with
  | none => s
  | some l => s.endJob l status cause

/-- A packet from another module (R37, R203). -/
def State.peerPacket (s : State) (p h : Nat) (k : InPacket) : State :=
  match s.jobNamed p h with
  | none => s
  | some l => s.sendWhole { k with dest := ctxKey l (vtidOf k.dest), view := [] }

/-- A write of another module to rim memory, by rim physical address (R104, R187). -/
def State.peerStore (s : State) (a : Nat) (bs : List Byte) : State :=
  match s.rimKey a with
  | some k => s.engPut (.rim k false) bs 0 hostWriter
  | none => s

/-- A read of another module of rim memory is answered on channel 1 (R37, R104). -/
def State.peerFetch (s : State) (p a n t : Nat) : State :=
  match s.rimKey a with
  | some k => s.sendCtl [p] (.data t (s.readList (.rim k false) (Nat.min n 256)))
  | none => s

/-! ### The loss of a module (R38, R102, R104, R141, R145) -/

/-- The loss of a module, for one job (R102, R138, R141, R145). A coordinator that still waits for acknowledgements cancels at once, whoever has
acknowledged: the model's choice (log 62). -/
def State.loseModule (s : State) (p h : Nat) : State :=
  let j := s.job h
  if !bitAt p (s.othersOf h) then s
  else if j.phase = .armed then (if j.origin = .remote p then s.endJob h 0x07 0 else s)
  else if j.awaits then s.cancelStart h
  else if j.phase = .live ∧ j.restored then (if j.origin = .remote p then s.modJob h (fun j => { j with armAt := s.ticks }) else s)
  else if j.phase = .live then ((s.loseFor h).rehome h p).modJob h (fun j => { j with owed := j.owed &&& ~~~(1#64 <<< p), holds := j.holds &&& ~~~(1#64 <<< p), savers := j.savers.erase p })
  else s

/-- Answers that a lost module owes to a DBG record will not come: NOVAL (R244). -/
def State.loseReplies (s : State) (p : Nat) : State :=
  { s with hq := tableMap {} s.hq (fun _ b => { b with records := b.records.map (fun r =>
      if bitAt p r.owed then { r with owed := r.owed &&& ~~~(1#64 <<< p), sum := 18446744073709551615 } else r) }) }

/-- PEER_LOST (R38, R102, R104, R145, R244): no flit for 200 µs. -/
def execPeerLost (s : State) : Host.Outcome State Fault Refusal :=
  let p := s.input.peer
  let x := s.peer p
  if !x.routed ∨ x.lost ∨ s.ticks < x.lastFlit + ticksOf 200000 then .next s
  else
    let s1 := (s.modPeer p (fun y => { y with lost := true })).loseReplies p
    .next (((s1.jobs.filter (fun q => q.2.phase != .ended && recMulti q.2.record)).map (·.1)).foldl (fun y h => y.loseModule p h) s1)

/-- RESTORED_PART_DISCARD (R145): no ARM within 50 µs of the coordinator's loss. -/
def execRestoredPartDiscard (s : State) : Host.Outcome State Fault Refusal :=
  match s.partOf s.input.peer s.input.handle with
  | none => .next s
  | some l =>
    if (s.job l).restored ∧ (s.peer s.input.peer).lost ∧ (s.job l).armAt + ticksOf 50000 ≤ s.ticks then .next (s.endJob l 0x07 0) else .next s

/-! ### Stops of a SAVE (R96, R145) -/

/-- Every gang of a job that holds tiles is asked to stop for a SAVE. -/
def State.stopForSave (s : State) (h : Nat) : State :=
  (List.range (s.job h).gangCount).foldl (fun x n => if (x.gang h n).state = .resident then x.stopGang h n .save false else x) s

/-- The gangs of a job have reached their stop points. -/
def State.stoppedForSave (s : State) (h : Nat) : Bool :=
  (List.range (s.job h).gangCount).all (fun n =>
    let g := s.gang h n
    match g.state with
    | .stopping => g.reason == .save && s.gangStopped h n
    | .resident => false
    | .loading => false
    | .recovering => false
    | _ => true)

/-- A module asks for a stop: the gangs stop, those that are loading once they are resident, and once all have, that is confirmed to it. -/
def State.remoteStop (s : State) (p h : Nat) : State :=
  match s.jobNamed p h with
  | none => s
  | some l =>
    let s0 := if (s.job l).savers.contains p then s else s.wake.modJob l (fun j => { j with holds := j.holds ||| (1#64 <<< p), savers := j.savers ++ [p] })
    let s1 := s0.stopForSave l
    if s1.stoppedForSave l then (s1.modJob l (fun j => { j with savers := j.savers.erase p })).sendCtl [p] (.confirm h) else s1

/-- REMOTE_STOP (R145). -/
def execRemoteStop (s : State) : Host.Outcome State Fault Refusal := .next (s.remoteStop s.input.peer s.input.handle)

/-- A stop is confirmed. -/
def State.stopConfirm (s : State) (p h : Nat) : State :=
  match s.jobNamed p h with
  | none => s
  | some l => s.modJob l (fun j => { j with owed := j.owed &&& ~~~(1#64 <<< p) })

/-- STOP_CONFIRM (R145). -/
def execStopConfirm (s : State) : Host.Outcome State Fault Refusal := .next (s.wake.stopConfirm s.input.peer s.input.handle)

end Sys2Proof.Machine
end

