-- ==== Sys2Proof/Machine/Device.lean ====
section
/-! DEFINITION. SAVE and RESTORE of the whole part (R96, R144, R145, R232). An image is kept as data beside the bytes that are written: the
spec gives the layout of its sections only in part (log 10). -/

namespace Sys2Proof.Machine

/-! ### SAVE (R96, R144) -/

/-- Bytes of the image (R228, R229, R232): the sections, every gang image, and the trailer. -/
def State.saveBytes (s : State) : Nat :=
  65536 * (Config.sections s.free).toNat
    + (s.liveJobs.map (fun h => 65536 * (Config.jobSection s.free (2 * h) + Config.jobSection s.free (2 * h + 1)) + roundUp (4 * recTiles (s.job h).record) 65536)).foldl (· + ·) 0
    + ((s.allGangs.filter (fun id => (s.gangAt id).state != .retired)).map (fun id =>
        65536 + ((s.members id.1 id.2).map s.recordBytes).foldl (· + ·) 0)).foldl (· + ·) 0
    + 64

/-- SAVE starts: every job stops, on every module (R96, R145); a restored job that waits for its start stands stopped on each. -/
def State.beginSave (s : State) : State :=
  s.liveJobs.foldl (fun x h =>
    let y := (x.modJob h (fun j => { j with holds := j.holds ||| (1#64 <<< x.env.self) })).stopForSave h
    if (x.job h).restored then y
    else
      let others := (peerList (x.othersOf h)).filter (fun p => !(x.peer p).lost)
      (y.modJob h (fun j => { j with owed := others.foldl (fun m p => m ||| (1#64 <<< p)) 0#64 })).sendCtl others (.stop (x.jobName h))) s

/-- Everything has stopped. -/
def State.saveReady (s : State) : Bool :=
  s.liveJobs.all (fun h => s.stoppedForSave h && (s.job h).owed == 0#64) && s.moves.isEmpty

/-- The jobs go on after a SAVE, on every module, but for those that an earlier SAVE with HALT keeps stopped until a RESTORE (R96). R145 names no
message by which the others learn of it: the model sends GO (log 53). -/
def State.resumeAll (s : State) : State :=
  s.liveJobs.foldl (fun x h =>
    if (x.job h).halted then x
    else if (x.job h).restored then x.letGo h x.env.self
    else (x.letGo h x.env.self).sendCtl (peerList (x.othersOf h)) (.go (x.jobName h))) s

/-- The firmware that runs (R39). -/
def State.firmware (s : State) : FirmwareSlot := if s.laroon.slot = some 2 then s.laroon.slotB else s.laroon.slotA

/-- The buddy slots of a job's gangs are not copied (R144). -/
def Job.withoutSlots (j : Job) : Job := { j with gangs := tableMap {} j.gangs (fun _ g => { g with slots := [] }) }

/-- What an image captures (R144, R232). -/
def State.snapshot (s : State) (tn : Nat) (va : Word) (n : Nat) (d : BitVec 256) : Saved :=
  { tenant := tn, addr := va, length := n, version := s.firmware, tick := s.ticks,
    jobs := (s.jobs.filter (fun p => p.2.phase == .live)).map (fun p => (p.1, p.2.withoutSlots)), ctxs := s.ctxs,
    strands := s.strands, hq := s.hq, range := s.range, tenants := s.tenants, fault := s.fault, sched := s.sched, published := s.published,
    peers := s.peers, digest := d }

/-- The traffic of an image is charged to the gangs whose contexts it holds (R246). -/
def State.chargeSave (s : State) : State :=
  s.allGangs.foldl (fun x id => (x.members id.1 id.2).foldl (fun y c => if (y.ctx c).live || (y.ctx c).retired then y.charge c (trafficPj (y.recordBytes c)) else y) x) s

/-- A SAVE that has stopped everything writes its image (R96). -/
def State.finishSave (s : State) (q : Nat) (r : HostRecord) : State :=
  let tn := (s.queue q).ten.toNat
  let n := s.saveBytes
  let halt := bitAt 8 r.bytes
  if (r.word 16).toNat < n then s.resumeAll.finishRecord q r 0x0A 0
  else
    let run := pieces (n / 256 + 2) (r.word 8) n
    match s.hostPlaces r.hostSince tn { wr := true } run with
    | .fails => (s.hostMeet tn run).resumeAll.finishRecord q r 0x06 0
    | .waits b => s.recordWaits q r b
    | .ok ps =>
      let bs := s.partImage s.free n
      let s1 := { ((s.chargeSave.hostMeet tn run).writePlaces hostWriter ps bs).bump with saved := s.saved ++ [s.snapshot tn (r.word 8) n (sm3 (bs.take (n - 64)))] }
      (if halt then s1.liveJobs.foldl (fun x h => x.modJob h (fun j => { j with halted := true })) s1 else s1.resumeAll).finishRecord q r 0x00 n

/-- SAVE (R96, R144, R145): it starts by stopping everything and is looked at again until everything has stopped. -/
def execSave (s : State) : Host.Outcome State Fault Refusal :=
  .next (s.withRecord (fun x q r =>
    if !(x.queue q).pfq then x.finishRecord q r 0x05 0
    else
      let y := if (s.recordNow.map (fun r => r.started)) = some true then x.liveJobs.foldl State.stopForSave x else x.beginSave
      if y.saveReady then y.finishSave q r else y))

/-! ### RESTORE (R96, R144, R145) -/

/-- Queues after a RESTORE: those of the image, without its SAVE record; the queue of the RESTORE keeps its block and gains the started
records of the image, as of a time of EN of their own (log 10). -/
def restoredQueues (now : Table HostQueue) (old : Table HostQueue) (q : Nat) : Table HostQueue :=
  (List.range 64).foldl (fun t k =>
    let b := tableGet {} old k
    let rs := b.records.filter (fun r => r.type != 5)
    let n := tableGet {} now k
    tableSet {} t k (if k = q then { n with
        epoch := n.epoch + b.epoch + 1
        records := (rs.filter (fun r => r.started)).map (fun r => { r with epoch := r.epoch + n.epoch }) ++ n.records }
      else { b with records := rs })) []

/-- A gang of an image: not resident until it is placed. Times go on from the saved ones, so that the waiting order stays (R123, R144). -/
def Gang.restored (g : Gang) (shift : Int) : Gang :=
  let late := g.eligibleAt.map (fun t => t + shift)
  let e : Gang := { g with slots := [], blockedSince := none, leavesFor := none }
  match g.state with
  | .resident => { e with state := .swapped, parkAlloc := true, eligibleAt := none }
  | .stopping => { e with state := .swapped, parkAlloc := true, eligibleAt := none }
  | .loading => { e with state := .swapped, eligibleAt := late }
  | _ => { e with eligibleAt := late }

/-- A job of an image: a part of a job over several modules stays stopped, and its coordinator starts it again (R145). -/
def Job.restore (j : Job) (ticks : Nat) (shift : Int) : Job :=
  let multi := recMulti j.record
  { j with
    gangs := tableMap {} j.gangs (fun n g => if (tableGet none j.away n).isSome then g else g.restored shift)
    xlt := tableMap {} j.xlt (fun _ e => { e with res := false, move := false, drain := false })
    progress := ticks
    armAt := ticks
    holds := 0#64
    halted := false
    savers := []
    rollOwed := 0#64
    restored := multi
    owed := match j.origin with | .remote _ => 0#64 | _ => if multi then recPeers j.record else 0#64 }

/-- The gangs that were resident are placed again in their order; a gang that does not fit waits as swapped, and holds back the later ones of its
tenant (R123, R144). -/
def State.placeRestored (s : State) (held : List Nat) (was : List (Nat × Nat)) : State :=
  match was with
  | [] => s
  | id :: t =>
    if held.contains (s.gangTenant id) then s.placeRestored held t
    else if s.fits id s.freeTiles.length 0 then
      ((s.assign (s.members id.1 id.2) s.freeTiles).modGang id.1 id.2 (fun g => { g with state := .loading, since := s.ticks })).placeRestored held t
    else s.placeRestored (s.gangTenant id :: held) t

/-- A gang that was resident and could not be placed waits ahead of those that were not (R144). -/
def State.aheadOf (s : State) (was : List (Nat × Nat)) : State :=
  was.zipIdx.foldl (fun x p => x.modGang p.1.1 p.1.2 (fun g => if g.state = .swapped then { g with eligibleAt := some ((p.2 : Int) - 2 ^ 62) } else g)) s

/-- The state of an image on this part. -/
def State.reinstate (s : State) (v : Saved) (q : Nat) : State :=
  let ctxs : Table Ctx := tableMap {} v.ctxs (fun _ c => { c with activity := 0, movedAt := none })
  let shift : Int := (s.ticks : Int) - v.tick
  let jobs : Table Job := tableMap {} v.jobs (fun _ j => { j.restore s.ticks shift with
    origin := match j.origin with | .host k n e => if k = q then .host k n (e + (s.queue q).epoch) else j.origin | o => o })
  let s1 : State := { s with
    jobs := jobs.foldl (fun (t : Table Job) (p : Nat × Job) => tableSet {} t p.1 p.2) s.jobs
    ctxs := ctxs
    strands := v.strands
    hq := restoredQueues s.hq v.hq q
    range := v.range
    tenants := tableMap {} v.tenants (fun _ t => { t with delivered := t.delivered.map (fun p => (p.1 + shift, p.2.1 + shift, p.2.2)) })
    fault := v.fault
    peers := tableMap {} v.peers (fun _ p => { p with lastFlit := s.ticks })
    sched := { v.sched with lastTurn := s.cycle, turn := 0 }
    published := (s.published ++ v.published).dedup
    nextHandle := v.jobs.foldl (fun m (p : Nat × Job) => Nat.max m (p.1 + 1)) s.nextHandle }
  let was := s1.allGangs.filter (fun (id : Nat × Nat) => (v.jobs.any (fun (p : Nat × Job) => p.1 == id.1)) &&
    (match ((tableGet {} v.jobs id.1 : Job).gang id.2).state with | .resident => true | .stopping => true | _ => false))
  let order := inOrder s1.waitKey was
  let s2 := (s1.placeRestored [] order).aheadOf order
  let s3 := v.jobs.foldl (fun x p => if recMulti p.2.record ∧ (x.job p.1).owed ≠ 0#64 then
      x.sendCtl (peerList (recPeers p.2.record)) (.armSaved p.1) else x) s2
  s3.endTooLarge

/-- RESTORE (R96, R144, R145, R232). -/
def execRestore (s : State) : Host.Outcome State Fault Refusal :=
  .next (s.withRecord (fun x q r =>
    let tn := (x.queue q).ten.toNat
    let n := (r.word 16).toNat
    if !(x.queue q).pfq || x.jobs.any (fun p => p.2.phase != .ended) then x.finishRecord q r 0x05 0
    else
      let run := pieces (n / 256 + 2) (r.word 8) n
      match x.hostPlaces r.hostSince tn { rd := true } run with
      | .fails => (x.hostMeet tn run).finishRecord q r 0x06 0
      | .waits b => x.recordWaits q r b
      | .ok ps =>
        let bs := x.readPlaces ps
        let d := sm3 (bs.take (n - 64))
        let good := decide (64 ≤ n) && (bs.drop (n - 64)).take 8 == (List.range 8).map (fun i => BitVec.ofNat 8 (n / 256 ^ i))
          && (bs.drop (n - 56)).take 32 == digestBytes d
        match (if good then x.saved.find? (fun v => v.digest == d && v.length == n && v.version == x.firmware) else none) with
        | none => (x.hostMeet tn run).finishRecord q r 0x0B 0
        | some v => ((x.hostMeet tn run).reinstate v q).finishRecord q r 0x00 0))

end Sys2Proof.Machine
end

