-- ==== Sys2Proof/Machine/Ras.lean ====
section
/-! DEFINITION. Scrub of HBM4E rows (R75–R77), and the writes of the range table (R58, R59, R62). -/

namespace Sys2Proof.Machine

/-! ### Scrub (R75–R77) -/

/-- A scrub of a line finds what stands in it, and what the event brings (R75, R76). -/
def State.scrub (s : State) (k line : Nat) (e : LineError) : State := (s.meetLine (k * 68719476736 + line * 256)).lineError k line e

/-- PATROL_SCRUB (R75, R76): a line of a stack is read and corrected; the energy the input gives goes to the overhead account. -/
def execPatrolScrub (s : State) : Host.Outcome State Fault Refusal :=
  .next ((s.scrub s.input.stack s.input.line s.input.err).chargeOverhead s.input.value.toNat)

/-- HOT_LIST_SCRUB (R76): the same for a line of a row on the hot list. -/
def execHotListScrub (s : State) : Host.Outcome State Fault Refusal :=
  let k := s.input.stack
  if (s.stack k).hot.contains (Config.rowOf k s.input.line) then
    .next ((s.scrub k s.input.line s.input.err).chargeOverhead s.input.value.toNat)
  else .next s

/-- HOT_LIST_EXPIRY (R77): rows whose score has fallen to 0 leave the list. -/
def execHotListExpiry (s : State) : Host.Outcome State Fault Refusal :=
  .next (s.modStack s.input.stack (fun st => { st with hot := st.hot.filter (fun r => s.score st r != 0) }))

/-! ### The range table (R58, R59, R62) -/

/-- Bytes of an entry in each of its stacks. -/
def RangeEntry.perStack (e : RangeEntry) : Nat := (e.limitAddr - e.baseAddr) / (stackList e.stackSet).length

/-- Two entries overlap, in physical addresses or in a stack (R59). -/
def RangeEntry.clashes (e f : RangeEntry) : Bool :=
  overlaps e.baseAddr (e.limitAddr - e.baseAddr) f.baseAddr (f.limitAddr - f.baseAddr)
    || (e.stackSet &&& f.stackSet != 0#48 && overlaps e.sbaseAddr e.perStack f.sbaseAddr f.perStack)

/-- A write of VALID = 1 is accepted (R59). -/
def State.rangeOk (s : State) (n : Nat) (e : RangeEntry) : Bool :=
  let k := (stackList e.stackSet).length
  decide (e.gran.toNat ≤ 8) && decide (1 ≤ k) && decide (e.baseAddr < e.limitAddr) && (e.limitAddr - e.baseAddr) % (65536 * k) == 0
    && decide (e.sbaseAddr + (e.limitAddr - e.baseAddr) / k ≤ 68719476736)
    && (List.range 16).all (fun m => m == n || !(s.rangeEntry m).valid || !e.clashes (s.rangeEntry m))

def State.setRange (s : State) (n : Nat) (e : RangeEntry) : State := { s with range := tableSet {} s.range n e }

/-- A write to a word of a range-table entry (R58, R59): while VALID reads 1 only the write that clears VALID has an effect. -/
def State.writeRange (s : State) (n w : Nat) (x : Word) : State :=
  let e := s.rangeEntry n
  if e.valid then (if w = 0 ∧ !bitAt 0 x then s.setRange n { e with valid := false } else s)
  else match w with
  | 0 =>
    let f := { e with gran := fieldAt 2 4 x, base := fieldAt 16 26 x }
    if bitAt 0 x then
      (if s.rangeOk n f then s.setRange n { f with valid := true, err := false } else s.setRange n { f with valid := false, err := true })
    else s.setRange n f
  | 1 => s.setRange n { e with limit := fieldAt 16 26 x }
  | 2 => s.setRange n { e with stackSet := fieldAt 0 48 x }
  | 3 => s.setRange n { e with sbase := fieldAt 16 20 x }
  | _ => s

/-- RANGE_ENTRY_WRITE (R59): word 0 of the entry the input names in `line` is written with VALID = 1. -/
def execRangeEntryWrite (s : State) : Host.Outcome State Fault Refusal := .next (s.writeRange s.input.line 0 (s.input.value ||| 1#64))

/-- RANGE_ENTRY_INVALIDATE (R59, R62): word 0 is written with VALID = 0. -/
def execRangeEntryInvalidate (s : State) : Host.Outcome State Fault Refusal := .next (s.writeRange s.input.line 0 (s.input.value &&& ~~~1#64))

end Sys2Proof.Machine
end

