-- ==== Sys2Proof/Machine/Registers.lean ====
section
/-! DEFINITION. The registers of BAR0 (R32, R34, R58, R81, R82, R84, R130, R222, R250): the write of each block and what a read returns; the
scheduler parameters (R130) and the writing of fault records (R222). -/

namespace Sys2Proof.Machine

/-! ### Scheduler parameters (R130) -/

/-- A power of two from 2^16 to 2^28. -/
def turnLenOk (x : BitVec 32) : Bool := (List.range 13).any (fun i => x.toNat == 2 ^ (16 + i))

/-- Word 1 (R130): TURNLEN and ROTEN apply by themselves; THOT and TCOOL only where they leave TCOOL ≤ THOT − 8. -/
def SchedParams.setWord1 (p : SchedParams) (x : Word) : SchedParams :=
  let thot : BitVec 8 := if 60 ≤ natAt 32 8 x ∧ natAt 32 8 x ≤ 100 then fieldAt 32 8 x else p.thot
  let tcool : BitVec 8 := fieldAt 40 8 x
  let q := { p with turnlen := if turnLenOk (fieldAt 0 32 x) then fieldAt 0 32 x else p.turnlen, roten := bitAt 48 x }
  if tcool.toNat + 8 ≤ thot.toNat then { q with thot := thot, tcool := tcool } else q

/-- A write of a word of the scheduler parameters (R130); a field outside its range keeps its value. -/
def SchedParams.setWord (p : SchedParams) (live : Bool) (w : Nat) (x : Word) : SchedParams :=
  match w with
  | 0 => { p with idleswap := fieldAt 0 16 x, quantum := if natAt 16 8 x = 0 then p.quantum else fieldAt 16 8 x, minres := fieldAt 24 24 x }
  | 1 => p.setWord1 x
  | 2 => { p with pqsize := if natAt 0 16 x = 0 then p.pqsize else fieldAt 0 16 x, wdog := fieldAt 16 32 x }
  | 3 => if live then p else { p with schbase := fieldAt 16 26 x }
  | 4 => if live then p else { p with schlim := fieldAt 16 26 x }
  | _ => p

/-- Some job is live. -/
def State.anyLive (s : State) : Bool := s.jobs.any (fun p => p.2.phase == .live)

def State.writeSched (s : State) (w : Nat) (x : Word) : State :=
  { s with sched := { s.sched with written := s.sched.written.setWord s.anyLive w x } }

/-- SCHED_PARAM_WRITE (R130): the word the input names in `line`. -/
def execSchedParamWrite (s : State) : Host.Outcome State Fault Refusal := .next (s.writeSched s.input.line s.input.value)

/-- A word of the scheduler block as BAR0 reads it (R130). -/
def Sched.word (c : Sched) (w : Nat) : Word :=
  let p := c.written
  match w with
  | 0 => zext (p.minres ++ p.quantum ++ p.idleswap)
  | 1 => zext (BitVec.ofBool p.roten ++ p.tcool ++ p.thot ++ p.turnlen)
  | 2 => zext (p.wdog ++ p.pqsize)
  | 3 => zext (p.schbase ++ 0#16)
  | 4 => zext (p.schlim ++ 0#16)
  | 5 => c.swaps ++ c.moves
  | 6 => zext c.tfaults
  | _ => 0#64

/-! ### Fault rings (R222) -/

/-- A write of a word of a fault ring's block. -/
def FaultRing.setWord (f : FaultRing) (w : Nat) (x : Word) : FaultRing :=
  match w with
  | 0 => { f with en := bitAt 0 x, loc := bitAt 1 x, port := fieldAt 2 2 x, size := if 8 < natAt 4 4 x then 8#4 else fieldAt 4 4 x, vec := fieldAt 8 11 x }
  | 1 => { f with fbase := fieldAt 5 59 x }
  | 2 => { f with fhead := fieldAt 32 32 x }
  | _ => f

/-- A word of a fault ring's block. -/
def FaultRing.word (f : FaultRing) (w : Nat) : Word :=
  match w with
  | 0 => zext (f.vec ++ f.size ++ f.port ++ BitVec.ofBool f.loc ++ BitVec.ofBool f.en)
  | 1 => f.fbase ++ 0#5
  | 2 => f.fhead ++ f.ftail
  | _ => 0#64

/-- The 32 bytes of a fault record, as a number (R222). -/
def FaultRecord.num (r : FaultRecord) : Nat :=
  r.cause.toNat + 256 * r.kind.toNat + 65536 * r.strand.toNat + 2 ^ 32 * r.vtid.toNat + 2 ^ 64 * r.handle.toNat + 2 ^ 128 * r.tval.toNat
    + 2 ^ 192 * r.pc.toNat

/-- Records a ring holds. -/
def FaultRing.entries (f : FaultRing) : Nat := 2 ^ (4 + Nat.min 8 f.size.toNat)

/-- The ring has room (R222). -/
def FaultRing.room (f : FaultRing) : Bool := decide ((f.ftail - f.fhead).toNat < f.entries)

/-- FAULT_RECORD_WRITE (R222): the oldest waiting record is written, then FTAIL rises, then VEC is raised; a full ring waits. -/
def execFaultRecordWrite (s : State) : Host.Outcome State Fault Refusal :=
  let n := s.input.tenant
  let f := s.ring n
  match f.waiting with
  | [] => .next s
  | r :: t =>
    if !f.en || !f.room then .next s
    else
      let addr := f.fbase.toNat * 32 + f.ftail.toNat % f.entries * 32
      let s1 := s.putRing f.loc f.port.toNat addr 32 r.num
      let s2 := s1.modRing n (fun x => { x with ftail := x.ftail + 1, waiting := t })
      .next { s2 with msix := s2.msix ++ [(f.port.toNat, some n, f.vec.toNat)] }

/-! ### Blocks of BAR0 -/

/-- The control function: the physical function of port 0 (R32). -/
def HostFn.control (f : HostFn) : Bool := f.port == 0#2 && f.vf.isNone

/-- Words of a queue block (R84). -/
def HostQueue.word (b : HostQueue) (w : Nat) : Word :=
  match w with
  | 0 => zext (b.vec ++ 0#1 ++ BitVec.ofBool b.pfq ++ b.ten ++ b.port ++ BitVec.ofBool b.stop ++ BitVec.ofBool b.err ++ b.size
      ++ BitVec.ofBool b.loc ++ BitVec.ofBool b.en)
  | 1 => b.rbase ++ 0#6
  | 2 => b.cbase ++ 0#5
  | 3 => zext b.notify
  | 4 => b.ctail ++ b.head
  | _ => 0#64

/-- Words of a range-table entry (R58). -/
def RangeEntry.word (e : RangeEntry) (w : Nat) : Word :=
  match w with
  | 0 => zext (e.base ++ 0#10 ++ e.gran ++ BitVec.ofBool e.err ++ BitVec.ofBool e.valid)
  | 1 => zext (e.limit ++ 0#16)
  | 2 => zext e.stackSet
  | 3 => zext (e.sbase ++ 0#16)
  | _ => 0#64

/-- RASSTK of a stack (R81). -/
def Stack.word (k : Stack) : Word :=
  zext (BitVec.ofBool k.hotovf ++ BitVec.ofBool k.spareout ++ BitVec.ofNat 13 k.hot.length ++ k.retired ++ k.ue ++ k.ce)

/-- The counters of a tile (R82). -/
def Tile.word (t : Tile) : Word := zext (t.code ++ t.therm ++ 0#4 ++ t.lastUnit ++ t.ce)

/-- The queue block and word of an offset. -/
def queueWord (off : Nat) : Option (Nat × Nat) :=
  if 0x10000 ≤ off ∧ off < 0x11000 then some ((off - 0x10000) / 64, off % 64 / 8) else none

/-- What a read of BAR0 returns (R32, R44); none inside the mailbox, whose layout is not given. -/
def State.barRead (s : State) (f : HostFn) (off : Nat) : Option Word :=
  if off % 8 ≠ 0 then some 0#64
  else if off = 0 then some s.statusWord
  else if s.boot = 0 then some 0#64
  else if f.control then
    if 0x1000 ≤ off ∧ off < 0x2000 then none
    else if 0x2000 ≤ off ∧ off < 0x2200 then some ((s.rangeEntry ((off - 0x2000) / 32)).word (off % 32 / 8))
    else if 0x4000 ≤ off ∧ off < 0x4180 then some (s.stack ((off - 0x4000) / 8)).word
    else if 0x8000 ≤ off ∧ off < 0xA000 then some (s.tile ((off - 0x8000) / 8)).word
    else if 0xA000 ≤ off ∧ off < 0xA040 then some (s.sched.word ((off - 0xA000) / 8))
    else if 0xB000 ≤ off ∧ off < 0xB200 then some ((s.ring ((off - 0xB000) / 32)).word (off % 32 / 8))
    else if off = 0xC000 then some (BitVec.ofNat 64 s.overhead)
    else match queueWord off with
      | some (q, w) => some ((s.queue q).word w)
      | none => some 0#64
  else match f.vf, queueWord off with
    | _, some (q, w) => some (if (s.queue q).fn = f ∧ (w = 3 ∨ w = 4) then (s.queue q).word w else 0#64)
    | some n, none => some (if 0xB000 ≤ off ∧ off < 0xB020 then (s.ring n.toNat).word (off % 32 / 8) else 0#64)
    | none, none => some 0#64

/-- A write of a word of a queue block (R84, R85). -/
def State.writeQueueWord (s : State) (q w : Nat) (x : Word) : State :=
  let b := s.queue q
  match w with
  | 0 => s.writeQueue0 q x
  | 1 => if b.en then s else s.modQueue q (fun b => { b with rbase := fieldAt 6 58 x })
  | 2 => if b.en then s else s.modQueue q (fun b => { b with cbase := fieldAt 5 59 x })
  | 3 => s.writeNotify q x
  | _ => s

/-- A write of the control function (R32, R34, R58, R81, R130, R222): read-only words and offsets that hold nothing ignore it. -/
def State.writeControl (s : State) (off : Nat) (x : Word) : State :=
  if off = 0 then (if bitAt 4 x then { s with status := { s.status with pwrfail := false } } else s)
  else if s.boot = 0 then s
  else if 0x2000 ≤ off ∧ off < 0x2200 then s.writeRange ((off - 0x2000) / 32) (off % 32 / 8) x
  else if 0x4000 ≤ off ∧ off < 0x4180 then
    (if bitAt 62 x then s.modStack ((off - 0x4000) / 8) (fun k => { k with hotovf := false }) else s)
  else if 0xA000 ≤ off ∧ off < 0xA040 then s.writeSched ((off - 0xA000) / 8) x
  else if 0xB000 ≤ off ∧ off < 0xB200 then s.modRing ((off - 0xB000) / 32) (fun r => r.setWord (off % 32 / 8) x)
  else match queueWord off with
    | some (q, w) => s.writeQueueWord q w x
    | none => s

/-- A 64-bit write of a function's BAR0 (R32). -/
def State.barWrite (s : State) (f : HostFn) (off : Nat) (x : Word) : State :=
  if off % 8 ≠ 0 then s
  else if f.control then s.writeControl off x
  else if s.boot = 0 then s
  else match f.vf, queueWord off with
    | _, some (q, w) => if (s.queue q).fn = f ∧ w = 3 then s.writeNotify q x else s
    | some n, none => if 0xB000 ≤ off ∧ off < 0xB020 then s.modRing n.toNat (fun r => r.setWord (off % 32 / 8) x) else s
    | none, none => s

/-- REGISTER_WRITE (R32): the function, offset and value are the input's. -/
def execRegisterWrite (s : State) : Host.Outcome State Fault Refusal := .next (s.barWrite s.input.fn s.input.off.toNat s.input.value)

end Sys2Proof.Machine
end

