-- ==== Sys2Proof/Machine/Debug.lean ====
section
/-! DEFINITION. DBG records (R96, R223, R239–R244): a record that must wait stays in its queue as started and is looked at again at its next
event. -/

namespace Sys2Proof.Machine

/-! ### The record (R92, R239) -/

def HostRecord.dbgOp (r : HostRecord) : Nat := r.num 8 1
def HostRecord.dbgVtid (r : HostRecord) : Nat := r.num 10 2
def HostRecord.dbgStrand (r : HostRecord) : Nat := r.num 12 1
def HostRecord.dbgN (r : HostRecord) : Nat := r.num 13 1
def HostRecord.dbgSel (r : HostRecord) : Nat := r.num 14 2
def HostRecord.dbgAddr (r : HostRecord) : Word := r.word 16
def HostRecord.dbgHandle (r : HostRecord) : Nat := r.num 24 8
def HostRecord.dbgData (r : HostRecord) : Word := r.word 32

/-- The context and the strand a record names. -/
def HostRecord.dbgCtx (r : HostRecord) : Nat := ctxKey r.dbgHandle r.dbgVtid
def HostRecord.dbgKey (r : HostRecord) : Nat := strandKey r.dbgCtx r.dbgStrand

/-- NOVAL (R239). -/
def noVal : Nat := 18446744073709551615

/-- A live job of this module that a DBG record of a queue may name (R239, R244): only the coordinator knows the handle, and it forwards records
to the other modules, whose queues from 64 on hold them. -/
def State.debuggable (s : State) (q h : Nat) : Bool :=
  (s.job h).phase == .live && (decide (64 ≤ q) || (match (s.job h).origin with | .remote _ => false | _ => true))

/-- Operations that go to every module: those whose VALUEs are added up, HALTALL and RESUMEALL (R244), PROFOFF and PROFFLUSH, and what
concerns every context or a slot of the whole job: PROFON, SETBP and CLRBP (log 44). -/
def HostRecord.dbgSums (r : HostRecord) : Bool := r.dbgOp == 4 || r.dbgOp == 5 || r.dbgOp == 0x21 || r.dbgOp == 0x22
def HostRecord.dbgAll (r : HostRecord) : Bool := r.dbgSums || r.dbgOp == 0x0A || r.dbgOp == 0x0B || r.dbgOp == 0x20

/-- An earlier DBG record of the queue has not completed. -/
def State.dbgBefore (s : State) (q : Nat) (r : HostRecord) : Bool :=
  ((s.queue q).records.takeWhile (fun x => x != r)).any (fun x => x.type == 9)

/-- What a DBG operation comes to: it goes on waiting, with what it has begun, or it completes with a status and a VALUE. -/
inductive Dbg where
  | waits (s : State)
  | done (s : State) (status value : Nat)

/-- The modules a record must be forwarded to (R244), besides what it does here. -/
def State.dbgOthers (s : State) (q : Nat) (r : HostRecord) : List Nat :=
  if decide (q < 64) && r.dbgAll && !r.asked then (peerList (s.othersOf r.dbgHandle)).filter (fun p => !(s.peer p).lost) else []

/-- A record is forwarded to some modules (R37, R244). -/
def State.askModules (s : State) (q : Nat) (r r' : HostRecord) (ps : List Nat) : State :=
  (s.modRecord q r (fun _ => r')).sendCtl ps (.debug (s.jobName r.dbgHandle) q r.seq.toNat r.bytes)

/-- VALUE of a record, from what its part here and the other modules have come to (R244). -/
def HostRecord.total (r : HostRecord) (value : Nat) : Nat :=
  if r.sum = 0 then value else if r.dbgSums then Nat.min noVal (value + r.sum) else if r.sum = noVal then noVal else value

/-- What a record's part here has come to: it completes, or goes on waiting for the other modules. -/
def State.dbgDone (s : State) (q : Nat) (r : HostRecord) (status value : Nat) : State :=
  if r.owed = 0#64 then s.finishRecord q r status (r.total value)
  else s.modRecord q r (fun y => { y with answered := true, sum := status * 2 ^ 64 + Nat.min noVal (r.sum + value) })

/-- The part of a DBG record that this module does, beside what it asks of others. -/
def State.debugHere (s : State) (q : Nat) (r : HostRecord) (f : State → HostRecord → Dbg) : State :=
  let ps := s.dbgOthers q r
  let r' : HostRecord := if ps = [] then r else { r with asked := true, owed := ps.foldl (fun m p => m ||| (1#64 <<< p)) 0#64 }
  match f (if ps = [] then s else s.askModules q r r' ps) r' with
  | .waits y => y
  | .done y status value => y.dbgDone q r' status value

/-- A DBG record (R96, R239, R244): it acts once every earlier DBG record of its queue has completed, on the module that holds its VTID. -/
def State.debug (s : State) (usesVtid : Bool) (f : State → HostRecord → Dbg) : State :=
  s.withRecord (fun x q r =>
    let j := x.job r.dbgHandle
    if x.dbgBefore q r then x
    else if r.answered then (if r.owed = 0#64 then x.finishRecord q r (r.sum / 2 ^ 64) (r.sum % 2 ^ 64) else x)
    else if !x.debuggable q r.dbgHandle then x.finishRecord q r 0 noVal
    else if !(x.queue q).pfq && (x.queue q).ten.toNat != j.tenant then x.finishRecord q r 0x05 0
    else if usesVtid && decide (recTiles j.record ≤ r.dbgVtid) then x.finishRecord q r 0 noVal
    else match (if usesVtid && decide (q < 64) then x.awayAt r.dbgCtx else none) with
      | some p => x.askModules q r { r with asked := true, answered := true, owed := 1#64 <<< p } [p]
      | none => x.debugHere q r f)

/-- A change made for a swapped gang may make it eligible (R122). -/
def State.maybeEligible (s : State) (ctx : Nat) : State :=
  let id := (jobOf ctx, s.gangNo ctx)
  if s.inGang ctx .swapped && s.eligible id then s.modGang id.1 id.2 (fun g => g.nowEligible s.ticks) else s

/-! ### RETRY and END (R223) -/

/-- DBG_RETRY (R223, R227): the held instruction re-executes; nothing is done on a stopped gang. -/
def execDbgRetry (s : State) : Host.Outcome State Fault Refusal :=
  .next (s.debug true (fun x r =>
    if (x.strand r.dbgKey).held.isNone || (x.gangOf r.dbgCtx).frozen then .done x 0 0
    else
      let y := x.modStrand r.dbgKey (fun st =>
        { st with held := none, state := if st.state = .halted then .halted else .ready, wait := .none, cut := .none,
                  readyAt := Nat.max st.readyAt (x.cycle + 1) })
      .done (y.maybeEligible r.dbgCtx) 0 1))

/-- DBG_END (R223): the other modules of the job learn of its end (`State.tellEnd`). -/
def execDbgEnd (s : State) : Host.Outcome State Fault Refusal :=
  .next (s.debug true (fun x r =>
    let cause := match (x.strand r.dbgKey).held with | some (c, _) => c.toNat | none => 0x57
    .done (x.endJob r.dbgHandle 8 cause) 0 0))

/-! ### HALT, RESUME, STEPI (R240, R242, R243) -/

/-- A halt is asked of a live strand; the image of a swapped gang takes it at once (R242). -/
def State.askHalt (s : State) (key : Nat) : State :=
  let st := s.strand key
  if !st.live || st.state == .halted then s
  else if s.inGang (ctxOf key) .swapped then s.modStrand key (fun st => { st with state := .halted, haltReq := false, stepi := none })
  else s.modStrand key (fun st => { st with haltReq := true })

/-- DBG_HALT (R240, R242): completes when the strand has halted. -/
def execDbgHalt (s : State) : Host.Outcome State Fault Refusal :=
  .next (s.debug true (fun x r =>
    let st := x.strand r.dbgKey
    if !st.live then .done x 0 noVal
    else
      let y := x.askHalt r.dbgKey
      if (y.strand r.dbgKey).state = .halted then .done y 0 st.pc.toNat else .waits y))

/-- A HALTED strand goes on: one with a fault held is held again, and the first instruction passes its own breakpoint (R242, R243). -/
def Strand.go (st : Strand) (cycle : Nat) (resident : Bool) : Strand :=
  { st with state := if st.held.isSome then .memwait else .ready, wait := .none, cut := if resident then .none else st.cut,
            skipBp := true, readyAt := Nat.max st.readyAt (cycle + 1) }

/-- RESUME of a strand. -/
def State.resumeHalted (s : State) (key : Nat) : State :=
  if (s.strand key).state = .halted then
    (s.modStrand key (fun st => { (st.go s.cycle (s.inGang (ctxOf key) .resident)) with stepi := none })).maybeEligible (ctxOf key)
  else s

/-- DBG_RESUME (R240). -/
def execDbgResume (s : State) : Host.Outcome State Fault Refusal :=
  .next (s.debug true (fun x r => .done (x.resumeHalted r.dbgKey) 0 (if (x.strand r.dbgKey).state = .halted then 1 else 0)))

/-- The STEPI of a strand goes on: while the gang is not resident it makes the gang eligible, then the strand issues (R243). -/
def State.stepOn (s : State) (key : Nat) : State :=
  if s.inGang (ctxOf key) .resident then s.modStrand key (fun st => st.go s.cycle true) else s.maybeEligible (ctxOf key)

/-- DBG_STEPI (R240, R243): `moved` of the record tells that the step has begun. -/
def execDbgStepi (s : State) : Host.Outcome State Fault Refusal :=
  .next (s.debug true (fun x r =>
    let st := x.strand r.dbgKey
    if r.moved = 0 then
      if st.state ≠ .halted then .done x 0 noVal
      else
        let y := x.modStrand r.dbgKey (fun st => { st with stepi := some (BitVec.ofNat 6 s.input.queue, r.seq) })
        .waits ((y.stepOn r.dbgKey).modRecord s.input.queue r (fun z => { z with moved := 1 }))
    else if !st.live then .done x 0 noVal
    else match st.stepi with
      | none => if st.state = .halted then .done x 0 st.pc.toNat else .waits x
      | some _ => .waits (if st.state = .halted then x.stepOn r.dbgKey else x)))

/-- The strands of a job. -/
def State.jobStrands (s : State) (h : Nat) : List Nat := (tableKeys s.strands).filter (fun k => jobOf (ctxOf k) == h)

/-- DBG_HALTALL (R240, R242, R244): completes when every live strand of the job is HALTED, on every module. -/
def execDbgHaltall (s : State) : Host.Outcome State Fault Refusal :=
  .next (s.debug false (fun x r =>
    let ks := (x.jobStrands r.dbgHandle).filter (fun k => (x.strand k).live)
    let y := ks.foldl State.askHalt x
    let halted := (ks.filter (fun k => (y.strand k).state == .halted)).length
    if halted = ks.length then .done y 0 halted else .waits y))

/-- DBG_RESUMEALL (R240, R244). -/
def execDbgResumeall (s : State) : Host.Outcome State Fault Refusal :=
  .next (s.debug false (fun x r =>
    let ks := (x.jobStrands r.dbgHandle).filter (fun k => (x.strand k).state == .halted)
    .done (ks.foldl State.resumeHalted x) 0 ks.length))

/-! ### Registers (R241) -/

/-- A register SEL names (R241). -/
inductive DbgReg where
  | g (r : BitVec 5)
  | csr (num : Nat)
  | v (r : BitVec 4) (word : Nat)
  | k (r : BitVec 3) (word : Nat)
  | pc
deriving DecidableEq, Repr

/-- The register of a SEL; bits its kind does not name must be zero (R241). -/
def dbgReg (sel : Nat) : Option DbgReg :=
  let x := sel % 4096
  match sel / 4096 with
  | 0 => if x < 32 then some (.g (BitVec.ofNat 5 x)) else none
  | 1 => some (.csr x)
  | 2 => if x / 32 % 8 = 0 then some (.v (BitVec.ofNat 4 (x / 256)) (x % 32)) else none
  | 3 => if x / 4 % 64 = 0 ∧ x < 2048 then some (.k (BitVec.ofNat 3 (x / 256)) (x % 4)) else none
  | 4 => if x = 0 then some .pc else none
  | _ => none

/-- The value of a register; none for a number R180 does not list. -/
def State.readReg (s : State) (key : Nat) (d : DbgReg) : Option Word :=
  let st := s.strand key
  match d with
  | .g r => some (st.rg r)
  | .csr n => s.readCsr key n
  | .v r w => some (fieldAt (64 * w) 64 (st.rv r))
  | .k r w => some (fieldAt (64 * w) 64 (st.rk r))
  | .pc => some st.pc

/-- An outstanding operation writes the register. -/
def OutOp.writesReg (o : OutOp) (d : DbgReg) : Bool :=
  match d with
  | .g r => o.gw.any (fun p => p.1 == r) || (match o.access with | some a => a.dest == r | none => false)
  | .csr n => n == 0x008 && o.flags != 0#6
  | .v r _ => o.vw.any (fun p => p.1 == r) ||
      (match o.access with | some a => (match a.op with | .vload vd _ => vd == r | _ => false) | none => false)
  | .k r _ => o.kw.any (fun p => p.1 == r)
  | .pc => false

/-- DBG_RDREG (R240, R241): between two slots, once every outstanding operation that writes the register has completed. -/
def execDbgRdreg (s : State) : Host.Outcome State Fault Refusal :=
  .next (s.debug true (fun x r =>
    match dbgReg r.dbgSel with
    | none => .done x 0 noVal
    | some d =>
      if (x.strand r.dbgKey).out.any (fun o => o.writesReg d) then .waits x
      else .done x 0 (match x.readReg r.dbgKey d with | some v => v.toNat | none => noVal)))

/-- A 64-bit word of a wider value takes new bits. -/
def setWordOf (w : Nat) (x : Word) (v : BitVec n) : BitVec n :=
  (v &&& ~~~(((BitVec.allOnes 64).setWidth n) <<< (64 * w))) ||| ((x.setWidth n) <<< (64 * w))

/-- Write a register of a HALTED or held strand (R241): none where nothing is written. ASHAPE is written as a strand that holds the lease
would write it (R164). -/
def State.writeReg (s : State) (key : Nat) (d : DbgReg) (x : Word) : Option State :=
  let st := s.strand key
  let c := s.ctx (ctxOf key)
  match d with
  | .g r => if r = 0#5 then none else some (s.setStrand key (st.setG r x))
  | .csr n =>
    if !csrWritable n then none
    else if n = 0x040 then
      (if c.lease.holder = some (stridOf key) ∧ c.matrixIdle then some (s.modCtx (ctxOf key) (fun c => c.setAshape (fieldAt 0 4 x))) else none)
    else some (s.writeCsr key n x)
  | .v r w => some (s.setStrand key (st.setV r (setWordOf w x (st.rv r))))
  | .k r w => if r = 0#3 then none else some (s.setStrand key (st.setK r (setWordOf w x (st.rk r))))
  | .pc => if natAt 0 2 x ≠ 0 then none else some (s.setStrand key { st with pc := x })

/-- DBG_WRREG (R240, R241). -/
def execDbgWrreg (s : State) : Host.Outcome State Fault Refusal :=
  .next (s.debug true (fun x r =>
    let st := x.strand r.dbgKey
    if st.state ≠ .halted ∧ st.held.isNone then .done x 0 0
    else match dbgReg r.dbgSel with
      | none => .done x 0 0
      | some d => match x.writeReg r.dbgKey d r.dbgData with
        | some y => .done y 0 1
        | none => .done x 0 0))

/-! ### Memory (R240) -/

/-- A place of a debugger access: there, of a retired context, behind a lock or on a host port that does not answer, or nowhere. -/
inductive DbgPlace where
  | at (l : Loc)
  | gone
  | waits (silent : Bool)
  | fails

/-- A word of another context that has retired. -/
def State.goneFor (s : State) (ctx : Nat) (l : Loc) : Bool :=
  match l with
  | .spm c _ => c != ctx && s.path c == .gone
  | _ => false

/-- The place of an access of the named strand; the scratchpad of a context that is not resident is that of its image (R240). It waits for a
locked word (R210), and for the host as `State.hostPlace` does (log 57). -/
def State.dbgPlace (s : State) (r : HostRecord) (n : Need) : DbgPlace :=
  match s.resolve r.dbgCtx none n r.dbgAddr with
  | .fails _ _ => .fails
  | .at l _ =>
    if s.goneFor r.dbgCtx l then .gone
    else if s.lockedFor 0 l n.size then .waits false
    else match s.hostAnswer l with
      | .completes => .at l
      | .refuses => .fails
      | .silent => if r.hostSince.any (fun t => decide (t + hostPatience ≤ s.cycle)) then .fails else .waits true

/-- The errors that stand at the address of a record are found (R75). -/
def State.dbgMeet (s : State) (r : HostRecord) : State :=
  s.meetRun (s.tile (s.ptid r.dbgCtx)).tlb (s.job r.dbgHandle).tenant [(r.dbgAddr, r.dbgN)]

/-- A DBG record goes on waiting for a place. -/
def State.dbgWaits (s : State) (r : HostRecord) (silent : Bool) : Dbg := .waits (s.recordWaits s.input.queue r silent)

/-- DBG_RDMEM (R240): N bytes as the named strand, zero-extended. -/
def execDbgRdmem (s : State) : Host.Outcome State Fault Refusal :=
  .next (s.debug true (fun x r =>
    match x.dbgPlace r { rd := true, size := r.dbgN, align := r.dbgN } with
    | .at l => .done (x.dbgMeet r) 0 ((x.dbgMeet r).loadNat l r.dbgN r.dbgKey)
    | .gone => .done (x.modJob r.dbgHandle (fun j => { j with discards := j.discards + 1 })) 0 0
    | .waits b => x.dbgWaits r b
    | .fails => .done (x.dbgMeet r) 0x06 0))

/-- DBG_WRMEM (R240). -/
def execDbgWrmem (s : State) : Host.Outcome State Fault Refusal :=
  .next (s.debug true (fun x r =>
    match x.dbgPlace r { wr := true, size := r.dbgN, align := r.dbgN } with
    | .at l => .done (((x.dbgMeet r).writeNat l r.dbgN (r.dbgData.toNat % 256 ^ r.dbgN) r.dbgKey).serve l r.dbgN) 0 r.dbgN
    | .gone => .done (x.modJob r.dbgHandle (fun j => { j with discards := j.discards + 1 })) 0 r.dbgN
    | .waits b => x.dbgWaits r b
    | .fails => .done (x.dbgMeet r) 0x06 0))

/-! ### Breakpoints (R240, R243) -/

/-- DBG_SETBP (R240, R243): the slot is one of the job, so every module takes it; it stops the named VTID only, with SEL[0] = 0. -/
def execDbgSetbp (s : State) : Host.Outcome State Fault Refusal :=
  .next (s.debug false (fun x r =>
    if r.dbgSel % 2 = 0 ∧ recTiles (x.job r.dbgHandle).record ≤ r.dbgVtid then .done x 0 noVal
    else if 3 < r.dbgN then .done x 0 0
    else
      let b : Breakpoint := { slot := r.dbgN, addr := r.dbgAddr, vtid := if r.dbgSel % 2 = 1 then none else some r.dbgVtid }
      .done (x.modJob r.dbgHandle (fun j => { j with bps := j.bps.filter (fun y => y.slot ≠ r.dbgN) ++ [b] })) 0 1))

/-- DBG_CLRBP (R240). -/
def execDbgClrbp (s : State) : Host.Outcome State Fault Refusal :=
  .next (s.debug false (fun x r =>
    if 3 < r.dbgN then .done x 0 0
    else .done (x.modJob r.dbgHandle (fun j => { j with bps := j.bps.filter (fun y => y.slot ≠ r.dbgN) })) 0 1))

/-! ### Profiling and energy (R236, R237, R250) -/

/-- Every hosted context of a job is flushed (R236). -/
def State.flushJob (s : State) (h : Nat) : State := (s.slotContexts.filter (fun c => jobOf c == h)).foldl State.flushProfile s

/-- Records written since PROFON. -/
def State.profCount (s : State) (h : Nat) : Nat := match (s.job h).prof with | some (_, _, n) => n | none => 0

/-- DBG_PROFON (R237, R240). -/
def execDbgProfon (s : State) : Host.Outcome State Fault Refusal :=
  .next (s.debug false (fun x r =>
    let n := r.dbgData.toNat
    let h := r.dbgHandle
    if r.dbgAddr.toNat % 64 ≠ 0 ∨ n % 64 ≠ 0 ∨ n < 128 then .done x 0x06 0
    else match x.hostPlaces r.hostSince (x.job h).tenant { wr := true } (pieces (n / 256 + 2) r.dbgAddr n) with
      | .fails => .done x 0x06 0
      | .waits b => x.dbgWaits r b
      | .ok _ =>
        let y := (x.flushJob h).modJob h (fun j => { j with prof := some (r.dbgAddr, n, 0) })
        .done (y.profPut h r.dbgAddr 64 (64 + n * 256 ^ 16)) 0 1))

/-- DBG_PROFOFF (R236, R240). -/
def execDbgProfoff (s : State) : Host.Outcome State Fault Refusal :=
  .next (s.debug false (fun x r =>
    let y := x.flushJob r.dbgHandle
    .done (y.modJob r.dbgHandle (fun j => { j with prof := none })) 0 (y.profCount r.dbgHandle)))

/-- DBG_PROFFLUSH (R236, R240). -/
def execDbgProfflush (s : State) : Host.Outcome State Fault Refusal :=
  .next (s.debug false (fun x r =>
    let y := x.flushJob r.dbgHandle
    .done y 0 (y.profCount r.dbgHandle)))

/-- DBG_RDENGY (R240, R250): the counter with every charge. -/
def execDbgRdengy (s : State) : Host.Outcome State Fault Refusal :=
  .next (s.debug true (fun x r =>
    let g := x.gangOf r.dbgCtx
    .done x 0 (g.energy + (if g.sat then 2 ^ 48 else 0))))

end Sys2Proof.Machine
end

