-- ==== Sys2Proof/Machine/Float.lean ====
section
/-! DEFINITION. Scalar floating point (R309, R310): fp64 (type 0) or fp32 (type 1) under FRM; absent passes through with no flag; an
operand of type .s is the low half of its register, a result of type .s is zero-extended. -/

namespace Sys2Proof.Machine

/-- The format of a type field (R309). -/
def fpOf (t : BitVec 1) : Fmt := if t = 1#1 then fp32 else fp64

/-- Format code of a type field (R371). -/
def fcOf (t : BitVec 1) : Nat := t.toNat

/-- An operand of a type (R309). -/
def fpArg (t : BitVec 1) (x : Word) : Nat := if t = 1#1 then natAt 0 32 x else x.toNat

/-- An operation on register operands, rounded once under FRM (R309). -/
def State.fp (s : State) (lam : Nat) (t : BitVec 1) (l : BitVec 4) (d : BitVec 5) (reads : List (BitVec 5))
    (op : Fmt → Nat → List Num → Nat × Flags) : State :=
  let r := (fpOf t).apply (reads.map (fun x => fpArg t (s.me.rg x))) (op (fpOf t) s.me.frm.toNat)
  s.longG lam l d (BitVec.ofNat 64 r.1) r.2 reads

/-- A conversion between formats (R310, R271). -/
def State.fpConvert (s : State) (src dst : Nat) (l : BitVec 4) (d a : BitVec 5) : State :=
  let r := convert src dst s.me.frm.toNat 0#128 (natAt 0 (fcBits src) (s.me.rg a))
  s.longG 24 l d (BitVec.ofNat 64 r.1) r.2 [a]

/-- FADD (R310). -/
def execFadd (d a b : BitVec 5) (t : BitVec 1) (l : BitVec 4) (s : State) : Host.Outcome State Fault Refusal :=
  .next (s.fp 24 t l d [a, b] opAdd)

/-- FSUB (R310). -/
def execFsub (d a b : BitVec 5) (t : BitVec 1) (l : BitVec 4) (s : State) : Host.Outcome State Fault Refusal :=
  .next (s.fp 24 t l d [a, b] opSub)

/-- FMUL (R310). -/
def execFmul (d a b : BitVec 5) (t : BitVec 1) (l : BitVec 4) (s : State) : Host.Outcome State Fault Refusal :=
  .next (s.fp 24 t l d [a, b] opMul)

/-- FDIV (R310). -/
def execFdiv (d a b : BitVec 5) (t : BitVec 1) (l : BitVec 4) (s : State) : Host.Outcome State Fault Refusal :=
  .next (s.fp 96 t l d [a, b] opDiv)

/-- FSQRT (R310). -/
def execFsqrt (d a : BitVec 5) (t : BitVec 1) (l : BitVec 4) (s : State) : Host.Outcome State Fault Refusal :=
  .next (s.fp 96 t l d [a] opSqrt)

/-- FMA (R310): x × y + the old g(d), rounded once. -/
def execFma (d a b : BitVec 5) (t : BitVec 1) (l : BitVec 4) (s : State) : Host.Outcome State Fault Refusal :=
  .next (s.fp 24 t l d [a, b, d] opFma)

/-- FMIN (R310). -/
def execFmin (d a b : BitVec 5) (t : BitVec 1) (l : BitVec 4) (s : State) : Host.Outcome State Fault Refusal :=
  .next (s.fp 24 t l d [a, b] (fun f _ xs => opExtreme f false xs))

/-- FMAX (R310). -/
def execFmax (d a b : BitVec 5) (t : BitVec 1) (l : BitVec 4) (s : State) : Host.Outcome State Fault Refusal :=
  .next (s.fp 24 t l d [a, b] (fun f _ xs => opExtreme f true xs))

/-- FCVT (R310): .d reads fp32, .s reads fp64. -/
def execFcvt (d a : BitVec 5) (t : BitVec 1) (l : BitVec 4) (s : State) : Host.Outcome State Fault Refusal :=
  .next (s.fpConvert (1 - fcOf t) (fcOf t) l d a)

/-- FCVTI (R310): to i64. -/
def execFcvti (d a : BitVec 5) (t : BitVec 1) (l : BitVec 4) (s : State) : Host.Outcome State Fault Refusal :=
  .next (s.fpConvert (fcOf t) 11 l d a)

/-- FCVTF (R310): from i64. -/
def execFcvtf (d a : BitVec 5) (t : BitVec 1) (l : BitVec 4) (s : State) : Host.Outcome State Fault Refusal :=
  .next (s.fpConvert 11 (fcOf t) l d a)

/-- FCMP.cc (R261, R310): 0 or 1 in all 64 bits. -/
def execFcmp (d a b : BitVec 5) (t : BitVec 1) (c : BitVec 3) (l : BitVec 4) (s : State) : Host.Outcome State Fault Refusal :=
  let r := compareNums c.toNat ((fpOf t).read (fpArg t (s.me.rg a))) ((fpOf t).read (fpArg t (s.me.rg b)))
  .next (s.longG 24 l d (boolWord r.1) r.2 [a, b])

end Sys2Proof.Machine
end

