-- ==== Sys2Proof/Machine/Links.lean ====
section
/-! DEFINITION. What arrives over Eoven links (R36–R38, R49): flits, their order, and the messages they carry. -/

namespace Sys2Proof.Machine

/-! ### Flits (R36, R37) -/

/-- The fields of a flit's header, from its low bits up in the order of R36: destination peer id, source peer id, virtual channel (log 12). -/
def flitDest (f : BitVec 2048) : Nat := natAt 0 6 f
def flitSource (f : BitVec 2048) : Nat := natAt 6 6 f
def flitChannel (f : BitVec 2048) : Nat := natAt 12 2 f

/-! ### DBG records of another module (R244) -/

/-- A record that the coordinator has forwarded, under the handle of this module's part. -/
def withHandle (record : BitVec 512) (l : Nat) : BitVec 512 :=
  (record &&& ~~~((BitVec.allOnes 64).setWidth 512 <<< 192)) ||| (BitVec.ofNat 512 (l % 2 ^ 64) <<< 192)

/-- A forwarded record waits in the queue of its module; one for a job that is not here is answered at once. -/
def State.takeDebug (s : State) (p h queue seq : Nat) (record : BitVec 512) : State :=
  match s.jobNamed p h with
  | none => s.sendCtl [p] (.debugReply queue seq 0 noVal)
  | some l => s.modQueue (64 + p) (fun b => { b with
      pfq := true
      head := b.head + 1
      records := b.records ++ [{ index := b.head.toNat, bytes := withHandle record l, reply := (queue, seq) }] })

/-- A module answers a forwarded record. -/
def State.debugReply (s : State) (p queue seq status value : Nat) : State :=
  s.modQueue queue (fun b => { b with records := b.records.map (fun r =>
    if r.seq.toNat = seq ∧ bitAt p r.owed then
      { r with
        owed := r.owed &&& ~~~(1#64 <<< p)
        sum := if r.dbgSums then Nat.min noVal (r.sum + value) else if r.dbgAll then r.sum else status * 2 ^ 64 + value }
    else r) })

/-! ### Messages (R37, R102, R139–R145) -/

/-- A message of a peer arrives. -/
def State.receive (s : State) (p : Nat) (m : CtlMsg) : State :=
  match m with
  | .arm h r => s.armNew p h r
  | .armSaved h => s.armSaved p h
  | .armAck h => s.armAck p h
  | .armNak h _ => s.armNak h
  | .go h => s.go p h
  | .cancel h => s.cancel p h
  | .stop h => s.remoteStop p h
  | .confirm h => s.stopConfirm p h
  | .debug h q n r => s.takeDebug p h q n r
  | .debugReply q n st v => s.debugReply p q n st v
  | .rollback h k => s.rolled p h k
  | .marked h n k => s.peerGang p h n (fun g => { g with mark := k })
  | .image h n k i => s.keepImage p h n k i
  | .retired h n => s.peerRetired p h n
  | .ended h st c => s.peerEnded p h st c
  | .packet h k => s.peerPacket p h k
  | .store a bs => s.peerStore a bs
  | .fetch a n t => s.peerFetch p a n t
  | .data _ _ => s

/-- FLIT_RECEIVE (R36–R38, R49): a flit that arrives on a port tells that a peer is there. One that fails its CRC after correction is asked for
again; one that is not the next of its virtual channel from its peer waits to be sent again with those before it, so that the order of a channel
between two modules is kept. Any other is taken, and what it carries arrives, where it is for this module. -/
def execFlitReceive (s : State) : Host.Outcome State Fault Refusal :=
  let f := s.input.flit
  let port := s.input.port
  let s1 := s.wake
  let l := s1.link port
  if !l.up then .next s1
  else if !(Config.crcGood f || Config.fecGood f) then
    .next ((s1.modLink port (fun l => { l with replays := l.replays + 1 })).heard s.input.peer port)
  else if !Config.inSequence f (tableGet 0 (s1.peer (flitSource f)).seqs (flitChannel f)) then .next (s1.heard (flitSource f) port)
  else
    let s2 := (s1.modPeer (flitSource f) (fun x => { x with
      seqs := tableSet 0 x.seqs (flitChannel f) (tableGet 0 x.seqs (flitChannel f) + 1) })).heard (flitSource f) port
    match s.input.load with
    | none => .next s2
    | some m => .next (if flitDest f = s.env.self ∧ flitChannel f = m.channel then s2.receive (flitSource f) m else s2)

end Sys2Proof.Machine
end

