-- ==== Sys2Proof/Machine/LoadStore.lean ====
section
/-! DEFINITION. Loads, stores, full/empty forms, atomics and WAIT forms (R336–R345). Each is one access with the check, the order and
the scope its entry gives. -/

namespace Sys2Proof.Machine

/-- Order of a load or of a store from its field: unprefixed, rx, acquire or release (R280). -/
def loadOrder (o : BitVec 2) : Order := if o = 0#2 then .plain else if o = 1#2 then .rx else .acquire
def storeOrder (o : BitVec 2) : Order := if o = 0#2 then .plain else if o = 1#2 then .rx else .release

/-- Bytes of a width field (R281). -/
def sizeOf (w : BitVec 2) : Nat := 2 ^ w.toNat

/-- Offset of a Memory-format access: imm[3:0] beside a scope, else imm[6:0] (R338). -/
def memOffset (o : BitVec 2) (i : BitVec 7) : Word := if o = 2#2 then sext (fieldAt 0 4 i) else sext i

/-- Effective address of a Memory-format access (R338). -/
def State.memAddr (s : State) (a : BitVec 5) (o w : BitVec 2) (i : BitVec 7) : Word :=
  s.me.rg a + memOffset o i * BitVec.ofNat 64 (sizeOf w)

/-- Scope of a Memory-format access (R338) and of a Register-format one (R340). -/
def memScope (o : BitVec 2) (i : BitVec 7) : Nat := if o = 2#2 then natAt 4 3 i else 0
def regScope (o : BitVec 2) (l : BitVec 4) : Nat := if o = 2#2 then natAt 0 3 l else 0

/-- Lookahead of a Register-format access: none beside a scope (R340). -/
def regLook (o : BitVec 2) (l : BitVec 4) : BitVec 4 := if o = 2#2 then 0#4 else l

/-- A load of a general register (R338). -/
def State.loadReg (s : State) (d : BitVec 5) (o w : BitVec 2) (signed : Bool) (va : Word) (g2 : Bool) (scope : Nat) (l : BitVec 4)
    (reads : List (BitVec 5)) : State :=
  s.access { op := .load (sizeOf w) signed, need := { rd := true, size := sizeOf w, align := sizeOf w }, va := va, g2 := g2, dest := d,
             order := loadOrder o, scope := scope, l := l, reads := gUse reads }

/-- A store of a general register (R338). -/
def State.storeReg (s : State) (d : BitVec 5) (o w : BitVec 2) (va : Word) (g2 : Bool) (scope : Nat) (l : BitVec 4)
    (reads : List (BitVec 5)) : State :=
  s.access { op := .store (sizeOf w) (s.me.rg d), need := { wr := true, size := sizeOf w, align := sizeOf w }, va := va, g2 := g2,
             dest := 0#5, order := storeOrder o, scope := scope, l := l, reads := gUse reads }

/-- Effective address of a full/empty or joint form (R342, R347). -/
def State.feAddr (s : State) (a : BitVec 5) (i : BitVec 7) : Word := s.me.rg a + 8#64 * sext i

/-- What each full/empty form needs of its page (R189, R208). -/
def feNeed (fn : Nat) : Need := { rd := fn == 0 || fn == 1 || fn == 4, wr := fn != 1 && fn != 4, fe := true }

/-- A full/empty form: an unprefixed access; STF and STS release, LDE and LDF acquire, at device scope (R205). -/
def State.feForm (s : State) (fn : Nat) (d : BitVec 5) (data va : Word) (g2 : Bool) : State :=
  s.access { op := .fullEmpty fn data, need := feNeed fn, va := va, g2 := g2, dest := d,
             order := if fn = 2 ∨ fn = 3 then .release else .plain, scope := 3, l := 0#4, reads := [] }

/-- Bytes of an atomic's width bit (R343). -/
def atomSize (w : BitVec 1) : Nat := if w = 1#1 then 8 else 4

/-- An AMO or CAS (R343, R344): a host page takes swap, add and CAS. -/
def State.atom (s : State) (fn : Nat) (d a b : BitVec 5) (w : BitVec 1) (order : Order) (scope : Nat) (l : BitVec 4) : State :=
  s.access { op := .atomic fn (atomSize w) (s.me.rg b) (s.me.rg d),
             need := { rd := true, wr := true, noHost := !(fn == 0 || fn == 1 || fn == 9), size := atomSize w, align := atomSize w },
             va := s.me.rg a, g2 := a == 2#5, dest := d, order := order, scope := scope, l := l,
             reads := gUse (if fn = 9 then [d, a, b] else [a, b]) }

/-- A WAIT form (R345). -/
def State.waitAtom (s : State) (fn : Nat) (d a b : BitVec 5) (order : Order) (scope : Nat) (l : BitVec 4) : State :=
  s.access { op := .waitForm fn (s.me.rg b), need := { rd := true, noHost := true }, va := s.me.rg a, g2 := a == 2#5, dest := d,
             order := order, scope := scope, l := l, reads := gUse [a, b] }

/-- Order of an ATOM form from its rx bit (R343). -/
def atomOrder (r : BitVec 1) : Order := if r = 1#1 then .rx else .plain

/-- LD (R338). -/
def execLd (d a : BitVec 5) (o w : BitVec 2) (i : BitVec 7) (l : BitVec 4) (s : State) : Host.Outcome State Fault Refusal :=
  .next (s.loadReg d o w true (s.memAddr a o w i) (a == 2#5) (memScope o i) l [a])

/-- LDU (R338). -/
def execLdu (d a : BitVec 5) (o w : BitVec 2) (i : BitVec 7) (l : BitVec 4) (s : State) : Host.Outcome State Fault Refusal :=
  .next (s.loadReg d o w false (s.memAddr a o w i) (a == 2#5) (memScope o i) l [a])

/-- ST (R338). -/
def execSt (d a : BitVec 5) (o w : BitVec 2) (i : BitVec 7) (l : BitVec 4) (s : State) : Host.Outcome State Fault Refusal :=
  .next (s.storeReg d o w (s.memAddr a o w i) (a == 2#5) (memScope o i) l [d, a])

/-- LDX (R340): as LD at g(a) + g(b). -/
def execLdx (d a b : BitVec 5) (o w : BitVec 2) (l : BitVec 4) (s : State) : Host.Outcome State Fault Refusal :=
  .next (s.loadReg d o w true (s.me.rg a + s.me.rg b) (a == 2#5) (regScope o l) (regLook o l) [a, b])

/-- LDUX (R340): as LDU at g(a) + g(b). -/
def execLdux (d a b : BitVec 5) (o w : BitVec 2) (l : BitVec 4) (s : State) : Host.Outcome State Fault Refusal :=
  .next (s.loadReg d o w false (s.me.rg a + s.me.rg b) (a == 2#5) (regScope o l) (regLook o l) [a, b])

/-- STX (R340): as ST at g(a) + g(b). -/
def execStx (d a b : BitVec 5) (o w : BitVec 2) (l : BitVec 4) (s : State) : Host.Outcome State Fault Refusal :=
  .next (s.storeReg d o w (s.me.rg a + s.me.rg b) (a == 2#5) (regScope o l) (regLook o l) [d, a, b])

/-- LDEX (R340): as LDE at g(a) + g(b). -/
def execLdex (d a b : BitVec 5) (s : State) : Host.Outcome State Fault Refusal :=
  .next (s.feForm 0 d 0#64 (s.me.rg a + s.me.rg b) (a == 2#5))

/-- STFX (R340): as STF at g(a) + g(b). -/
def execStfx (d a b : BitVec 5) (s : State) : Host.Outcome State Fault Refusal :=
  .next (s.feForm 2 0#5 (s.me.rg d) (s.me.rg a + s.me.rg b) (a == 2#5))

/-- LDE (R205, R342): waits until full, reads, leaves empty. -/
def execLde (d a : BitVec 5) (i : BitVec 7) (s : State) : Host.Outcome State Fault Refusal :=
  .next (s.feForm 0 d 0#64 (s.feAddr a i) (a == 2#5))

/-- LDF (R205, R342): waits until full and reads. -/
def execLdf (d a : BitVec 5) (i : BitVec 7) (s : State) : Host.Outcome State Fault Refusal :=
  .next (s.feForm 1 d 0#64 (s.feAddr a i) (a == 2#5))

/-- STF (R205, R342): waits until empty, writes, leaves full. -/
def execStf (d a : BitVec 5) (i : BitVec 7) (s : State) : Host.Outcome State Fault Refusal :=
  .next (s.feForm 2 0#5 (s.me.rg d) (s.feAddr a i) (a == 2#5))

/-- STS (R205, R342): writes and leaves full. -/
def execSts (d a : BitVec 5) (i : BitVec 7) (s : State) : Host.Outcome State Fault Refusal :=
  .next (s.feForm 3 0#5 (s.me.rg d) (s.feAddr a i) (a == 2#5))

/-- FEQ (R205, R342): the bit of the word. -/
def execFeq (d a : BitVec 5) (i : BitVec 7) (s : State) : Host.Outcome State Fault Refusal :=
  .next (s.feForm 4 d 0#64 (s.feAddr a i) (a == 2#5))

/-- FESET (R205, R342). -/
def execFeset (a : BitVec 5) (i : BitVec 7) (s : State) : Host.Outcome State Fault Refusal :=
  .next (s.feForm 5 0#5 0#64 (s.feAddr a i) (a == 2#5))

/-- FECLR (R205, R342). -/
def execFeclr (a : BitVec 5) (i : BitVec 7) (s : State) : Host.Outcome State Fault Refusal :=
  .next (s.feForm 6 0#5 0#64 (s.feAddr a i) (a == 2#5))

/-- LDPC (R341): an unprefixed load of 8 bytes at the address of LDPC plus 4 × the immediate. -/
def execLdpc (d : BitVec 5) (i : BitVec 15) (s : State) : Host.Outcome State Fault Refusal :=
  .next (s.loadReg d 0#2 3#2 true (target s.me.pc i) false 0 0#4 [])

/-- AMO.swap (R343). -/
def execAmoSwap (d a b : BitVec 5) (r w : BitVec 1) (l : BitVec 4) (s : State) : Host.Outcome State Fault Refusal :=
  .next (s.atom 0 d a b w (atomOrder r) 0 l)

/-- AMO.add (R343). -/
def execAmoAdd (d a b : BitVec 5) (r w : BitVec 1) (l : BitVec 4) (s : State) : Host.Outcome State Fault Refusal :=
  .next (s.atom 1 d a b w (atomOrder r) 0 l)

/-- AMO.and (R343). -/
def execAmoAnd (d a b : BitVec 5) (r w : BitVec 1) (l : BitVec 4) (s : State) : Host.Outcome State Fault Refusal :=
  .next (s.atom 2 d a b w (atomOrder r) 0 l)

/-- AMO.or (R343). -/
def execAmoOr (d a b : BitVec 5) (r w : BitVec 1) (l : BitVec 4) (s : State) : Host.Outcome State Fault Refusal :=
  .next (s.atom 3 d a b w (atomOrder r) 0 l)

/-- AMO.xor (R343). -/
def execAmoXor (d a b : BitVec 5) (r w : BitVec 1) (l : BitVec 4) (s : State) : Host.Outcome State Fault Refusal :=
  .next (s.atom 4 d a b w (atomOrder r) 0 l)

/-- AMO.min, signed (R343). -/
def execAmoMin (d a b : BitVec 5) (r w : BitVec 1) (l : BitVec 4) (s : State) : Host.Outcome State Fault Refusal :=
  .next (s.atom 5 d a b w (atomOrder r) 0 l)

/-- AMO.max, signed (R343). -/
def execAmoMax (d a b : BitVec 5) (r w : BitVec 1) (l : BitVec 4) (s : State) : Host.Outcome State Fault Refusal :=
  .next (s.atom 6 d a b w (atomOrder r) 0 l)

/-- AMO.min, unsigned (R343). -/
def execAmoMinu (d a b : BitVec 5) (r w : BitVec 1) (l : BitVec 4) (s : State) : Host.Outcome State Fault Refusal :=
  .next (s.atom 7 d a b w (atomOrder r) 0 l)

/-- AMO.max, unsigned (R343). -/
def execAmoMaxu (d a b : BitVec 5) (r w : BitVec 1) (l : BitVec 4) (s : State) : Host.Outcome State Fault Refusal :=
  .next (s.atom 8 d a b w (atomOrder r) 0 l)

/-- CAS (R343, R344): writes g(b) only where the word equals the old g(d). -/
def execCas (d a b : BitVec 5) (r w : BitVec 1) (l : BitVec 4) (s : State) : Host.Outcome State Fault Refusal :=
  .next (s.atom 9 d a b w (atomOrder r) 0 l)

/-- WAITEQ (R345). -/
def execWaiteq (d a b : BitVec 5) (r : BitVec 1) (l : BitVec 4) (s : State) : Host.Outcome State Fault Refusal :=
  .next (s.waitAtom 10 d a b (atomOrder r) 0 l)

/-- WAITGE (R345). -/
def execWaitge (d a b : BitVec 5) (r : BitVec 1) (l : BitVec 4) (s : State) : Host.Outcome State Fault Refusal :=
  .next (s.waitAtom 11 d a b (atomOrder r) 0 l)

/-- WAITNE (R345). -/
def execWaitne (d a b : BitVec 5) (r : BitVec 1) (l : BitVec 4) (s : State) : Host.Outcome State Fault Refusal :=
  .next (s.waitAtom 12 d a b (atomOrder r) 0 l)

/-- ATOMAR (R343): the AMO, CAS and WAIT forms as an acquire and a release at a scope. -/
def execAtomar (d a b : BitVec 5) (w : BitVec 1) (f : BitVec 4) (c : BitVec 3) (s : State) : Host.Outcome State Fault Refusal :=
  if f.toNat < 10 then .next (s.atom f.toNat d a b w .both c.toNat 0#4)
  else .next (s.waitAtom f.toNat d a b .both c.toNat 0#4)

end Sys2Proof.Machine
end

