-- ==== Sys2Proof/Machine/Message.lean ====
section
/-! DEFINITION. Packets: MSGH, MSGW, MSGE, RECV, RECVH, MPROBE (R348–R355), and the admission of packets and engine completions
(R156–R158, R443). -/

namespace Sys2Proof.Machine

/-! ### Sending (R350–R352) -/

/-- MSGH (R350): 0x31 for a destination outside the grid, before 0x33 with a packet open, in the order of R215 (log 20). -/
def execMsgh (a : BitVec 5) (s : State) : Host.Outcome State Fault Refusal :=
  let x := s.me.rg a
  let h := jobOf (ctxOf s.cur)
  if recTiles (s.job h).record ≤ natAt 0 16 x then .next (s.trapP 0x31 (BitVec.ofNat 64 (natAt 0 16 x)))
  else if s.me.packet.isSome then .next (s.trapP 0x33 (wordVal (.msgh a)))
  else .next (s.retireWith s.cur (fun st =>
    { st with packet := some { dest := ctxKey h (natAt 0 16 x), cls := natAt 16 3 x, tag := fieldAt 32 32 x, len := 0 } }))

/-- The packet of a sender that has not ended yet. -/
def InPacket.openOf (p : InPacket) (key : Nat) : Bool := p.sender == key && p.hdr.isNone

def ParkEntry.openOf (e : ParkEntry) (key : Nat) : Bool :=
  match e with
  | .packet p => p.openOf key
  | _ => false

/-- Where the words of a sender's open packet stand: at the destination's interface, in the park queue, or nowhere yet. -/
inductive OpenAt where
  | staging | parked | nowhere
deriving DecidableEq, Repr

def State.openAt (s : State) (key dest : Nat) : OpenAt :=
  if (s.ctx dest).staging.any (fun p => p.openOf key) then .staging
  else if (s.gangOf dest).park.any (fun e => e.openOf key) then .parked
  else .nowhere

/-- A word joins a packet at the destination's interface; the first one translates the destination (R109, R443; log 54). -/
def State.stageWord (s : State) (key : Nat) (p : Packet) (x : Word) (at' : OpenAt) : State :=
  (s.seek (ctxOf key) p.dest).modCtx p.dest (fun c =>
    if at' = .staging then
      { c with staging := c.staging.map (fun q => if q.openOf key then { q with words := q.words ++ [x] } else q) }
    else { c with staging := c.staging ++ [{
      dest := p.dest, cls := p.cls, sender := key, words := [x], hdr := none, readyAt := s.cycle + s.xltCost (ctxOf key) p.dest }] })

/-- A word joins a packet in the park queue (R118); the first one parks the packet, with its tile fault (R119). -/
def State.parkWord (s : State) (key : Nat) (p : Packet) (x : Word) (at' : OpenAt) : State :=
  if at' = .parked then
    s.modGang (jobOf p.dest) (s.gangNo p.dest) (fun g => { g with park := g.park.map (fun e => match e with
      | .packet q => if q.openOf key then .packet { q with words := q.words ++ [x] } else e
      | _ => e) })
  else s.parkPut p.dest (.packet { dest := p.dest, cls := p.cls, sender := key, words := [x], hdr := none })

/-- The destination's context is reached directly, at the old tile or the new (R110, R135). -/
def Path.reaches (p : Path) : Bool := p == .direct || p == .moving

/-- The payload of the open packet grows by a word that has been sent or discarded. -/
def State.sentWord (s : State) (key : Nat) : State :=
  s.retireWith key (fun st => { st with packet := st.packet.map (fun p => { p with len := p.len + 1 }) })

/-- The staging area of a class at a context can take a word (R351, R443). -/
def State.stagingRoom (s : State) (ctx cls : Nat) : Bool := decide ((s.ctx ctx).staged cls < 64) || s.admitsAll ctx

/-- MSGW (R351): waits while the path cannot take a word; a sender that must stop finds room at a gang that is not resident (R120, R121). -/
def execMsgw (a : BitVec 5) (s : State) : Host.Outcome State Fault Refusal :=
  let key := s.cur
  match s.me.packet with
  | none => .next (s.trapP 0x33 (wordVal (.msgw a)))
  | some p =>
    if p.len = 63 then .next (s.trapP 0x32 (wordVal (.msgw a)))
    else
      let x := s.me.rg a
      let w := s.openAt key p.dest
      let path := s.path p.dest
      if path = .gone then .next (s.sentWord key)
      else if w = .staging ∨ (w = .nowhere ∧ path.reaches) then
        if s.stagingRoom p.dest p.cls then .next ((s.stageWord key p x w).sentWord key)
        else .next (s.block key .msgwait .send)
      else if w = .parked ∨ path = .park then
        if s.parkRoom p.dest (if w = .parked then 8 else 16) ∨ s.me.stops then .next ((s.parkWord key p x w).sentWord key)
        else .next (s.stallOn key p.dest .msgwait .send)
      else if s.me.stops ∧ path = .noQueue then .next (((s.allocPark p.dest).parkWord key p x w).sentWord key)
      else .next (s.stallOn key p.dest .msgwait .send)

/-- The cycle in which the end word of a packet reaches its destination: not before the packets of its sender and class that ended before
it (R202, R443). -/
def State.endArrives (s : State) (src dest cls : Nat) : Nat :=
  ((s.ctx dest).staging.filter (fun q => ctxOf q.sender == src && q.cls == cls && q.hdr.isSome)).foldl (fun m q => Nat.max m q.readyAt)
    (s.cycle + 20 + 14 * s.hops (s.ptid src) (s.ptid dest))

/-- Packets leave for another module on channel 2 (R37; log 44). -/
def State.sendAway (s : State) (m : Nat) (ps : List InPacket) : State :=
  ps.foldl (fun x p => x.sendCtl [m] (.packet (x.jobName (jobOf p.dest)) p)) s

/-- A parked packet has ended, and one of a source and destination and class comes after it (R202). -/
def ParkEntry.follows (e : ParkEntry) (src : Nat) (p : Packet) : Bool :=
  match e with
  | .packet q => q.hdr.isSome && ctxOf q.sender == src && q.dest == p.dest && q.cls == p.cls
  | _ => false

/-- The end word reaches the packet's words: they become a packet with its header, behind every packet that has ended (R202). Its dequeue
acquires what the sender has released (R203). Where the destination's gang has meanwhile left its tiles and a packet of its sender and class that
ended earlier stands in the park queue, it follows that one there (R202). -/
def State.endPacket (s : State) (key : Nat) (p : Packet) : State :=
  let src := ctxOf key
  let hdr := packetHeader (vtidOf src) p.cls p.len 0 p.tag
  let at' := s.endArrives src p.dest p.cls
  let fin (q : InPacket) : InPacket :=
    { q with hdr := some hdr, readyAt := Nat.max q.readyAt at', view := View.join [] (s.viewOf key) (if (s.awayAt p.dest).isSome then 4 else 3) }
  if s.path p.dest = .gone then
    ((s.modCtx p.dest (fun c => { c with staging := c.staging.filter (fun q => !q.openOf key) })).modGang (jobOf p.dest) (s.gangNo p.dest)
      (fun g => { g with park := g.park.filter (fun e => !e.openOf key) })).discard (jobOf p.dest)
  else
    match s.openAt key p.dest with
    | .staging =>
      (match s.awayAt p.dest with
       | some m => (s.modCtx p.dest (fun c => { c with staging := c.staging.filter (fun q => !q.openOf key) }.landed p.cls s.cycle)).sendAway m
           (((s.ctx p.dest).staging.filter (fun q => q.openOf key)).map fin)
       | none =>
         if (s.gangOf p.dest).park.any (fun e => e.follows src p) then
           ((s.ctx p.dest).staging.filter (fun q => q.openOf key)).foldl (fun x q => x.parkPut p.dest (.packet (fin q)))
             (s.modCtx p.dest (fun c => { c with staging := c.staging.filter (fun q => !q.openOf key) }.landed p.cls s.cycle))
         else s.modCtx p.dest (fun c =>
           { c with staging := c.staging.filter (fun q => !q.openOf key) ++ (c.staging.filter (fun q => q.openOf key)).map fin }))
    | .parked => s.modGang (jobOf p.dest) (s.gangNo p.dest) (fun g =>
        { g with park := g.park.filter (fun e => !e.openOf key) ++ (g.park.filter (fun e => e.openOf key)).map (fun e => match e with
            | .packet q => .packet (fin q)
            | _ => e) })
    | .nowhere => s

/-- MSGE (R203, R352): a release at device scope, and at system scope towards another module, then the end word, which waits for room as a payload word does (R114, R443). -/
def execMsge (s : State) : Host.Outcome State Fault Refusal :=
  let key := s.cur
  match s.me.packet with
  | none => .next (s.trapP 0x33 (wordVal .msge))
  | some p =>
    if p.len = 0 then .next (s.trapP 0x32 (wordVal .msge))
    else
      let far := (s.awayAt p.dest).isSome
      let s1 := s.force key (fun o => far || !o.farStore)
      if s.path p.dest ≠ .gone ∧ s.openAt key p.dest = .staging ∧ ¬ s.stagingRoom p.dest p.cls then .next (s.block key .msgwait .send)
      else if (s1.strand key).out.any (fun o => o.stuck && (far || !o.farStore)) then .next (s1.block key .memwait .lookahead)
      else .next ((s1.endPacket key p).retireWith key (fun st => { st with packet := none }))

/-! ### Receiving (R353, R354) -/

/-- The strand MCB names for a class (R155, R181). -/
def Ctx.boundTo (c : Ctx) (cls : Nat) : Nat := natAt (4 * cls) 4 c.mcb

/-- The head word of an inbox is taken; a header starts a packet of LEN words (R353). -/
def Ctx.popInbox (c : Ctx) (cls : Nat) : Ctx :=
  match tableGet [] c.inbox cls with
  | [] => c
  | w :: t => { c with inbox := tableSet [] c.inbox cls t,
                       rest := tableSet 0 c.rest cls (if w.header then natAt 19 6 w.word else tableGet 0 c.rest cls - 1) }

/-- The remaining payload words of the packet being read are discarded (R353). -/
def Ctx.skipRest (c : Ctx) (cls : Nat) : Ctx :=
  { c with inbox := tableSet [] c.inbox cls ((tableGet [] c.inbox cls).drop (tableGet 0 c.rest cls)), rest := tableSet 0 c.rest cls 0 }

/-- Take the head word of a class for a register, with the acquire and the flag merge of a header; wait while there is none (R353). -/
def State.take (s : State) (d : BitVec 5) (cls : Nat) : State :=
  let key := s.cur
  let c := ctxOf key
  match tableGet [] (s.ctx c).inbox cls with
  | [] => s.block key .msgwait (.recv cls)
  | w :: _ =>
    let s1 := ((s.modCtx c (fun x => x.popInbox cls)).acquire key w.view 5).retireWith key (fun st => st.setG d w.word)
    match w.merge with
    | some (k, f) => s1.mergeFlags k f
    | none => s1

/-- RECV (R353). -/
def execRecv (d : BitVec 5) (c : BitVec 3) (s : State) : Host.Outcome State Fault Refusal :=
  if (s.ctx (ctxOf s.cur)).boundTo c.toNat ≠ stridOf s.cur then .next (s.trapP 0x34 (zext c))
  else .next (s.take d c.toNat)

/-- RECVH (R353): the rest of the packet being read is discarded first. -/
def execRecvh (d : BitVec 5) (c : BitVec 3) (s : State) : Host.Outcome State Fault Refusal :=
  if (s.ctx (ctxOf s.cur)).boundTo c.toNat ≠ stridOf s.cur then .next (s.trapP 0x34 (zext c))
  else .next ((s.modCtx (ctxOf s.cur) (fun x => x.skipRest c.toNat)).take d c.toNat)

/-- What MPROBE returns of a class (R354). -/
def Ctx.probe (c : Ctx) (cls : Nat) : Word :=
  let l := tableGet [] c.inbox cls
  let head : Bool := match l with | w :: _ => w.header | [] => false
  let rest := if head || l.isEmpty then 0 else tableGet 0 c.rest cls
  BitVec.ofNat 64 (l.length + 128 * (if head then 1 else 0) + 256 * rest)

/-- MPROBE (R354). -/
def execMprobe (d : BitVec 5) (c : BitVec 3) (s : State) : Host.Outcome State Fault Refusal :=
  if (s.ctx (ctxOf s.cur)).boundTo c.toNat ≠ stridOf s.cur then .next (s.trapP 0x34 (zext c))
  else .next (s.writeG d ((s.ctx (ctxOf s.cur)).probe c.toNat))

/-! ### Admission (R156–R158, R443) -/

/-- The packet of a class whose end word arrived first. -/
def Ctx.firstPacket (c : Ctx) (cls now : Nat) : Option InPacket :=
  smallest (fun p => [p.readyAt]) (c.staging.filter (fun p => p.cls == cls && p.hdr.isSome && !p.onLinks && decide (p.readyAt ≤ now)))

/-- A completion of the context's engines was posted before a packet of class 7 arrived (R155). -/
def Ctx.postedBefore (c : Ctx) (p : InPacket) : Bool :=
  p.cls == 7 && (match c.posted.head? with | some x => decide (x.postedAt ≤ p.readyAt) | none => false)

/-- The packet of a class whose end word arrived first, if its words fit the inbox: those that arrived after it wait with it (R155, R156). -/
def Ctx.admissible (c : Ctx) (cls now : Nat) : Option (InPacket × Word) :=
  match c.firstPacket cls now with
  | none => none
  | some p =>
    match p.hdr with
    | some h => if c.fill cls + p.words.length + 1 ≤ 64 && !c.postedBefore p then some (p, h) else none
    | none => none

/-- The completion of the engines that enters the class-7 inbox next: the first one posted, if it fits and no packet of class 7 arrived before it
(R155, R158). -/
def Ctx.nextCompletion (c : Ctx) (now : Nat) : Option Completion :=
  match c.posted with
  | [] => none
  | p :: _ =>
    if c.fill 7 + 3 ≤ 64 && (match c.firstPacket 7 now with | some q => decide (p.postedAt ≤ q.readyAt) | none => true) then some p else none

/-- PACKET_ADMIT (R156, R157): the packet's words enter the inbox together. -/
def execPacketAdmit (s : State) : Host.Outcome State Fault Refusal :=
  match (s.ctx s.input.ctx).admissible s.input.cls s.cycle with
  | none => .next s
  | some (p, h) => .next ((s.modCtx s.input.ctx (fun c => { c with staging := c.staging.erase p }.landed p.cls s.cycle)).enterInbox s.input.ctx p h)

/-- ENGINE_COMPLETION_ADMIT (R155, R158): the next completion enters the class-7 inbox once its three words fit. -/
def execEngineCompletionAdmit (s : State) : Host.Outcome State Fault Refusal :=
  match (s.ctx s.input.ctx).nextCompletion s.cycle with
  | none => .next s
  | some p =>
    .next (((s.modCtx s.input.ctx (fun x => { x with posted := x.posted.erase p })).enterInbox s.input.ctx
      { dest := s.input.ctx, cls := 7, sender := 0, words := [p.status, p.detail], hdr := none, merge := p.merge, view := p.view } p.hdr).settleHeads
        s.input.ctx)

end Sys2Proof.Machine
end

