-- ==== Sys2Proof/Machine/Scalar.lean ====
section
/-! DEFINITION. Integer instructions (R304–R308): raw 64-bit registers, arithmetic modulo 2^64, no flags. -/

namespace Sys2Proof.Machine

/-! ### INT (R305): the shift forms use g(b)[5:0] -/

/-- ADD (R305): the sum modulo 2^64. -/
def execAdd (d a b : BitVec 5) (s : State) : Host.Outcome State Fault Refusal :=
  .next (s.writeG d (s.me.rg a + s.me.rg b))

/-- SUB (R305): the difference modulo 2^64. -/
def execSub (d a b : BitVec 5) (s : State) : Host.Outcome State Fault Refusal :=
  .next (s.writeG d (s.me.rg a - s.me.rg b))

/-- AND (R305). -/
def execAnd (d a b : BitVec 5) (s : State) : Host.Outcome State Fault Refusal :=
  .next (s.writeG d (s.me.rg a &&& s.me.rg b))

/-- OR (R305). -/
def execOr (d a b : BitVec 5) (s : State) : Host.Outcome State Fault Refusal :=
  .next (s.writeG d (s.me.rg a ||| s.me.rg b))

/-- XOR (R305). -/
def execXor (d a b : BitVec 5) (s : State) : Host.Outcome State Fault Refusal :=
  .next (s.writeG d (s.me.rg a ^^^ s.me.rg b))

/-- ANDN (R305): g(a) AND NOT g(b). -/
def execAndn (d a b : BitVec 5) (s : State) : Host.Outcome State Fault Refusal :=
  .next (s.writeG d (s.me.rg a &&& ~~~(s.me.rg b)))

/-- ORN (R305): g(a) OR NOT g(b). -/
def execOrn (d a b : BitVec 5) (s : State) : Host.Outcome State Fault Refusal :=
  .next (s.writeG d (s.me.rg a ||| ~~~(s.me.rg b)))

/-- SLL (R305). -/
def execSll (d a b : BitVec 5) (s : State) : Host.Outcome State Fault Refusal :=
  .next (s.writeG d (s.me.rg a <<< (natAt 0 6 (s.me.rg b))))

/-- SRL (R305). -/
def execSrl (d a b : BitVec 5) (s : State) : Host.Outcome State Fault Refusal :=
  .next (s.writeG d (s.me.rg a >>> (natAt 0 6 (s.me.rg b))))

/-- SRA (R305). -/
def execSra (d a b : BitVec 5) (s : State) : Host.Outcome State Fault Refusal :=
  .next (s.writeG d ((s.me.rg a).sshiftRight (natAt 0 6 (s.me.rg b))))

/-- ROR (R305). -/
def execRor (d a b : BitVec 5) (s : State) : Host.Outcome State Fault Refusal :=
  .next (s.writeG d ((s.me.rg a).rotateRight (natAt 0 6 (s.me.rg b))))

/-- MIN (R305): compared as signed. -/
def execMin (d a b : BitVec 5) (s : State) : Host.Outcome State Fault Refusal :=
  .next (s.writeG d (if (s.me.rg a).toInt ≤ (s.me.rg b).toInt then s.me.rg a else s.me.rg b))

/-- MAX (R305): compared as signed. -/
def execMax (d a b : BitVec 5) (s : State) : Host.Outcome State Fault Refusal :=
  .next (s.writeG d (if (s.me.rg a).toInt ≤ (s.me.rg b).toInt then s.me.rg b else s.me.rg a))

/-- MINU (R305): compared as unsigned. -/
def execMinu (d a b : BitVec 5) (s : State) : Host.Outcome State Fault Refusal :=
  .next (s.writeG d (if (s.me.rg a).toNat ≤ (s.me.rg b).toNat then s.me.rg a else s.me.rg b))

/-- MAXU (R305): compared as unsigned. -/
def execMaxu (d a b : BitVec 5) (s : State) : Host.Outcome State Fault Refusal :=
  .next (s.writeG d (if (s.me.rg a).toNat ≤ (s.me.rg b).toNat then s.me.rg b else s.me.rg a))

/-- SEL (R305): g(d) is read before it is written. -/
def execSel (d a b : BitVec 5) (s : State) : Host.Outcome State Fault Refusal :=
  .next (s.writeG d (if s.me.rg d ≠ 0#64 then s.me.rg a else s.me.rg b))

/-- CLZ (R305): 64 when g(a) = 0. -/
def execClz (d a : BitVec 5) (s : State) : Host.Outcome State Fault Refusal :=
  .next (s.writeG d (BitVec.ofNat 64 (leadingZeros (s.me.rg a))))

/-- CTZ (R305): 64 when g(a) = 0. -/
def execCtz (d a : BitVec 5) (s : State) : Host.Outcome State Fault Refusal :=
  .next (s.writeG d (BitVec.ofNat 64 (trailingZeros (s.me.rg a))))

/-- POPC (R305). -/
def execPopc (d a : BitVec 5) (s : State) : Host.Outcome State Fault Refusal :=
  .next (s.writeG d (BitVec.ofNat 64 (popcount (s.me.rg a))))

/-- SEXT.i8 (R305). -/
def execSextI8 (d a : BitVec 5) (s : State) : Host.Outcome State Fault Refusal :=
  .next (s.writeG d (sext (fieldAt 0 8 (s.me.rg a))))

/-- SEXT.i16 (R305). -/
def execSextI16 (d a : BitVec 5) (s : State) : Host.Outcome State Fault Refusal :=
  .next (s.writeG d (sext (fieldAt 0 16 (s.me.rg a))))

/-- SEXT.i32 (R305). -/
def execSextI32 (d a : BitVec 5) (s : State) : Host.Outcome State Fault Refusal :=
  .next (s.writeG d (sext (fieldAt 0 32 (s.me.rg a))))

/-- ZEXT.n8 (R305). -/
def execZextN8 (d a : BitVec 5) (s : State) : Host.Outcome State Fault Refusal :=
  .next (s.writeG d (zext (fieldAt 0 8 (s.me.rg a))))

/-- ZEXT.n16 (R305). -/
def execZextN16 (d a : BitVec 5) (s : State) : Host.Outcome State Fault Refusal :=
  .next (s.writeG d (zext (fieldAt 0 16 (s.me.rg a))))

/-- ZEXT.n32 (R305). -/
def execZextN32 (d a : BitVec 5) (s : State) : Host.Outcome State Fault Refusal :=
  .next (s.writeG d (zext (fieldAt 0 32 (s.me.rg a))))

/-! ### MULDIV (R306, R150): 24 cc for products, 136 cc for quotients and remainders -/

/-- MUL (R306): the low half of the product. -/
def execMul (d a b : BitVec 5) (l : BitVec 4) (s : State) : Host.Outcome State Fault Refusal :=
  .next (s.longG 24 l d (s.me.rg a * s.me.rg b) 0#6 [a, b])

/-- MULH (R306): bits [127:64] of the signed product. -/
def execMulh (d a b : BitVec 5) (l : BitVec 4) (s : State) : Host.Outcome State Fault Refusal :=
  .next (s.longG 24 l d (wrap ((s.me.rg a).toInt * (s.me.rg b).toInt / 18446744073709551616)) 0#6 [a, b])

/-- MULHU (R306): bits [127:64] of the unsigned product. -/
def execMulhu (d a b : BitVec 5) (l : BitVec 4) (s : State) : Host.Outcome State Fault Refusal :=
  .next (s.longG 24 l d (BitVec.ofNat 64 ((s.me.rg a).toNat * (s.me.rg b).toNat / 18446744073709551616)) 0#6 [a, b])

/-- DIV (R306): rounded toward zero; −2^63 / −1 gives −2^63. A zero divisor traps with 0x16, TVAL the PC. -/
def execDiv (d a b : BitVec 5) (l : BitVec 4) (s : State) : Host.Outcome State Fault Refusal :=
  if s.me.rg b = 0#64 then .next (s.trapP 0x16 s.me.pc)
  else .next (s.longG 136 l d (wrap ((s.me.rg a).toInt.tdiv (s.me.rg b).toInt)) 0#6 [a, b])

/-- DIVU (R306). A zero divisor traps with 0x16, TVAL the PC. -/
def execDivu (d a b : BitVec 5) (l : BitVec 4) (s : State) : Host.Outcome State Fault Refusal :=
  if s.me.rg b = 0#64 then .next (s.trapP 0x16 s.me.pc)
  else .next (s.longG 136 l d (BitVec.ofNat 64 ((s.me.rg a).toNat / (s.me.rg b).toNat)) 0#6 [a, b])

/-- REM (R306): the sign of the dividend. A zero divisor traps with 0x16, TVAL the PC. -/
def execRem (d a b : BitVec 5) (l : BitVec 4) (s : State) : Host.Outcome State Fault Refusal :=
  if s.me.rg b = 0#64 then .next (s.trapP 0x16 s.me.pc)
  else .next (s.longG 136 l d (wrap ((s.me.rg a).toInt.tmod (s.me.rg b).toInt)) 0#6 [a, b])

/-- REMU (R306). A zero divisor traps with 0x16, TVAL the PC. -/
def execRemu (d a b : BitVec 5) (l : BitVec 4) (s : State) : Host.Outcome State Fault Refusal :=
  if s.me.rg b = 0#64 then .next (s.trapP 0x16 s.me.pc)
  else .next (s.longG 136 l d (BitVec.ofNat 64 ((s.me.rg a).toNat % (s.me.rg b).toNat)) 0#6 [a, b])

/-! ### CMP and the Immediate forms (R307, R308) -/

/-- CMP.cc (R283, R307). -/
def execCmp (d a b : BitVec 5) (c : BitVec 4) (s : State) : Host.Outcome State Fault Refusal :=
  .next (s.writeG d (boolWord (condHolds c.toNat (s.me.rg a) (s.me.rg b))))

/-- NOP (R308): does nothing. -/
def execNop (s : State) : Host.Outcome State Fault Refusal :=
  .next (s.retireWith s.cur id)

/-- ADDI (R308). -/
def execAddi (d a : BitVec 5) (i : BitVec 15) (s : State) : Host.Outcome State Fault Refusal :=
  .next (s.writeG d (s.me.rg a + sext i))

/-- ANDI (R308): the immediate is sign-extended. -/
def execAndi (d a : BitVec 5) (i : BitVec 15) (s : State) : Host.Outcome State Fault Refusal :=
  .next (s.writeG d (s.me.rg a &&& sext i))

/-- ORI (R308): the immediate is zero-extended. -/
def execOri (d a : BitVec 5) (i : BitVec 15) (s : State) : Host.Outcome State Fault Refusal :=
  .next (s.writeG d (s.me.rg a ||| zext i))

/-- XORI (R308): the immediate is zero-extended. -/
def execXori (d a : BitVec 5) (i : BitVec 15) (s : State) : Host.Outcome State Fault Refusal :=
  .next (s.writeG d (s.me.rg a ^^^ zext i))

/-- SLLI (R308). -/
def execSlli (d a : BitVec 5) (n : BitVec 6) (s : State) : Host.Outcome State Fault Refusal :=
  .next (s.writeG d (s.me.rg a <<< n.toNat))

/-- SRLI (R308). -/
def execSrli (d a : BitVec 5) (n : BitVec 6) (s : State) : Host.Outcome State Fault Refusal :=
  .next (s.writeG d (s.me.rg a >>> n.toNat))

/-- SRAI (R308). -/
def execSrai (d a : BitVec 5) (n : BitVec 6) (s : State) : Host.Outcome State Fault Refusal :=
  .next (s.writeG d ((s.me.rg a).sshiftRight n.toNat))

/-- LI (R308). -/
def execLi (d : BitVec 5) (i : BitVec 15) (s : State) : Host.Outcome State Fault Refusal :=
  .next (s.writeG d (sext i))

/-- LIH (R308): (g(a) << 15) OR the immediate. -/
def execLih (d a : BitVec 5) (i : BitVec 15) (s : State) : Host.Outcome State Fault Refusal :=
  .next (s.writeG d (s.me.rg a <<< 15 ||| zext i))

/-- LAPC (R308): the address of LAPC plus 4 × the immediate. -/
def execLapc (d : BitVec 5) (i : BitVec 15) (s : State) : Host.Outcome State Fault Refusal :=
  .next (s.writeG d (target s.me.pc i))

end Sys2Proof.Machine
end

