-- ==== Sys2Proof/Machine/Dispatch.lean ====
section
/-! DEFINITION. The one match from instructions to their meanings. -/

namespace Sys2Proof.Machine

def exec (i : Instr) (s : State) : Host.Outcome State Fault Refusal :=
  match i with
  | .add d a b => Sys2Proof.Machine.execAdd d a b s
  | .sub d a b => Sys2Proof.Machine.execSub d a b s
  | .and d a b => Sys2Proof.Machine.execAnd d a b s
  | .or d a b => Sys2Proof.Machine.execOr d a b s
  | .xor d a b => Sys2Proof.Machine.execXor d a b s
  | .andn d a b => Sys2Proof.Machine.execAndn d a b s
  | .orn d a b => Sys2Proof.Machine.execOrn d a b s
  | .sll d a b => Sys2Proof.Machine.execSll d a b s
  | .srl d a b => Sys2Proof.Machine.execSrl d a b s
  | .sra d a b => Sys2Proof.Machine.execSra d a b s
  | .ror d a b => Sys2Proof.Machine.execRor d a b s
  | .min d a b => Sys2Proof.Machine.execMin d a b s
  | .max d a b => Sys2Proof.Machine.execMax d a b s
  | .minu d a b => Sys2Proof.Machine.execMinu d a b s
  | .maxu d a b => Sys2Proof.Machine.execMaxu d a b s
  | .sel d a b => Sys2Proof.Machine.execSel d a b s
  | .clz d a => Sys2Proof.Machine.execClz d a s
  | .ctz d a => Sys2Proof.Machine.execCtz d a s
  | .popc d a => Sys2Proof.Machine.execPopc d a s
  | .sextI8 d a => Sys2Proof.Machine.execSextI8 d a s
  | .sextI16 d a => Sys2Proof.Machine.execSextI16 d a s
  | .sextI32 d a => Sys2Proof.Machine.execSextI32 d a s
  | .zextN8 d a => Sys2Proof.Machine.execZextN8 d a s
  | .zextN16 d a => Sys2Proof.Machine.execZextN16 d a s
  | .zextN32 d a => Sys2Proof.Machine.execZextN32 d a s
  | .mul d a b l => Sys2Proof.Machine.execMul d a b l s
  | .mulh d a b l => Sys2Proof.Machine.execMulh d a b l s
  | .mulhu d a b l => Sys2Proof.Machine.execMulhu d a b l s
  | .div d a b l => Sys2Proof.Machine.execDiv d a b l s
  | .divu d a b l => Sys2Proof.Machine.execDivu d a b l s
  | .rem d a b l => Sys2Proof.Machine.execRem d a b l s
  | .remu d a b l => Sys2Proof.Machine.execRemu d a b l s
  | .cmp d a b c => Sys2Proof.Machine.execCmp d a b c s
  | .fadd d a b t l => Sys2Proof.Machine.execFadd d a b t l s
  | .fsub d a b t l => Sys2Proof.Machine.execFsub d a b t l s
  | .fmul d a b t l => Sys2Proof.Machine.execFmul d a b t l s
  | .fdiv d a b t l => Sys2Proof.Machine.execFdiv d a b t l s
  | .fsqrt d a t l => Sys2Proof.Machine.execFsqrt d a t l s
  | .fma d a b t l => Sys2Proof.Machine.execFma d a b t l s
  | .fmin d a b t l => Sys2Proof.Machine.execFmin d a b t l s
  | .fmax d a b t l => Sys2Proof.Machine.execFmax d a b t l s
  | .fcvt d a t l => Sys2Proof.Machine.execFcvt d a t l s
  | .fcvti d a t l => Sys2Proof.Machine.execFcvti d a t l s
  | .fcvtf d a t l => Sys2Proof.Machine.execFcvtf d a t l s
  | .fcmp d a b t c l => Sys2Proof.Machine.execFcmp d a b t c l s
  | .nop => Sys2Proof.Machine.execNop s
  | .addi d a imm => Sys2Proof.Machine.execAddi d a imm s
  | .andi d a imm => Sys2Proof.Machine.execAndi d a imm s
  | .ori d a imm => Sys2Proof.Machine.execOri d a imm s
  | .xori d a imm => Sys2Proof.Machine.execXori d a imm s
  | .slli d a sc => Sys2Proof.Machine.execSlli d a sc s
  | .srli d a sc => Sys2Proof.Machine.execSrli d a sc s
  | .srai d a sc => Sys2Proof.Machine.execSrai d a sc s
  | .li d imm => Sys2Proof.Machine.execLi d imm s
  | .lih d a imm => Sys2Proof.Machine.execLih d a imm s
  | .lapc d imm => Sys2Proof.Machine.execLapc d imm s
  | .beq a b imm => Sys2Proof.Machine.execBeq a b imm s
  | .bne a b imm => Sys2Proof.Machine.execBne a b imm s
  | .blt a b imm => Sys2Proof.Machine.execBlt a b imm s
  | .bge a b imm => Sys2Proof.Machine.execBge a b imm s
  | .bltu a b imm => Sys2Proof.Machine.execBltu a b imm s
  | .bgeu a b imm => Sys2Proof.Machine.execBgeu a b imm s
  | .bz a imm => Sys2Proof.Machine.execBz a imm s
  | .bnz a imm => Sys2Proof.Machine.execBnz a imm s
  | .b imm => Sys2Proof.Machine.execB imm s
  | .call imm => Sys2Proof.Machine.execCall imm s
  | .callr a => Sys2Proof.Machine.execCallr a s
  | .ret => Sys2Proof.Machine.execRet s
  | .jr a => Sys2Proof.Machine.execJr a s
  | .jtab a b => Sys2Proof.Machine.execJtab a b s
  | .lclr m => Sys2Proof.Machine.execLclr m s
  | .lset m => Sys2Proof.Machine.execLset m s
  | .loop a n imm => Sys2Proof.Machine.execLoop a n imm s
  | .loopx a m imm => Sys2Proof.Machine.execLoopx a m imm s
  | .ld d a o w imm l => Sys2Proof.Machine.execLd d a o w imm l s
  | .jld d a imm => Sys2Proof.Machine.execJld d a imm s
  | .ldu d a o w imm l => Sys2Proof.Machine.execLdu d a o w imm l s
  | .st d a o w imm l => Sys2Proof.Machine.execSt d a o w imm l s
  | .jst d a imm => Sys2Proof.Machine.execJst d a imm s
  | .ldx d a b o w l => Sys2Proof.Machine.execLdx d a b o w l s
  | .ldux d a b o w l => Sys2Proof.Machine.execLdux d a b o w l s
  | .stx d a b o w l => Sys2Proof.Machine.execStx d a b o w l s
  | .ldex d a b => Sys2Proof.Machine.execLdex d a b s
  | .stfx d a b => Sys2Proof.Machine.execStfx d a b s
  | .lde d a imm => Sys2Proof.Machine.execLde d a imm s
  | .ldf d a imm => Sys2Proof.Machine.execLdf d a imm s
  | .stf d a imm => Sys2Proof.Machine.execStf d a imm s
  | .sts d a imm => Sys2Proof.Machine.execSts d a imm s
  | .feq d a imm => Sys2Proof.Machine.execFeq d a imm s
  | .feset a imm => Sys2Proof.Machine.execFeset a imm s
  | .feclr a imm => Sys2Proof.Machine.execFeclr a imm s
  | .ldpc d imm => Sys2Proof.Machine.execLdpc d imm s
  | .amoSwap d a b r w l => Sys2Proof.Machine.execAmoSwap d a b r w l s
  | .amoAdd d a b r w l => Sys2Proof.Machine.execAmoAdd d a b r w l s
  | .amoAnd d a b r w l => Sys2Proof.Machine.execAmoAnd d a b r w l s
  | .amoOr d a b r w l => Sys2Proof.Machine.execAmoOr d a b r w l s
  | .amoXor d a b r w l => Sys2Proof.Machine.execAmoXor d a b r w l s
  | .amoMin d a b r w l => Sys2Proof.Machine.execAmoMin d a b r w l s
  | .amoMax d a b r w l => Sys2Proof.Machine.execAmoMax d a b r w l s
  | .amoMinu d a b r w l => Sys2Proof.Machine.execAmoMinu d a b r w l s
  | .amoMaxu d a b r w l => Sys2Proof.Machine.execAmoMaxu d a b r w l s
  | .cas d a b r w l => Sys2Proof.Machine.execCas d a b r w l s
  | .waiteq d a b r l => Sys2Proof.Machine.execWaiteq d a b r l s
  | .waitge d a b r l => Sys2Proof.Machine.execWaitge d a b r l s
  | .waitne d a b r l => Sys2Proof.Machine.execWaitne d a b r l s
  | .atomar d a b w f sc => Sys2Proof.Machine.execAtomar d a b w f sc s
  | .fence sc => Sys2Proof.Machine.execFence sc s
  | .tfence sc => Sys2Proof.Machine.execTfence sc s
  | .bfence sc => Sys2Proof.Machine.execBfence sc s
  | .jopen => Sys2Proof.Machine.execJopen s
  | .jclose d => Sys2Proof.Machine.execJclose d s
  | .jabort => Sys2Proof.Machine.execJabort s
  | .msgh a => Sys2Proof.Machine.execMsgh a s
  | .msgw a => Sys2Proof.Machine.execMsgw a s
  | .msge => Sys2Proof.Machine.execMsge s
  | .recv d c => Sys2Proof.Machine.execRecv d c s
  | .recvh d c => Sys2Proof.Machine.execRecvh d c s
  | .mprobe d c => Sys2Proof.Machine.execMprobe d c s
  | .enq q a g => Sys2Proof.Machine.execEnq q a g s
  | .deq q a => Sys2Proof.Machine.execDeq q a s
  | .qstat q a => Sys2Proof.Machine.execQstat q a s
  | .lease => Sys2Proof.Machine.execLease s
  | .leasef d n => Sys2Proof.Machine.execLeasef d n s
  | .gset a n => Sys2Proof.Machine.execGset a n s
  | .gclr n => Sys2Proof.Machine.execGclr n s
  | .pega d a => Sys2Proof.Machine.execPega d a s
  | .pegv d a => Sys2Proof.Machine.execPegv d a s
  | .pegw d a => Sys2Proof.Machine.execPegw d a s
  | .pegf a => Sys2Proof.Machine.execPegf a s
  | .pegq d a => Sys2Proof.Machine.execPegq d a s
  | .trap a n => Sys2Proof.Machine.execTrap a n s
  | .eret => Sys2Proof.Machine.execEret s
  | .exit => Sys2Proof.Machine.execExit s
  | .spawn a b => Sys2Proof.Machine.execSpawn a b s
  | .idle d a => Sys2Proof.Machine.execIdle d a s
  | .qcap d a => Sys2Proof.Machine.execQcap d a s
  | .ilock d a b => Sys2Proof.Machine.execIlock d a b s
  | .iunlock a b => Sys2Proof.Machine.execIunlock a b s
  | .publish d a b => Sys2Proof.Machine.execPublish d a b s
  | .lnch d a => Sys2Proof.Machine.execLnch d a s
  | .step => Sys2Proof.Machine.execStep s
  | .brk k j => Sys2Proof.Machine.execBrk k j s
  | .tblw a b => Sys2Proof.Machine.execTblw a b s
  | .halt => Sys2Proof.Machine.execHalt s
  | .mgmt d a => Sys2Proof.Machine.execMgmt d a s
  | .crd d c => Sys2Proof.Machine.execCrd d c s
  | .cwr a c => Sys2Proof.Machine.execCwr a c s
  | .cins d a c => Sys2Proof.Machine.execCins d a c s
  | .crdc d c => Sys2Proof.Machine.execCrdc d c s
  | .vld d a b k o l => Sys2Proof.Machine.execVld d a b k o l s
  | .vlds d a b k t o l => Sys2Proof.Machine.execVlds d a b k t o l s
  | .vldg d a b k t o l => Sys2Proof.Machine.execVldg d a b k t o l s
  | .vst d a b k o l => Sys2Proof.Machine.execVst d a b k o l s
  | .vsts d a b k t o l => Sys2Proof.Machine.execVsts d a b k t o l s
  | .vstx d a b k t o l => Sys2Proof.Machine.execVstx d a b k t o l s
  | .vadd d a b k t l => Sys2Proof.Machine.execVadd d a b k t l s
  | .vsub d a b k t l => Sys2Proof.Machine.execVsub d a b k t l s
  | .vmul d a b k t l => Sys2Proof.Machine.execVmul d a b k t l s
  | .vmin d a b k t l => Sys2Proof.Machine.execVmin d a b k t l s
  | .vmax d a b k t l => Sys2Proof.Machine.execVmax d a b k t l s
  | .vlogAnd d a b k l => Sys2Proof.Machine.execVlogAnd d a b k l s
  | .vlogOr d a b k l => Sys2Proof.Machine.execVlogOr d a b k l s
  | .vlogXor d a b k l => Sys2Proof.Machine.execVlogXor d a b k l s
  | .vshfSll d a b k l => Sys2Proof.Machine.execVshfSll d a b k l s
  | .vshfSrl d a b k l => Sys2Proof.Machine.execVshfSrl d a b k l s
  | .vshfSra d a b k l => Sys2Proof.Machine.execVshfSra d a b k l s
  | .vfadd d a b k t l => Sys2Proof.Machine.execVfadd d a b k t l s
  | .vfsub d a b k t l => Sys2Proof.Machine.execVfsub d a b k t l s
  | .vfmul d a b k t l => Sys2Proof.Machine.execVfmul d a b k t l s
  | .vfma d a b k t l => Sys2Proof.Machine.execVfma d a b k t l s
  | .vfmin d a b k t l => Sys2Proof.Machine.execVfmin d a b k t l s
  | .vfmax d a b k t l => Sys2Proof.Machine.execVfmax d a b k t l s
  | .vfdiv d a b k t l => Sys2Proof.Machine.execVfdiv d a b k t l s
  | .vfsqrt d a k t l => Sys2Proof.Machine.execVfsqrt d a k t l s
  | .vfsfExp2 d a k l => Sys2Proof.Machine.execVfsfExp2 d a k l s
  | .vfsfLog2 d a k l => Sys2Proof.Machine.execVfsfLog2 d a k l s
  | .vcmp p a b k t c l => Sys2Proof.Machine.execVcmp p a b k t c l s
  | .vfcmp p a b k t c l => Sys2Proof.Machine.execVfcmp p a b k t c l s
  | .vsel d a b k l => Sys2Proof.Machine.execVsel d a b k l s
  | .vcvt d a f k t c l => Sys2Proof.Machine.execVcvt d a f k t c l s
  | .vqmxQ d a k t l => Sys2Proof.Machine.execVqmxQ d a k t l s
  | .vqmxX d a k t l => Sys2Proof.Machine.execVqmxX d a k t l s
  | .vred d a k t o l => Sys2Proof.Machine.execVred d a k t o l s
  | .vscan d a k l => Sys2Proof.Machine.execVscan d a k l s
  | .vpres p a f k l => Sys2Proof.Machine.execVpres p a f k l s
  | .vfill d a f k l => Sys2Proof.Machine.execVfill d a f k l s
  | .vmka d a f k l => Sys2Proof.Machine.execVmka d a f k l s
  | .vperm d a b k l => Sys2Proof.Machine.execVperm d a b k l s
  | .vslideDn d a b k l => Sys2Proof.Machine.execVslideDn d a b k l s
  | .vslideUp d a b k l => Sys2Proof.Machine.execVslideUp d a b k l s
  | .vlen a l => Sys2Proof.Machine.execVlen a l s
  | .vbnd p a b t l => Sys2Proof.Machine.execVbnd p a b t l s
  | .vmovGv d a k l => Sys2Proof.Machine.execVmovGv d a k l s
  | .vmovVg d a b l => Sys2Proof.Machine.execVmovVg d a b l s
  | .pand d a b => Sys2Proof.Machine.execPand d a b s
  | .por d a b => Sys2Proof.Machine.execPor d a b s
  | .pxor d a b => Sys2Proof.Machine.execPxor d a b s
  | .pandn d a b => Sys2Proof.Machine.execPandn d a b s
  | .pnot d a => Sys2Proof.Machine.execPnot d a s
  | .pmov d a k => Sys2Proof.Machine.execPmov d a k s
  | .mwload h wfmt sparse k => Sys2Proof.Machine.execMwload h wfmt sparse k s
  | .mstream h afmt rows acc ovr => Sys2Proof.Machine.execMstream h afmt rows acc ovr s
  | .mdrain h row0 nrows mode ofmt dq clr daddr dstride => Sys2Proof.Machine.execMdrain h row0 nrows mode ofmt dq clr daddr dstride s
  | .mclear h row0 nrows => Sys2Proof.Machine.execMclear h row0 nrows s
  | .cpy h src dst len => Sys2Proof.Machine.execCpy h src dst len s
  | .cpy2 h src dst rowlen nrows sstr dstr ssh dsh => Sys2Proof.Machine.execCpy2 h src dst rowlen nrows sstr dstr ssh dsh s
  | .cpyf h src dst len => Sys2Proof.Machine.execCpyf h src dst len s
  | .cpyg h src dst idx esz n => Sys2Proof.Machine.execCpyg h src dst idx esz n s
  | .cpys h src dst idx esz n => Sys2Proof.Machine.execCpys h src dst idx esz n s
  | .cfill h pat dst len feop => Sys2Proof.Machine.execCfill h pat dst len feop s
  | .cpyi h data dst len feop => Sys2Proof.Machine.execCpyi h data dst len feop s
  | .chain h slots itype otype src dst const n => Sys2Proof.Machine.execChain h slots itype otype src dst const n s
  | .tred h op type dq src dst n => Sys2Proof.Machine.execTred h op type dq src dst n s
  | .tbcast h src dst len => Sys2Proof.Machine.execTbcast h src dst len s
  | .tgath h dq src dst len => Sys2Proof.Machine.execTgath h dq src dst len s
  | .tscat h src dst len => Sys2Proof.Machine.execTscat h src dst len s
  | .bmv h waddr xaddr yaddr m k wfmt acc yq ycnt => Sys2Proof.Machine.execBmv h waddr xaddr yaddr m k wfmt acc yq ycnt s
  | .bmvt h waddr xaddr yaddr m k wfmt acc yq ycnt => Sys2Proof.Machine.execBmvt h waddr xaddr yaddr m k wfmt acc yq ycnt s
  | .bread h yaddr n ycnt => Sys2Proof.Machine.execBread h yaddr n ycnt s
  | .bzero h yaddr n ycnt => Sys2Proof.Machine.execBzero h yaddr n ycnt s
  | .mark h => Sys2Proof.Machine.execMark h s
  | .cnop h => Sys2Proof.Machine.execCnop h s
  | .illegalOpcode word reserved => Sys2Proof.Machine.execIllegalOpcode word reserved s
  | .badcmd h detail => Sys2Proof.Machine.execBadcmd h detail s
  | .feWaitReissue => Sys2Proof.Machine.execFeWaitReissue s
  | .packetAdmit => Sys2Proof.Machine.execPacketAdmit s
  | .idleDeadline => Sys2Proof.Machine.execIdleDeadline s
  | .ashapeWrite => Sys2Proof.Machine.execAshapeWrite s
  | .vectorAccept => Sys2Proof.Machine.execVectorAccept s
  | .memoryResponse => Sys2Proof.Machine.execMemoryResponse s
  | .longLatencyComplete => Sys2Proof.Machine.execLongLatencyComplete s
  | .icacheFill => Sys2Proof.Machine.execIcacheFill s
  | .hostWindowTimeout => Sys2Proof.Machine.execHostWindowTimeout s
  | .stopAtPreemption => Sys2Proof.Machine.execStopAtPreemption s
  | .deferredFlagTrap => Sys2Proof.Machine.execDeferredFlagTrap s
  | .breakpoint => Sys2Proof.Machine.execBreakpoint s
  | .feedUnderflow => Sys2Proof.Machine.execFeedUnderflow s
  | .engineCompletionAdmit => Sys2Proof.Machine.execEngineCompletionAdmit s
  | .powerGood => Sys2Proof.Machine.execPowerGood s
  | .selfCalibration => Sys2Proof.Machine.execSelfCalibration s
  | .memoryInitialisation => Sys2Proof.Machine.execMemoryInitialisation s
  | .inFieldTileTest => Sys2Proof.Machine.execInFieldTileTest s
  | .poolFormation => Sys2Proof.Machine.execPoolFormation s
  | .supplyFail => Sys2Proof.Machine.execSupplyFail s
  | .coolantFault => Sys2Proof.Machine.execCoolantFault s
  | .coolantRecover => Sys2Proof.Machine.execCoolantRecover s
  | .port0Reset => Sys2Proof.Machine.execPort0Reset s
  | .portHotReset => Sys2Proof.Machine.execPortHotReset s
  | .tenantReset => Sys2Proof.Machine.execTenantReset s
  | .laneFail => Sys2Proof.Machine.execLaneFail s
  | .flitReceive => Sys2Proof.Machine.execFlitReceive s
  | .peerLost => Sys2Proof.Machine.execPeerLost s
  | .arm => Sys2Proof.Machine.execArm s
  | .armAck => Sys2Proof.Machine.execArmAck s
  | .armNak => Sys2Proof.Machine.execArmNak s
  | .go => Sys2Proof.Machine.execGo s
  | .cancel => Sys2Proof.Machine.execCancel s
  | .armTimeout => Sys2Proof.Machine.execArmTimeout s
  | .thermalEmergency => Sys2Proof.Machine.execThermalEmergency s
  | .thermalRelease => Sys2Proof.Machine.execThermalRelease s
  | .ricRaise => Sys2Proof.Machine.execRicRaise s
  | .ricLower => Sys2Proof.Machine.execRicLower s
  | .ballast => Sys2Proof.Machine.execBallast s
  | .powerStateEntry => Sys2Proof.Machine.execPowerStateEntry s
  | .wakeEvent => Sys2Proof.Machine.execWakeEvent s
  | .staticEnergyTick => Sys2Proof.Machine.execStaticEnergyTick s
  | .patrolScrub => Sys2Proof.Machine.execPatrolScrub s
  | .hotListScrub => Sys2Proof.Machine.execHotListScrub s
  | .hotListExpiry => Sys2Proof.Machine.execHotListExpiry s
  | .lastingTileFault => Sys2Proof.Machine.execLastingTileFault s
  | .recoveryComplete => Sys2Proof.Machine.execRecoveryComplete s
  | .notifyWrite => Sys2Proof.Machine.execNotifyWrite s
  | .recordRefetch => Sys2Proof.Machine.execRecordRefetch s
  | .sealTimeout => Sys2Proof.Machine.execSealTimeout s
  | .queueEnable => Sys2Proof.Machine.execQueueEnable s
  | .queueDisable => Sys2Proof.Machine.execQueueDisable s
  | .rangeEntryWrite => Sys2Proof.Machine.execRangeEntryWrite s
  | .rangeEntryInvalidate => Sys2Proof.Machine.execRangeEntryInvalidate s
  | .schedParamWrite => Sys2Proof.Machine.execSchedParamWrite s
  | .registerWrite => Sys2Proof.Machine.execRegisterWrite s
  | .faultRecordWrite => Sys2Proof.Machine.execFaultRecordWrite s
  | .readDefectMap => Sys2Proof.Machine.execReadDefectMap s
  | .attestation => Sys2Proof.Machine.execAttestation s
  | .setPowerCap => Sys2Proof.Machine.execSetPowerCap s
  | .readLinkStatus => Sys2Proof.Machine.execReadLinkStatus s
  | .readFirmwareVersions => Sys2Proof.Machine.execReadFirmwareVersions s
  | .writeFirmwareSlot => Sys2Proof.Machine.execWriteFirmwareSlot s
  | .launch => Sys2Proof.Machine.execLaunch s
  | .copy => Sys2Proof.Machine.execCopy s
  | .copyPublish => Sys2Proof.Machine.execCopyPublish s
  | .signal => Sys2Proof.Machine.execSignal s
  | .wait => Sys2Proof.Machine.execWait s
  | .waitPoll => Sys2Proof.Machine.execWaitPoll s
  | .save => Sys2Proof.Machine.execSave s
  | .restore => Sys2Proof.Machine.execRestore s
  | .setlat => Sys2Proof.Machine.execSetlat s
  | .tenant => Sys2Proof.Machine.execTenant s
  | .dbgRetry => Sys2Proof.Machine.execDbgRetry s
  | .dbgEnd => Sys2Proof.Machine.execDbgEnd s
  | .dbgHalt => Sys2Proof.Machine.execDbgHalt s
  | .dbgResume => Sys2Proof.Machine.execDbgResume s
  | .dbgStepi => Sys2Proof.Machine.execDbgStepi s
  | .dbgHaltall => Sys2Proof.Machine.execDbgHaltall s
  | .dbgResumeall => Sys2Proof.Machine.execDbgResumeall s
  | .dbgRdreg => Sys2Proof.Machine.execDbgRdreg s
  | .dbgWrreg => Sys2Proof.Machine.execDbgWrreg s
  | .dbgRdmem => Sys2Proof.Machine.execDbgRdmem s
  | .dbgWrmem => Sys2Proof.Machine.execDbgWrmem s
  | .dbgSetbp => Sys2Proof.Machine.execDbgSetbp s
  | .dbgClrbp => Sys2Proof.Machine.execDbgClrbp s
  | .dbgProfon => Sys2Proof.Machine.execDbgProfon s
  | .dbgProfoff => Sys2Proof.Machine.execDbgProfoff s
  | .dbgProfflush => Sys2Proof.Machine.execDbgProfflush s
  | .dbgRdengy => Sys2Proof.Machine.execDbgRdengy s
  | .turnBoundary => Sys2Proof.Machine.execTurnBoundary s
  | .moveComplete => Sys2Proof.Machine.execMoveComplete s
  | .idleSwap => Sys2Proof.Machine.execIdleSwap s
  | .swapOut => Sys2Proof.Machine.execSwapOut s
  | .swapOutComplete => Sys2Proof.Machine.execSwapOutComplete s
  | .gangPlace => Sys2Proof.Machine.execGangPlace s
  | .gangLoaded => Sys2Proof.Machine.execGangLoaded s
  | .parkedDelivery => Sys2Proof.Machine.execParkedDelivery s
  | .stepMark => Sys2Proof.Machine.execStepMark s
  | .watchdog => Sys2Proof.Machine.execWatchdog s
  | .badrec => Sys2Proof.Machine.execBadrec s
  | .unknownRequest => Sys2Proof.Machine.execUnknownRequest s
  | .portBackUp => Sys2Proof.Machine.execPortBackUp s
  | .linkTraining => Sys2Proof.Machine.execLinkTraining s
  | .remoteStop => Sys2Proof.Machine.execRemoteStop s
  | .stopConfirm => Sys2Proof.Machine.execStopConfirm s
  | .restoredPartDiscard => Sys2Proof.Machine.execRestoredPartDiscard s
  | .minresExpiry => Sys2Proof.Machine.execMinresExpiry s

end Sys2Proof.Machine
end

