-- ==== Sys2Proof/Machine/Schedule.lean ====
section
/-! DEFINITION. What a step does (log 1): an event from outside whose time has come, a deadline of the part, something its engines, its
scheduler or its command processor can do now, or the slot of a strand. The free values of the configuration choose between a slot
and the machinery, and among what the machinery can do. -/

namespace Sys2Proof.Machine

/-- An event and the values it is applied to. -/
abbrev Event := Instr × Input

/-- A command of an engine, which acts in the context the step looks at. -/
def isCommand (i : Instr) : Bool :=
  match i with
  | .mwload _ _ _ _ | .mstream _ _ _ _ _ | .mdrain _ _ _ _ _ _ _ _ _ | .mclear _ _ _ | .cpy _ _ _ _ | .cpy2 _ _ _ _ _ _ _ _ _ | .cpyf _ _ _ _
  | .cpyg _ _ _ _ _ _ | .cpys _ _ _ _ _ _ | .cfill _ _ _ _ _ | .cpyi _ _ _ _ _ | .chain _ _ _ _ _ _ _ _ | .tred _ _ _ _ _ _ _ | .tbcast _ _ _ _
  | .tgath _ _ _ _ _ | .tscat _ _ _ _ | .bmv _ _ _ _ _ _ _ _ _ _ | .bmvt _ _ _ _ _ _ _ _ _ _ | .bread _ _ _ _ | .bzero _ _ _ _
  | .mark _ | .cnop _ | .badcmd _ _ => true
  | _ => false

/-- An event where a test holds. -/
def whenever (b : Bool) (i : Instr) (x : Input) : List Event := if b then [(i, x)] else []

/-! ### Bring-up (R39, R42) -/

def State.bootEvents (s : State) : List Event :=
  if s.bootStopped then []
  else match s.boot with
    | 0 => [(.powerGood, {})]
    | 1 => [(.selfCalibration, {})]
    | 2 => [(.memoryInitialisation, {})]
    | 3 => [(.inFieldTileTest, {})]
    | 4 => [(.poolFormation, {})]
    | _ => []

/-! ### Strands and engines of a context -/

/-- What can happen to a strand (R57, R149–R151, R164, R325). -/
def State.strandEvents (s : State) (key : Nat) : List Event :=
  let st := s.strand key
  let c := ctxOf key
  let x : Input := { key := key, ctx := c }
  ((List.range st.out.length).map (fun i =>
    match st.out[i]? with
    | some o => whenever (o.due s.cycle && !o.pending.any (fun a => s.lockedFor key a.loc a.op.bytes)) (if o.isLong then .longLatencyComplete else .memoryResponse) { x with idx := i }
    | none => [])).flatten
  ++ whenever (st.wait == .timed && decide (st.readyAt ≤ s.cycle) && st.state == .memwait) .memoryResponse { x with idx := st.out.length }
  ++ whenever (st.wait == .timed && decide (st.readyAt ≤ s.cycle) && st.state == .engwait) .longLatencyComplete { x with idx := st.out.length }
  ++ whenever (st.wait == .refused && decide (st.readyAt ≤ s.cycle)) .feWaitReissue x
  ++ (match st.wait with
      | .idle t => whenever (decide (t.toNat ≤ s.time)) .idleDeadline x
      | .ashape _ _ => whenever (s.ctx c).matrixIdle .ashapeWrite x
      | .icache _ => whenever (decide (st.readyAt ≤ s.cycle)) .icacheFill x
      | .hostPort _ t => whenever (decide (t + hostPatience ≤ s.cycle)) .hostWindowTimeout x
      | _ => [])
  ++ (match st.cut with
      | .idle t => whenever (decide (t.toNat ≤ s.time) && s.inGang c .swapped) .idleDeadline x
      | _ => [])

/-- A command that an engine has started may go on (R210, R219, R221): where the engines of its context are to stop, a bank command, a truss
operation in progress, writes in flight, and the rest of a row that is drained to memory. -/
def State.mayRun (s : State) (c : Nat) (r : Running) : Bool :=
  if r.queue = 8 then !s.inGang c .recovering
  else if !s.engStop c then true
  else (s.inGang c .resident || s.inGang c .stopping) && (r.queue == 6 || !r.late.isEmpty || (r.queue == 0 && !r.rows.isEmpty && r.waitSince.isNone &&
    (match s.entryInstr c 0 r.entry with | .mdrain _ _ _ _ _ dq _ _ _ => dq == 1#1 | _ => false)))

/-- The commands of a context that its engines may work on (R161–R163, R219, R221): heads of queues, and running commands. -/
def State.commandEvents (s : State) (c : Nat) : List Event :=
  (if s.engStop c then [] else [0, 4, 5, 6, 8].filterMap (fun q =>
    (s.headInstr c q).bind (fun p => if ((s.ctx c).findRun (p.1.hdr q)).isSome then none else some (p.2, { ctx := c }))))
  ++ ((s.ctx c).running.filter (s.mayRun c)).map (fun r => (s.entryInstr c r.queue r.entry, { ctx := c }))

/-- What else can happen in a hosted context (R156, R167, R169). -/
def State.contextEvents (s : State) (c : Nat) : List Event :=
  let x := s.ctx c
  (List.range 8).flatMap (fun k => match x.admissible k s.cycle with
      | some _ => [(.packetAdmit, { ctx := c, cls := k })]
      | none => [])
  ++ whenever (x.running.any (fun r => r.starved s.cycle) && s.ctxBlocked c) .feedUnderflow { ctx := c }
  ++ whenever (x.vq.any (fun t => decide (t ≤ s.cycle))) .vectorAccept { ctx := c }

/-- Everything that can happen in the contexts. -/
def State.tileEvents (s : State) : List Event :=
  (tableKeys s.ctxs).flatMap (fun c => s.commandEvents c ++ (if s.hosted c then s.contextEvents c else []))
  ++ (tableKeys s.strands).flatMap s.strandEvents

/-! ### The scheduler and the rotation controller -/

/-- What can happen to a gang (R112, R115, R116, R118, R124, R139). -/
def State.gangEvents (s : State) (id : Nat × Nat) : List Event :=
  let g := s.gangAt id
  let x : Input := { handle := id.1, gang := id.2 }
  match g.state with
  | .loading => [(.gangLoaded, x)]
  | .stopping =>
    whenever (g.reason != .save && s.gangStopped id.1 id.2 && (decide (s.areaUsed ≤ s.areaBytes) || !(s.members id.1 id.2).any (fun c => ((s.job id.1).entry (vtidOf c)).res)))
      (if (s.members id.1 id.2).any (fun c => ((s.job id.1).entry (vtidOf c)).res) then .swapOut else .swapOutComplete) x
  | .resident =>
    let victim := (List.range 16).any (fun t => (s.victims t false).contains id)
    whenever victim (if s.overIdle g then .idleSwap else .swapOut) x
    ++ whenever (s.overMinres g && !g.pastMinres) .minresExpiry x
    ++ whenever (if g.park.isEmpty then (s.members id.1 id.2).any (fun c => ((s.job id.1).entry (vtidOf c)).drain)
        else (s.nextParked [] g.park).isSome) .parkedDelivery x
    ++ whenever (s.markReady id.1 id.2) .stepMark x
  | .swapped => whenever (s.markReady id.1 id.2) .stepMark x
  | _ => []

/-- What can happen to a job (R126, R142, R145). -/
def State.jobEvents (s : State) (h : Nat) : List Event :=
  let j := s.job h
  let x : Input := { handle := h }
  let w := s.sched.eff.wdog.toNat
  whenever (j.phase == .live && j.rollOwed == 0#64 && !(s.recovering h).isEmpty) .recoveryComplete x
  ++ whenever (j.phase == .live && w != 0 && !s.watchPaused h && decide (j.progress + ticksOf (1000000 * w) ≤ s.ticks)) .watchdog x
  ++ j.savers.flatMap (fun p => whenever (s.stoppedForSave h || (List.range j.gangCount).any (fun n => (s.gang h n).state == .resident)) .remoteStop
      { peer := p, handle := s.jobName h })

/-- What the scheduler can do. -/
def State.schedEvents (s : State) : List Event :=
  whenever (s.jobs.any (fun p => p.2.phase == .live && p.2.g == 0) || (s.awake && s.nextPlace.isSome)) .gangPlace {}
  ++ s.allGangs.flatMap s.gangEvents
  ++ (tableKeys s.jobs).flatMap s.jobEvents
  ++ (s.moves.filter (fun m => s.moveVoid m || s.moveReady m)).map (fun m => (.moveComplete, { ctx := m.ctx }))

/-! ### The command processor -/

/-- A started record that is looked at again: everything but a LAUNCH. -/
def HostRecord.pollEvent (r : HostRecord) : Option Instr :=
  match decodeRecord r.bytes with
  | .launch => none
  | .wait => some .waitPoll
  | i => some i

/-- What can happen to the records of a queue (R87, R90, R94). -/
def State.recordEvents (s : State) (q : Nat) : List Event :=
  let b := s.queue q
  let at' := fun (r : HostRecord) => ({ queue := q, seq := r.seq.toNat, idx := r.epoch, record := r.bytes } : Input)
  whenever (s.fetches q && decide (b.fetchAt ≤ s.ticks)) .recordRefetch { queue := q }
  ++ (match b.badSince with
      | some t => whenever (b.en && decide (t + ticksOf 10000000 ≤ s.ticks)) .sealTimeout { queue := q }
      | none => [])
  ++ (if !s.status.ready then [] else
      b.records.filterMap (fun r =>
        if r.started then (if s.ticks < r.nextAt then none else r.pollEvent.map (fun i => (i, at' r)))
        else if mayStart (b.records.takeWhile (fun y => y != r)) r then some (decodeRecord r.bytes, at' r)
        else none))

/-- What the command processor and the fault rings can do (R87, R222). -/
def State.hostEvents (s : State) : List Event :=
  (tableKeys s.hq).flatMap s.recordEvents
  ++ s.fault.flatMap (fun p => whenever (!p.2.waiting.isEmpty && p.2.en && p.2.room) .faultRecordWrite { tenant := p.1 })

/-! ### Power, peers and memory -/

/-- Power states and temperatures (R47, R49, R53). -/
def State.partEvents (s : State) : List Event :=
  whenever (s.status.ready && decide (s.status.pstate.toNat < s.deepest)) .powerStateEntry {}
  ++ whenever (s.status.pstate != 0#3 && !s.partIdle) .wakeEvent {}
  ++ s.tiles.flatMap (fun p =>
      whenever (decide (105 ≤ p.2.temp) && !p.2.emergency) .thermalEmergency { ptid := p.1 }
      ++ whenever (decide (p.2.temp < 95) && p.2.emergency) .thermalRelease { ptid := p.1 })

/-- The mailbox request in progress is answered (R40). -/
def State.mailEvents (s : State) : List Event :=
  match s.laroon.mailbox.busy with
  | none => []
  | some r =>
    let i : Instr := match r.code with
      | 1 => .readDefectMap
      | 2 => .attestation
      | 3 => .setPowerCap
      | 4 => .readLinkStatus
      | 5 => .readFirmwareVersions
      | 6 => .writeFirmwareSlot
      | _ => .unknownRequest
    [(i, { idx := 1 })]

/-- Everything the part's machinery can do now. -/
def State.enabled (s : State) : List Event :=
  if s.boot < 5 then s.bootEvents ++ s.mailEvents
  else s.tileEvents ++ s.schedEvents ++ s.hostEvents ++ s.partEvents ++ s.mailEvents

/-! ### Deadlines -/

/-- The time a swap-out or a load takes (R116). -/
def State.swapTicks (s : State) (h : Nat) : Nat := ticksOf (recExtent (s.job h).record / 1200 + 4000)

/-- What a gang must do now (R116, R125). -/
def State.gangDue (s : State) (id : Nat × Nat) : Option Event :=
  let g := s.gangAt id
  let x : Input := { handle := id.1, gang := id.2 }
  let done := decide (g.since + s.swapTicks id.1 ≤ s.ticks)
  match g.state with
  | .loading => if done then some (.gangLoaded, x) else none
  | .resident => if s.mustCool id.1 id.2 then some (.swapOut, x) else none
  | .stopping =>
    if g.reason == .save || !s.gangStopped id.1 id.2 then none
    else if (s.members id.1 id.2).any (fun c => ((s.job id.1).entry (vtidOf c)).res) then (if s.areaUsed ≤ s.areaBytes then some (.swapOut, x) else none)
    else if done then some (.swapOutComplete, x)
    else none
  | _ => none

/-- The scheduler's own deadlines (R123–R125): tiles that a waiting gang may have are granted, and victims of the moment leave. -/
def State.schedDue (s : State) : Option Event :=
  if s.awake && s.nextPlace.isSome then some (.gangPlace, {})
  else match ((List.range 16).flatMap (fun t => s.victims t false)) with
    | v :: _ => some (.swapOut, { handle := v.1, gang := v.2 })
    | [] => s.allGangs.findSome? s.gangDue

/-- A strand waits in IDLE past its deadline, in a gang that is resident or swapped (R49, R122, R325). -/
def State.idleDue (s : State) : Option Nat :=
  (s.strands.find? (fun p => match p.2.wait, p.2.cut with
    | .idle t, _ => p.2.state == .msgwait && s.hosted (ctxOf p.1) && decide (t.toNat ≤ s.time)
    | _, .idle t => s.inGang (ctxOf p.1) .swapped && decide (t.toNat ≤ s.time)
    | _, _ => false)).map (·.1)

/-- Deadlines of power control (R47, R49, R50, R53). -/
def State.powerDue (s : State) : Option Event :=
  if s.status.pstate != 0#3 && (!s.partIdle || s.idleDue.isSome || s.nextPlace.isSome) then some (.wakeEvent, {})
  else match s.tiles.find? (fun p => decide (105 ≤ p.2.temp) && !p.2.emergency) with
    | some p => some (.thermalEmergency, { ptid := p.1 })
    | none =>
      if s.tiles.any (fun p => s.risesNow p.2 && decide (p.2.ric.toNat < 16)) then some (.ricRaise, {})
      else if s.tiles.any (fun p => s.fallsNow p.2 && decide (1 < p.2.ric.toNat)) then some (.ricLower, {})
      else if decide (s.status.pstate.toNat < s.deepest) && (s.deepest != 4 || s.noneResident || s.allGangs.any (fun id => (s.gangAt id).state == .resident))
        then some (.powerStateEntry, {})
      else none

/-- What a job must do 50 µs after ARM, or after the loss of its coordinator (R102, R145). -/
def State.jobDue (s : State) (h : Nat) (j : Job) : Option Event :=
  if j.armAt + ticksOf 50000 ≤ s.ticks then
    if j.awaits then some (.armTimeout, { handle := h })
    else match j.origin with
      | .remote p => if j.phase ≠ .ended ∧ j.restored ∧ (s.peer p).lost then some (.restoredPartDiscard, { peer := p, handle := j.remote }) else none
      | _ => none
  else none

/-- Deadlines of jobs, contexts, peers and hot lists: a start that has not been acknowledged in time is given up (R102, R145), a completion that fits enters the inbox (R158), a peer that has been silent for 200 µs is lost (R38),
a row without errors leaves the hot list (R77). -/
def State.partDue (s : State) : Option Event :=
  match s.ctxs.findSome? (fun p => if s.hosted p.1 then (p.2.nextCompletion s.cycle).map (fun x => (p.1, x.queue)) else none) with
  | some (c, q) => some (.engineCompletionAdmit, { ctx := c, cls := q })
  | none =>
    match s.peers.find? (fun p => p.2.routed && !p.2.lost && decide (p.2.lastFlit + ticksOf 200000 ≤ s.ticks)) with
    | some p => some (.peerLost, { peer := p.1 })
    | none => (s.jobs.findSome? (fun p => s.jobDue p.1 p.2)).orElse (fun _ => (s.stackTab.find? (fun p => p.2.hot.any (fun r => s.score p.2 r == 0))).map (fun p => (.hotListExpiry, { stack := p.1 })))

/-- What the part does at once when its time has come (R38, R44, R49, R50, R77, R123–R125, R131, R158, R247). -/
def State.deadline (s : State) : Option Event :=
  if !s.status.ready then none
  else if s.sched.lastTurn + s.turnCycles ≤ s.cycle then some (.turnBoundary, {})
  else if s.power.charged < s.time / 1000 then some (.staticEnergyTick, {})
  else match (tableKeys s.hq).find? (fun q => (s.queue q).latched) with
    | some q => some (.recordRefetch, { queue := q })
    | none =>
      match s.partDue.orElse (fun _ => s.powerDue) with
      | some e => some e
      | none =>
        match s.idleDue with
        | some k => if s.status.pstate = 0#3 then some (.idleDeadline, { key := k, ctx := ctxOf k }) else s.schedDue
        | none => s.schedDue

/-! ### The turn of a step -/

/-- What a step does: nothing at all, an event, or the slot of the strand it looks at. -/
inductive Act where
  | stops
  | event (i : Instr) (x : Input)
  | slot
deriving DecidableEq, Repr

/-- The event from outside whose time has come, and those after it. -/
def State.outside (s : State) : Option (Event × List (Nat × Instr × Input)) :=
  match s.agenda with
  | [] => none
  | (t, i, x) :: r => if t ≤ s.cycle ∨ s.powerLost then some ((i, x), r) else none

/-- The machinery's choice; a single possibility is taken. -/
def State.choice (s : State) (es : List Event) : Option Event :=
  match es with
  | [] => none
  | [e] => some e
  | e :: _ => some ((es[(Config.schedule s.free + s.free / 2) % es.length]?).getD e)

/-- What the step does. -/
def State.act (s : State) : Act :=
  match s.outside with
  | some (e, _) => .event e.1 e.2
  | none =>
    if s.powerLost then .stops
    else match s.deadline with
      | some e => .event e.1 e.2
      | none =>
        if s.phase = .slot then .slot
        else match s.choice s.enabled with
          | some e => .event e.1 e.2
          | none => .slot

/-- The state an event is applied to. -/
def State.ready (s : State) (i : Instr) (x : Input) : State :=
  { s with
    input := x
    focus := if isCommand i then x.ctx else s.focus
    agenda := match s.outside with | some (_, r) => r | none => s.agenda }

/-- The free value that says whether the machinery or a slot comes next. -/
def State.choosePhase (s : State) : State :=
  { s with phase := if (Config.schedule s.free + s.free) % 2 = 0 then .machinery else .slot, free := s.free + 1 }

/-- After an event: the context looked at before it is looked at again. -/
def State.afterEvent (old : State) (s : State) : State := ({ s with input := {}, focus := old.focus }).choosePhase

/-- Writes of the host whose time has come are performed, in the order in which it posted them; one with relaxed ordering may pass those before
it (R31, R86). -/
def State.inbound (s : State) : State :=
  match s.env.writes with
  | [] => s
  | ws =>
    let r := ws.foldl (fun (acc : State × List HostWrite) w =>
      if w.since ≤ s.cycle ∧ (w.relaxed ∨ acc.2 = []) then (acc.1.engPut w.loc w.bytes 0 hostWriter, acc.2) else (acc.1, acc.2 ++ [w])) (s, [])
    { r.1 with env := { r.1.env with writes := r.2 } }

/-- The clock goes on: the shares of tenants are booked (R128), the host's writes arrive; while the watchdog of a job does not count, its interval
is put off (R126); idleness is noted (R46). -/
def State.clock (s : State) : State :=
  let s1 := s.nextSlot
  if s1.cycle = s.cycle then s1
  else
    let s2 := (s1.bookShares (s1.ticks - s.ticks)).inbound
    (s2.liveJobs.foldl (fun x h => if x.watchPaused h then x.modJob h (fun j => { j with progress := j.progress + 10 }) else x) s2).noteIdle

/-- The wait of a matrix command at an empty feed counts only while every live strand of its context is blocked (R167). -/
def State.noteFeeds (s : State) (old : State) (c : Nat) : State :=
  if (s.ctx c).running.any (fun r => r.feeds && r.waitSince.isSome) && !(old.ctxBlocked c && s.ctxBlocked c) then
    s.modCtx c (fun x => { x with running := x.running.map (fun r => if r.feeds then { r with waitSince := none } else r) })
  else s

/-- After a slot of the context and strand of the state before: its accounts, blocked gangs and feeds, and the next slot. -/
def State.afterSlot (old : State) (i : Option Instr) (s : State) : State :=
  let s1 := s.account old.cur old.me.pc i
  let s2 := if (s1.job (jobOf old.focus)).phase = .live then
      (s1.noteBlocked (jobOf old.focus) (s1.gangNo old.focus) (!old.fullyBlocked (jobOf old.focus) (old.gangNo old.focus))).noteFeeds old old.focus
    else s1
  ({ s2 with input := {} }).clock.choosePhase

end Sys2Proof.Machine
end

