-- ==== Sys2Proof/Machine/Place.lean ====
section
/-! DEFINITION. A state in which the next step runs a given instruction: a job of one context stands loaded from outside, with the code
object published, mapped and cached, and its strand 0 about to fetch (log 2). It stands for bring-up, the driver's tables, a PUBLISH
and a LAUNCH. -/

namespace Sys2Proof.Machine

/-- The launch record of the placed job (R98): version 1, entry at the placed PC, 1 × 1 tiles, strand 0, a fan-out of 2, an extent of
64 KiB. -/
def placedRecord : BitVec 1024 := BitVec.ofNat 1024 (256 + 0x40 * 2 ^ 128 + 2 ^ 160 + 2 * 2 ^ 232 + 65536 * 2 ^ 256)

/-- The published object: at address 0 of global space, of one line, its code from byte 0x40 on (R302, R303). -/
def placedObject : Published := { tenant := 0, base := 0, length := 256, codesz := 192, major := 1, minor := 0, digest := 0 }

/-- The PC of the placed instruction. -/
def placedPc : Word := 0x8000000000000040#64

/-- A leaf of level 1 that maps the first 8 GiB of global space to rim physical 2^33 with RD, EX and US (R188). -/
def placedLeaf : Nat := 2 ^ 45 + 0x37

/-- Put bytes at a rim physical address that does not cross a granule. -/
def State.putRim (s : State) (pa n v : Nat) : State :=
  match s.rimKey pa with
  | some k => s.putNat (.rim k false) n v
  | none => s

/-- The context of the placed job. -/
def placedCtx : Nat := ctxKey 1 0

/-- The part after bring-up with the placed job resident on tile 0, its strand 0 ready at the placed PC. -/
def State.placeJob (s : State) : State :=
  let now := s.cycle / 16 * 16
  let s1 : State := { s with
    cycle := now
    boot := 5
    bootStopped := false
    status := { s.status with ready := true, pstate := 0#3 }
    range := tableSet {} s.range 0 readyRange
    tenants := tableSet {} s.tenants 0 {}
    published := [placedObject]
    sched := { s.sched with lastTurn := now }
    power := { s.power with charged := s.time / 1000, awakeAt := 0, idleSince := none }
    powerLost := false
    agenda := []
    input := {}
    phase := .slot
    focus := placedCtx }
  let gang : Gang := { state := .resident, residentAt := s.ticks }
  let job : Job := { phase := .live, record := placedRecord, g := 1, xlt := [(0, { res := true })], gangs := [(0, gang)], progress := s.ticks }
  ((s1.setJob 1 job).setCtx placedCtx { live := true }).setStrand (strandKey placedCtx 0) { state := .ready, pc := placedPc }

/-- An instruction of 32 bits stands in memory at the placed PC and in the instruction cache of tile 0. -/
def State.placeWord (s : State) (w : Nat) : State :=
  let s1 := ((s.placeJob).putRim 0 8 placedLeaf).putRim (2 ^ 33 + 0x40) 4 (w % 2 ^ 32)
  s1.setTile 0 { icache := [⟨0, 0, BitVec.ofNat 2048 (w % 2 ^ 32 * 2 ^ 512), false, 0⟩], usedBy := some placedCtx }

/-- A command stands at the head of the queue its opcode belongs to, and the machinery acts next. -/
def State.placeCommand (s : State) (w : Nat) : State :=
  let c := BitVec.ofNat 256 w
  let q := match copHome (natAt 0 8 c) with | some (some n) => n | _ => 0
  let s1 := (s.placeJob).setTile 0 { usedBy := some placedCtx }
  let s2 := s1.modCtx placedCtx (fun x => x.setCmds q [{ word := c, guard := none, issuer := 0#4, seq := 0 }])
  { s2 with phase := .machinery }

/-- The instruction whose `nbits` bits are `w`. -/
def State.placed (s : State) (nbits w : Nat) : State := if nbits ≤ 32 then s.placeWord w else s.placeCommand w

end Sys2Proof.Machine
end

