-- ==== Sys2Proof/Machine/Step.lean ====
section
/-! DEFINITION. One step of the part. -/

namespace Sys2Proof.Machine

/-- What an outcome leaves, with its next state as `f` makes it. -/
def andThen (o : Host.Outcome State Fault Refusal) (f : State → State) : Host.Outcome State Fault Refusal :=
  match o with
  | .next s => .next (f s)
  | .fault r => .fault r
  | .refused r => .refused r

/-- The slot of the strand the step looks at: nothing issues, something happens at the boundary, or an instruction issues. -/
def slotStep (s : State) : Host.Outcome State Fault Refusal :=
  match s.slot with
  | .vacant t => .next (State.afterSlot s none t)
  | .boundary t i => andThen (exec i t) (State.afterSlot s none)
  | .issues t i => andThen (exec i t) (State.afterSlot s (some i))

/-- One step: an event or a slot; after a supply failure the part does nothing (R23). -/
def step (s : State) : Host.Outcome State Fault Refusal :=
  match s.act with
  | .stops => .fault .powerLost
  | .event i x => andThen (exec i (s.ready i x)) (State.afterEvent s)
  | .slot => slotStep s

/-- A state whose very next step runs the instruction whose bits are `w` (log 2). -/
def State.withFetchWord (s : State) (nbits w : Nat) : State := s.placed nbits w

end Sys2Proof.Machine
end

