-- ==== Sys2Proof/Safety.lean ====
section
/-! DEFINITION. What the claims mean by a good state and a good run, and the words in which they say what a step leaves unchanged: memory in
its canonical form, READY only after bring-up, a run that goes on, and the frames of a strand and of the part. -/

namespace Sys2Proof.Machine

/-! ### Good states and runs -/

/-- The canonical form of a memory: addresses strictly rising, no listed byte equal to what an unlisted address reads as. -/
def Memory.wf (m : Table Byte) : Bool := tableWf 0#8 m

/-- The memories of the part are in their canonical form: rim, host and peer bytes, and the full/empty bits of the rim. -/
def State.memWf (s : State) : Bool := Memory.wf s.rim && tableWf true s.rimfe && Memory.wf s.hostMem && Memory.wf s.peerMem

/-- READY is set only after bring-up step 5 (R42) and never after a supply failure (R23). -/
def State.readyOk (s : State) : Bool := !s.status.ready || (s.boot == 5 && !s.powerLost)

/-- The part takes a step. -/
def State.goesOn (s : State) : Prop := ∃ t, step s = .next t

/-- `k` steps lead from one state to another. -/
def State.reaches (k : Nat) (s t : State) : Prop := Host.Core.run Sys2Proof.core k s = .next t

/-! ### Names of bytes -/

/-- The cell a byte is kept in, and the cell of a full/empty bit: different cells hold different bytes. The cells of host and peer bytes
are apart for every port, every peer and every physical address (R20, R103, R104). -/
def Loc.cell (l : Loc) : Nat × Nat × Nat :=
  match l with
  | .spm c o => (0, c, o)
  | .rim a _ => (1, 0, a)
  | .host p a => (2, 0, farKey p a)
  | .peer p a => (3, 0, farKey p a)

def Loc.bitCell (l : Loc) : Nat × Nat × Nat :=
  match l with
  | .spm c o => (4, c, o / 8)
  | .rim a _ => (5, 0, a / 8)
  | .host _ _ => (6, 0, 0)
  | .peer p a => (3, 0, farKey (p + 64) (a / 8))

/-- A cell lies outside the `n` bytes from a place up. -/
def Loc.outside (l : Loc) (n : Nat) (x : Nat × Nat × Nat) : Prop := ∀ i, i < n → x ≠ (l.plus i).cell

/-! ### What an instruction leaves unchanged -/

/-- A strand without its run state, PC, outstanding operations, general, vector and predicate registers, loop registers, FFLAGS and what its
acquires have put before it: the special registers, the trap registers, the joint, the open packet and whatever else it holds. -/
def Strand.special (st : Strand) : Strand :=
  { st with state := .ready, wait := .none, readyAt := 0, pc := 0#64, g := [], v := [], k := [], loops := {}, lstat := 0#2, haltReq := false,
            skipBp := false, out := [], fflags := 0#6, view := [], grant := [] }

/-- From strand `a` to strand `b` at most the named registers have changed, among all but what `special` leaves out. -/
def Strand.frame (a b : Strand) (gs : List (BitVec 5)) (vs : List (BitVec 4)) (ks : List (BitVec 3)) : Prop :=
  b.special = a.special ∧ (∀ r, r ∉ gs → b.rg r = a.rg r) ∧ (∀ r, r ∉ vs → b.rv r = a.rv r) ∧ (∀ r, r ∉ ks → b.rk r = a.rk r)

/-- The PC goes on to the next instruction, with the loop redirect of R316. -/
def Strand.movesOn (a b : Strand) : Prop := b.pc = a.advance.pc ∧ b.loops = a.advance.loops ∧ b.lstat = a.advance.lstat

/-- The PC is set and the loop registers are as before. -/
def Strand.movesTo (a b : Strand) (pc : Word) : Prop := b.pc = pc ∧ b.loops = a.loops ∧ b.lstat = a.lstat

/-- The executing strand in a later state. -/
def State.then (s t : State) : Strand := t.strand s.cur

/-- Every byte and every full/empty bit reads as before. -/
def State.sameBytes (s t : State) : Prop := ∀ l, t.byteAt l = s.byteAt l ∧ t.fullAt l = s.fullAt l

/-- Every other strand is as before. -/
def State.sameStrands (s t : State) : Prop := ∀ k, k ≠ s.cur → t.strand k = s.strand k

/-- Every job is as before but for the time of its progress (R126). -/
def State.sameJobs (s t : State) : Prop := ∀ h, t.job h = { s.job h with progress := (t.job h).progress }

/-- Jobs, gangs and tiles are as before but for progress, accumulated energy and translation caches (R109, R126, R190, R248). -/
def State.charged (s t : State) : Prop :=
  (∀ h, { t.job h with progress := 0, gangs := [] } = { s.job h with progress := 0, gangs := [] })
    ∧ (∀ h n, { t.gang h n with energy := 0, sat := false } = { s.gang h n with energy := 0, sat := false })
    ∧ (∀ p, { t.tile p with pj := 0, tlb := {}, vtids := [] } = { s.tile p with pj := 0, tlb := {}, vtids := [] })

/-- Nothing but the executing strand and the time of its job's progress has changed, anywhere in the part. -/
def State.onlyStrand (s t : State) : Prop :=
  t = { s with strands := t.strands, jobs := t.jobs } ∧ s.sameStrands t ∧ s.sameJobs t ∧ s.sameBytes t

/-- As `onlyStrand`, with a change of the strand's context. -/
def State.onlyContext (s t : State) (f : Ctx → Ctx) : Prop :=
  t = { s with strands := t.strands, jobs := t.jobs, ctxs := t.ctxs } ∧ s.sameStrands t ∧ s.sameJobs t
    ∧ (∀ c, t.ctx c = if c = ctxOf s.cur then f (s.ctx c) else s.ctx c)

/-- As `onlyStrand`, for an instruction that is charged for memory traffic: translation caches, accumulated energy and what is known of bank
units' results its strand has seen (R74) may change as well, and nothing else. -/
def State.onlyAccess (s t : State) : Prop :=
  t = { s with strands := t.strands, jobs := t.jobs, tiles := t.tiles, unfenced := t.unfenced } ∧ s.sameStrands t ∧ s.charged t ∧ s.sameBytes t

/-- As `onlyAccess`, for an instruction that stores: the memories, and what a release leaves at a word (R73), may change as well. -/
def State.onlyStore (s t : State) : Prop :=
  t = { s with strands := t.strands, jobs := t.jobs, tiles := t.tiles, ctxs := t.ctxs, rim := t.rim, rimfe := t.rimfe,
               hostMem := t.hostMem, peerMem := t.peerMem, unfenced := t.unfenced, released := t.released }
    ∧ s.sameStrands t ∧ s.charged t ∧ (∀ c, { t.ctx c with spm := [], spfe := [] } = { s.ctx c with spm := [], spfe := [] })

/-- The `n` bytes from a place up hold a number, and every other byte and every full/empty bit reads as before. -/
def State.stored (s t : State) (l : Loc) (n v : Nat) : Prop :=
  t.readNat l n = v ∧ (∀ k, l.outside n k.cell → t.byteAt k = s.byteAt k) ∧ (∀ k, l.outside n k.bitCell → t.fullAt k = s.fullAt k)

/-- As `stored`, with the full/empty bit of the word at the place set as well. -/
def State.storedFull (s t : State) (l : Loc) (n v : Nat) (full : Bool) : Prop :=
  t.readNat l n = v ∧ t.fullAt l = full ∧ (∀ k, l.outside n k.cell → k.cell ≠ l.bitCell → t.byteAt k = s.byteAt k)
    ∧ (∀ k, l.outside n k.bitCell → k.bitCell ≠ l.bitCell → t.fullAt k = s.fullAt k)

/-- The strand holds what `x` holds but for the named registers, with the PC moved on from there and no flag changed. -/
def State.leaves (s t : State) (x : Strand) (gs : List (BitVec 5)) : Prop :=
  x.frame (s.then t) gs [] [] ∧ (s.then t).fflags = x.fflags ∧ x.movesOn (s.then t)

/-- The instruction completes with no register of the strand but the named ones changed, no flag changed, and the PC moved on. -/
def State.computes (s t : State) (gs : List (BitVec 5)) : Prop := s.onlyStrand t ∧ s.leaves t s.me gs

/-- The instruction does not issue: the strand waits with its PC at it, and nothing else changes (R147). -/
def State.waitsIn (s t : State) (st : StrandState) (w : Wait) : Prop :=
  s.onlyStrand t ∧ s.then t = { s.me with state := st, wait := w }

/-- The module has sent these messages to these peers, in this order, and nothing else (R36, R37, R102). -/
def State.tells (s t : State) (ms : List (Nat × CtlMsg)) : Prop :=
  ∃ fs, t.sent = s.sent ++ fs ∧ fs.map (fun f => (f.peer, f.load)) = ms

/-- A general register holds a value, unless it is g0, which reads zero; a predicate register, unless it is k0, which reads all ones
(R152, R366). -/
def Strand.holdsG (st : Strand) (d : BitVec 5) (x : Word) : Prop := st.rg d = if d = 0#5 then 0#64 else x
def Strand.holdsK (st : Strand) (d : BitVec 3) (x : Pred) : Prop := st.rk d = if d = 0#3 then BitVec.allOnes 256 else x

/-- An operation of latency `lam` and lookahead `l` has been issued with its results, its flags and, where it is still to be performed,
its access (R149–R151): without a window everything is there before the next instruction; with one it is outstanding. -/
def State.issued (s t : State) (lam : Nat) (l : BitVec 4) (gw : List (BitVec 5 × Word)) (vw : List (BitVec 4 × Row))
    (kw : List (BitVec 3 × Pred)) (f : Flags) (a : Option Access) : Prop :=
  s.me.movesOn (s.then t) ∧
  (if l = 0#4 then
    s.me.frame (s.then t) (gw.map (·.1)) (vw.map (·.1)) (kw.map (·.1)) ∧ (∀ p ∈ gw, (s.then t).holdsG p.1 p.2)
      ∧ (∀ p ∈ vw, (s.then t).rv p.1 = p.2) ∧ (∀ p ∈ kw, (s.then t).holdsK p.1 p.2)
      ∧ (s.then t).fflags = s.me.fflags ||| f ∧ s.cycle + lam ≤ (s.then t).readyAt
   else
    s.me.frame (s.then t) [] [] [] ∧ (s.then t).fflags = s.me.fflags ∧
      ∃ o, (s.then t).out = s.me.out.map (fun p => { p with window := p.window - 1 }) ++ [o] ∧ o.pc = s.me.pc ∧ o.window = l.toNat
        ∧ o.doneAt = s.cycle + lam ∧ o.gw = gw ∧ o.vw = vw ∧ o.kw = kw ∧ o.flags = f ∧ o.access = a ∧ o.elems = [])

/-- An element access has been issued relaxed: it is outstanding with the row it writes, as it stands so far, and its elements, each an access
of its own still to be performed (R151, R378). -/
def State.issuedElements (s t : State) (l : BitVec 4) (vw : List (BitVec 4 × Row)) (es : List (Nat × Access)) : Prop :=
  s.me.movesOn (s.then t) ∧ s.me.frame (s.then t) [] [] [] ∧ (s.then t).fflags = s.me.fflags ∧
    ∃ o, (s.then t).out = s.me.out.map (fun p => { p with window := p.window - 1 }) ++ [o] ∧ o.pc = s.me.pc ∧ o.window = l.toNat ∧ o.vw = vw
      ∧ o.elems = es ∧ o.access = none ∧ o.gw = [] ∧ o.kw = [] ∧ o.flags = 0#6

/-- No flag the operation raises traps before the next instruction: it is not enabled, or the operation has a window (R151, R215). -/
def State.quietFlags (s : State) (l : BitVec 4) (f : Flags) : Prop := l ≠ 0#4 ∨ f &&& s.me.fen = 0#6

/-! ### What an access meets -/

/-- Every earlier access of the strand has been performed. -/
def State.performed (s : State) : Prop := s.unperformed s.cur = false

/-- Nobody has still to find an error in the line of a place (R75), and in any line. -/
def State.clean (s : State) (l : Loc) : Prop := ∀ k b, l = .rim k b → s.flawsAt k = []
def State.sound (s : State) : Prop := ∀ k, s.flawsAt k = []

/-- The `n` bytes from a place up are reached at once: the strand's own scratchpad, a context that is reached directly, a host page that
answers and to which no store is still to be performed, rim memory or a peer's that is there (R103, R104, R110, R192); no other joint has locked
a word of them (R210), and no error stands there (R75). -/
def State.reachable (s : State) (l : Loc) (n : Nat) : Prop :=
  s.lockedFor s.cur l n = false ∧ s.clean l ∧
  (match l with
   | .spm c _ => c = ctxOf s.cur ∨ s.path c = .direct
   | .host p _ => s.hostAnswer l = .completes ∧ (∀ q ∈ s.strands, ∀ o ∈ q.2.out, ∀ a ∈ o.pending, a.postedTo p = false)
   | .peer _ _ => s.peerGone l = false
   | .rim _ _ => True)

/-- No write of the word at a place may still be hidden from the strand's loads (R74, R200). -/
def State.plain (s : State) (l : Loc) : Prop := s.hidden l s.cur = []

/-- Nobody watches the `n` bytes from a place up: no request waits at one of their words and no open joint holds one (R206, R210). -/
def State.unwatched (s : State) (l : Loc) (n : Nat) : Prop :=
  (∀ w ∈ s.waiters, w.acc.loc.word.within l n = false) ∧
  (match l with
   | .spm c o => ∀ i, i < 16 → (s.strand (strandKey c i)).joint.isOpen = true →
       ∀ w ∈ (s.strand (strandKey c i)).joint.words, w.touched c o n = false
   | _ => True)

/-! ### Traps -/

/-- A trap of the executing strand would reach its handler at once: nothing is outstanding, no handler is active, TVEC is set. -/
def State.trapReady (s : State) : Prop := s.me.out = [] ∧ s.me.trap.ha = false ∧ s.me.trap.tvec ≠ 0#64

/-- The strand enters its handler with a cause, a value and the PC to return to (R217). -/
def State.entersHandler (s t : State) (cause : Nat) (val resume : Word) : Prop :=
  s.onlyStrand t ∧ (s.then t).pc = s.me.trap.tvec ∧ (s.then t).state = .ready
    ∧ (s.then t).trap = { tvec := s.me.trap.tvec, tpc := resume &&& ~~~3#64, tcause := BitVec.ofNat 7 cause, tval := val,
                          sstats := s.sstat s.cur, lact := s.me.lstat, ha := true }
    ∧ (s.then t).shadow = s.me.loops ∧ (s.then t).lstat = 0#2 ∧ (s.then t).fflags = s.me.fflags
    ∧ (∀ r, (s.then t).rg r = s.me.rg r) ∧ (∀ r, (s.then t).rv r = s.me.rv r) ∧ (∀ r, (s.then t).rk r = s.me.rk r)

/-- The instruction takes a P-class trap: its own PC is the one to return to (R213, R217). -/
def State.takesTrap (s t : State) (cause : Nat) (val : Word) : Prop := s.entersHandler t cause val s.me.pc

end Sys2Proof.Machine
end

