-- ==== Sys2Proof/Expected.lean ====
section
/-! DEFINITION. What the rules give, by instruction: results, conditions, targets and forms, written from the tables of the spec for the
claims, apart from the meanings. -/

namespace Sys2Proof.Machine

/-! ### Integer results (R304–R308) -/

/-- Zero bits of a word before its first one, counted from the top or from the bottom. -/
def zerosAbove (x : Word) : Nat := ((List.range 64).takeWhile (fun i => !x.getLsbD (63 - i))).length
def zerosBelow (x : Word) : Nat := ((List.range 64).takeWhile (fun i => !x.getLsbD i)).length

/-- An integer of `n` bits, sign-extended or zero-extended, as a word. -/
def asSigned (n x : Nat) : Word := BitVec.ofInt 64 (if 2 * (x % 2 ^ n) < 2 ^ n then ((x % 2 ^ n : Nat) : Int) else ((x % 2 ^ n : Nat) : Int) - 2 ^ n)
def asUnsigned (n x : Nat) : Word := BitVec.ofNat 64 (x % 2 ^ n)

/-- Conditions of R283 by their code. -/
def relation (c : Nat) (x y : Word) : Bool :=
  match c with
  | 0 => decide (x.toNat = y.toNat)
  | 1 => decide (x.toNat ≠ y.toNat)
  | 2 => decide (x.toInt < y.toInt)
  | 3 => decide (y.toInt ≤ x.toInt)
  | 4 => decide (x.toInt ≤ y.toInt)
  | 5 => decide (y.toInt < x.toInt)
  | 6 => decide (x.toNat < y.toNat)
  | 7 => decide (y.toNat ≤ x.toNat)
  | 8 => decide (x.toNat ≤ y.toNat)
  | _ => decide (y.toNat < x.toNat)

/-- The register an integer instruction writes and its value (R305, R307, R308). NOP writes g0, which discards it. -/
inductive IntResult (st : Strand) : Instr → BitVec 5 → Word → Prop
  | add (d a b : _) : IntResult st (.add d a b) d (BitVec.ofNat 64 ((st.rg a).toNat + (st.rg b).toNat))
  | sub (d a b : _) : IntResult st (.sub d a b) d (BitVec.ofInt 64 ((st.rg a).toInt - (st.rg b).toInt))
  | and (d a b : _) : IntResult st (.and d a b) d (st.rg a &&& st.rg b)
  | or (d a b : _) : IntResult st (.or d a b) d (st.rg a ||| st.rg b)
  | xor (d a b : _) : IntResult st (.xor d a b) d (st.rg a ^^^ st.rg b)
  | andn (d a b : _) : IntResult st (.andn d a b) d (st.rg a &&& ~~~(st.rg b))
  | orn (d a b : _) : IntResult st (.orn d a b) d (st.rg a ||| ~~~(st.rg b))
  | sll (d a b : _) : IntResult st (.sll d a b) d (BitVec.ofNat 64 ((st.rg a).toNat * 2 ^ ((st.rg b).toNat % 64)))
  | srl (d a b : _) : IntResult st (.srl d a b) d (BitVec.ofNat 64 ((st.rg a).toNat / 2 ^ ((st.rg b).toNat % 64)))
  | sra (d a b : _) : IntResult st (.sra d a b) d (BitVec.ofInt 64 ((st.rg a).toInt / 2 ^ ((st.rg b).toNat % 64)))
  | ror (d a b : _) : IntResult st (.ror d a b) d (st.rg a >>> ((st.rg b).toNat % 64) ||| st.rg a <<< (64 - (st.rg b).toNat % 64))
  | min (d a b : _) : IntResult st (.min d a b) d (if (st.rg b).toInt < (st.rg a).toInt then st.rg b else st.rg a)
  | max (d a b : _) : IntResult st (.max d a b) d (if (st.rg a).toInt < (st.rg b).toInt then st.rg b else st.rg a)
  | minu (d a b : _) : IntResult st (.minu d a b) d (BitVec.ofNat 64 (Nat.min (st.rg a).toNat (st.rg b).toNat))
  | maxu (d a b : _) : IntResult st (.maxu d a b) d (BitVec.ofNat 64 (Nat.max (st.rg a).toNat (st.rg b).toNat))
  | sel (d a b : _) : IntResult st (.sel d a b) d (if st.rg d = 0#64 then st.rg b else st.rg a)
  | clz (d a : _) : IntResult st (.clz d a) d (BitVec.ofNat 64 (zerosAbove (st.rg a)))
  | ctz (d a : _) : IntResult st (.ctz d a) d (BitVec.ofNat 64 (zerosBelow (st.rg a)))
  | popc (d a : _) : IntResult st (.popc d a) d (BitVec.ofNat 64 ((List.range 64).countP (fun i => (st.rg a).getLsbD i)))
  | sextI8 (d a : _) : IntResult st (.sextI8 d a) d (asSigned 8 (st.rg a).toNat)
  | sextI16 (d a : _) : IntResult st (.sextI16 d a) d (asSigned 16 (st.rg a).toNat)
  | sextI32 (d a : _) : IntResult st (.sextI32 d a) d (asSigned 32 (st.rg a).toNat)
  | zextN8 (d a : _) : IntResult st (.zextN8 d a) d (asUnsigned 8 (st.rg a).toNat)
  | zextN16 (d a : _) : IntResult st (.zextN16 d a) d (asUnsigned 16 (st.rg a).toNat)
  | zextN32 (d a : _) : IntResult st (.zextN32 d a) d (asUnsigned 32 (st.rg a).toNat)
  | cmp (d a b c : _) (h : c.toNat ≤ 9) : IntResult st (.cmp d a b c) d (if relation c.toNat (st.rg a) (st.rg b) then 1#64 else 0#64)
  | nop : IntResult st .nop 0#5 0#64
  | addi (d a i : _) : IntResult st (.addi d a i) d (BitVec.ofInt 64 ((st.rg a).toInt + i.toInt))
  | andi (d a i : _) : IntResult st (.andi d a i) d (st.rg a &&& BitVec.ofInt 64 i.toInt)
  | ori (d a i : _) : IntResult st (.ori d a i) d (st.rg a ||| BitVec.ofNat 64 i.toNat)
  | xori (d a i : _) : IntResult st (.xori d a i) d (st.rg a ^^^ BitVec.ofNat 64 i.toNat)
  | slli (d a n : _) : IntResult st (.slli d a n) d (BitVec.ofNat 64 ((st.rg a).toNat * 2 ^ n.toNat))
  | srli (d a n : _) : IntResult st (.srli d a n) d (BitVec.ofNat 64 ((st.rg a).toNat / 2 ^ n.toNat))
  | srai (d a n : _) : IntResult st (.srai d a n) d (BitVec.ofInt 64 ((st.rg a).toInt / 2 ^ n.toNat))
  | li (d i : _) : IntResult st (.li d i) d (BitVec.ofInt 64 i.toInt)
  | lih (d a i : _) : IntResult st (.lih d a i) d (BitVec.ofNat 64 ((st.rg a).toNat * 32768) ||| BitVec.ofNat 64 i.toNat)
  | lapc (d i : _) : IntResult st (.lapc d i) d (BitVec.ofInt 64 (st.pc.toInt + 4 * i.toInt))

/-- Products, quotients and remainders: register, lookahead, latency and value (R150, R306). A zero divisor has no value: it traps. -/
inductive WideResult (st : Strand) : Instr → BitVec 5 → BitVec 4 → Nat → Word → Prop
  | mul (d a b l : _) : WideResult st (.mul d a b l) d l 24 (BitVec.ofNat 64 ((st.rg a).toNat * (st.rg b).toNat))
  | mulh (d a b l : _) : WideResult st (.mulh d a b l) d l 24 (BitVec.ofInt 64 (((st.rg a).toInt * (st.rg b).toInt) / 2 ^ 64))
  | mulhu (d a b l : _) : WideResult st (.mulhu d a b l) d l 24 (BitVec.ofNat 64 (((st.rg a).toNat * (st.rg b).toNat) / 2 ^ 64))
  | div (d a b l : _) (h : ¬ (st.rg b = 0#64)) : WideResult st (.div d a b l) d l 136 (BitVec.ofInt 64 ((st.rg a).toInt.tdiv (st.rg b).toInt))
  | divu (d a b l : _) (h : ¬ (st.rg b = 0#64)) : WideResult st (.divu d a b l) d l 136 (BitVec.ofNat 64 ((st.rg a).toNat / (st.rg b).toNat))
  | rem (d a b l : _) (h : ¬ (st.rg b = 0#64)) : WideResult st (.rem d a b l) d l 136 (BitVec.ofInt 64 ((st.rg a).toInt.tmod (st.rg b).toInt))
  | remu (d a b l : _) (h : ¬ (st.rg b = 0#64)) : WideResult st (.remu d a b l) d l 136 (BitVec.ofNat 64 ((st.rg a).toNat % (st.rg b).toNat))

/-- The divisor of a division (R306). -/
inductive DivisorOf (st : Strand) : Instr → Word → Prop
  | div (d a b l : _) : DivisorOf st (.div d a b l) (st.rg b)
  | divu (d a b l : _) : DivisorOf st (.divu d a b l) (st.rg b)
  | rem (d a b l : _) : DivisorOf st (.rem d a b l) (st.rg b)
  | remu (d a b l : _) : DivisorOf st (.remu d a b l) (st.rg b)

/-! ### Scalar floating point (R309, R310) -/

/-- A typed operand: all 64 bits, or the low 32 (R309). -/
def typed (t : BitVec 1) (x : Word) : Nat := if t = 1#1 then x.toNat % 2 ^ 32 else x.toNat

/-- What the operation of a format gives on operands: the absent code, with no flag, where one of them is absent (R260). -/
def absentOr (f : Fmt) (xs : List Nat) (op : List Num → Nat × Flags) : Nat × Flags :=
  if f.absent ∈ xs then (f.absent, 0#6) else op (xs.map f.read)

/-- The format of a type field (R309). -/
def typeFmt (t : BitVec 1) : Fmt := if t = 1#1 then fp32 else fp64

/-- An arithmetic result on registers of a type. -/
def arith (st : Strand) (t : BitVec 1) (xs : List (BitVec 5)) (op : Fmt → List Num → Nat × Flags) : Nat × Flags :=
  absentOr (typeFmt t) (xs.map (fun x => typed t (st.rg x))) (op (typeFmt t))

/-- The conversion of a register between format codes (R271, R310). -/
def converted (st : Strand) (src dst : Nat) (a : BitVec 5) : Nat × Flags :=
  convert src dst st.frm.toNat 0#128 ((st.rg a).toNat % 2 ^ fcBits src)

/-- Register, lookahead, latency, value and flags of a scalar floating-point instruction under FRM (R150, R309, R310). -/
inductive FloatResult (st : Strand) : Instr → BitVec 5 → BitVec 4 → Nat → Nat × Flags → Prop
  | fadd (d a b t l : _) : FloatResult st (.fadd d a b t l) d l 24 (arith st t [a, b] (fun f => opAdd f st.frm.toNat))
  | fsub (d a b t l : _) : FloatResult st (.fsub d a b t l) d l 24 (arith st t [a, b] (fun f => opSub f st.frm.toNat))
  | fmul (d a b t l : _) : FloatResult st (.fmul d a b t l) d l 24 (arith st t [a, b] (fun f => opMul f st.frm.toNat))
  | fdiv (d a b t l : _) : FloatResult st (.fdiv d a b t l) d l 96 (arith st t [a, b] (fun f => opDiv f st.frm.toNat))
  | fsqrt (d a t l : _) : FloatResult st (.fsqrt d a t l) d l 96 (arith st t [a] (fun f => opSqrt f st.frm.toNat))
  | fma (d a b t l : _) : FloatResult st (.fma d a b t l) d l 24 (arith st t [a, b, d] (fun f => opFma f st.frm.toNat))
  | fmin (d a b t l : _) : FloatResult st (.fmin d a b t l) d l 24 (arith st t [a, b] (fun f => opExtreme f false))
  | fmax (d a b t l : _) : FloatResult st (.fmax d a b t l) d l 24 (arith st t [a, b] (fun f => opExtreme f true))
  | fcvt (d a t l : _) : FloatResult st (.fcvt d a t l) d l 24 (if t = 1#1 then converted st 0 1 a else converted st 1 0 a)
  | fcvti (d a t l : _) : FloatResult st (.fcvti d a t l) d l 24 (if t = 1#1 then converted st 1 11 a else converted st 0 11 a)
  | fcvtf (d a t l : _) : FloatResult st (.fcvtf d a t l) d l 24 (if t = 1#1 then converted st 11 1 a else converted st 11 0 a)
  | fcmp (d a b t c l : _) : FloatResult st (.fcmp d a b t c l) d l 24
      (let r := compareNums c.toNat ((typeFmt t).read (typed t (st.rg a))) ((typeFmt t).read (typed t (st.rg b)))
       (if r.1 then 1 else 0, r.2))

/-! ### Control flow (R311–R318) -/

/-- A displaced address: that of the instruction plus four times the displacement. -/
def displaced (st : Strand) (i : BitVec w) : Word := BitVec.ofInt 64 (st.pc.toInt + 4 * i.toInt)

/-- A direct branch: whether it is taken, its target, and the link it writes (R311). -/
inductive BranchOf (st : Strand) : Instr → Bool → Word → List (BitVec 5 × Word) → Prop
  | beq (a b d : _) : BranchOf st (.beq a b d) (relation 0 (st.rg a) (st.rg b)) (displaced st d) []
  | bne (a b d : _) : BranchOf st (.bne a b d) (relation 1 (st.rg a) (st.rg b)) (displaced st d) []
  | blt (a b d : _) : BranchOf st (.blt a b d) (relation 2 (st.rg a) (st.rg b)) (displaced st d) []
  | bge (a b d : _) : BranchOf st (.bge a b d) (relation 3 (st.rg a) (st.rg b)) (displaced st d) []
  | bltu (a b d : _) : BranchOf st (.bltu a b d) (relation 6 (st.rg a) (st.rg b)) (displaced st d) []
  | bgeu (a b d : _) : BranchOf st (.bgeu a b d) (relation 7 (st.rg a) (st.rg b)) (displaced st d) []
  | bz (a d : _) : BranchOf st (.bz a d) (relation 0 (st.rg a) 0#64) (displaced st d) []
  | bnz (a d : _) : BranchOf st (.bnz a d) (relation 1 (st.rg a) 0#64) (displaced st d) []
  | b (d : _) : BranchOf st (.b d) true (displaced st d) []
  | call (d : _) : BranchOf st (.call d) true (displaced st d) [(1#5, st.pc + 4#64)]

/-- A jump to a register: its target and the link it writes (R312). -/
inductive JumpOf (st : Strand) : Instr → Word → List (BitVec 5 × Word) → Prop
  | callr (a : _) : JumpOf st (.callr a) (st.rg a) [(1#5, st.pc + 4#64)]
  | ret : JumpOf st .ret (st.rg 1#5) []
  | jr (a : _) : JumpOf st (.jr a) (st.rg a) []

/-- A loop level as it stands: LB, LE, LC and whether it is active (R314). -/
def Strand.level (st : Strand) (n : BitVec 1) : Word × Word × Word × Bool :=
  if n = 0#1 then (st.loops.lb0, st.loops.le0, st.loops.lc0, st.lstat.getLsbD 0) else (st.loops.lb1, st.loops.le1, st.loops.lc1, st.lstat.getLsbD 1)

/-- A strand with a loop level set. -/
def Strand.withLevel (st : Strand) (n : BitVec 1) (lb le lc : Word) (on : Bool) : Strand :=
  if n = 0#1 then { st with loops := { st.loops with lb0 := lb, le0 := le, lc0 := lc }, lstat := BitVec.ofBool (st.lstat.getLsbD 1) ++ BitVec.ofBool on }
  else { st with loops := { st.loops with lb1 := lb, le1 := le, lc1 := lc }, lstat := BitVec.ofBool on ++ BitVec.ofBool (st.lstat.getLsbD 0) }

/-- The levels a mask names. -/
def levelsOf (m : BitVec 2) : List (BitVec 1) := (if m.getLsbD 0 then [0#1] else []) ++ (if m.getLsbD 1 then [1#1] else [])

/-- LSET may activate a level (R318). -/
def Strand.levelFit (st : Strand) (n : BitVec 1) : Prop := (st.level n).1.toNat ≤ (st.level n).2.1.toNat ∧ (st.level n).2.2.1 ≠ 0#64

/-! ### Memory forms (R338–R345) -/

/-- An access as its encoding gives it: destination, bytes, sign extension, datum, address, spill redirection, order, scope, lookahead,
function and the second operand. -/
structure Form where
  d : BitVec 5 := 0
  size : Nat := 8
  signed : Bool := false
  data : Word := 0
  cmp : Word := 0
  va : Word := 0
  g2 : Bool := false
  rx : Bool := false
  order : Order := .plain
  scope : Nat := 0
  fn : Nat := 0
  l : BitVec 4 := 0

/-- A relaxed access with lookahead is still to be performed when it has been issued (R195, R336). -/
def Form.late (f : Form) : Bool := f.rx && f.l != 0#4

/-- Address of the Memory format: a scaled offset of seven bits, or of four beside a scope (R338). -/
def offsetAddr (st : Strand) (a : BitVec 5) (o w : BitVec 2) (i : BitVec 7) : Word :=
  BitVec.ofInt 64 ((st.rg a).toInt + (if o = 2#2 then (fieldAt 0 4 i : BitVec 4).toInt else i.toInt) * 2 ^ w.toNat)

/-- Loads (R338, R340, R341). -/
inductive LoadForm (st : Strand) : Instr → Form → Prop
  | ld (d a o w x l : _) : LoadForm st (.ld d a o w x l)
      { d := d, size := 2 ^ w.toNat, signed := true, va := offsetAddr st a o w x, g2 := a == 2#5, rx := o == 1#2, l := l }
  | ldu (d a o w x l : _) : LoadForm st (.ldu d a o w x l)
      { d := d, size := 2 ^ w.toNat, va := offsetAddr st a o w x, g2 := a == 2#5, rx := o == 1#2, l := l }
  | ldx (d a b o w l : _) : LoadForm st (.ldx d a b o w l)
      { d := d, size := 2 ^ w.toNat, signed := true, va := st.rg a + st.rg b, g2 := a == 2#5, rx := o == 1#2,
        l := if o = 2#2 then 0#4 else l }
  | ldux (d a b o w l : _) : LoadForm st (.ldux d a b o w l)
      { d := d, size := 2 ^ w.toNat, va := st.rg a + st.rg b, g2 := a == 2#5, rx := o == 1#2, l := if o = 2#2 then 0#4 else l }
  | ldpc (d x : _) : LoadForm st (.ldpc d x) { d := d, size := 8, signed := true, va := displaced st x }

/-- Stores (R338, R340). -/
inductive StoreForm (st : Strand) : Instr → Form → Prop
  | st (d a o w x l : _) : StoreForm st (.st d a o w x l)
      { size := 2 ^ w.toNat, data := st.rg d, va := offsetAddr st a o w x, g2 := a == 2#5, rx := o == 1#2, l := l }
  | stx (d a b o w l : _) : StoreForm st (.stx d a b o w l)
      { size := 2 ^ w.toNat, data := st.rg d, va := st.rg a + st.rg b, g2 := a == 2#5, rx := o == 1#2, l := if o = 2#2 then 0#4 else l }

/-- Address of a full/empty or joint form: a scaled offset of seven bits (R342, R347). -/
def nearAddr (st : Strand) (a : BitVec 5) (i : BitVec 7) : Word := BitVec.ofInt 64 ((st.rg a).toInt + 8 * i.toInt)

/-- Full/empty forms: 0 LDE, 1 LDF, 2 STF, 3 STS, 4 FEQ, 5 FESET, 6 FECLR (R205, R340, R342). -/
inductive FullEmptyForm (st : Strand) : Instr → Form → Prop
  | lde (d a o : _) : FullEmptyForm st (.lde d a o) { d := d, va := nearAddr st a o, g2 := a == 2#5, fn := 0, scope := 3 }
  | ldf (d a o : _) : FullEmptyForm st (.ldf d a o) { d := d, va := nearAddr st a o, g2 := a == 2#5, fn := 1, scope := 3 }
  | stf (d a o : _) : FullEmptyForm st (.stf d a o)
      { data := st.rg d, va := nearAddr st a o, g2 := a == 2#5, fn := 2, order := .release, scope := 3 }
  | sts (d a o : _) : FullEmptyForm st (.sts d a o)
      { data := st.rg d, va := nearAddr st a o, g2 := a == 2#5, fn := 3, order := .release, scope := 3 }
  | feq (d a o : _) : FullEmptyForm st (.feq d a o) { d := d, va := nearAddr st a o, g2 := a == 2#5, fn := 4, scope := 3 }
  | feset (a o : _) : FullEmptyForm st (.feset a o) { va := nearAddr st a o, g2 := a == 2#5, fn := 5, scope := 3 }
  | feclr (a o : _) : FullEmptyForm st (.feclr a o) { va := nearAddr st a o, g2 := a == 2#5, fn := 6, scope := 3 }
  | ldex (d a b : _) : FullEmptyForm st (.ldex d a b) { d := d, va := st.rg a + st.rg b, g2 := a == 2#5, fn := 0, scope := 3 }
  | stfx (d a b : _) : FullEmptyForm st (.stfx d a b)
      { data := st.rg d, va := st.rg a + st.rg b, g2 := a == 2#5, fn := 2, order := .release, scope := 3 }

/-- The page rights a full/empty form needs (R189, R208). -/
def fullEmptyNeed (fn : Nat) : Need := { rd := fn ∈ [0, 1, 4], wr := fn ∈ [0, 2, 3, 5, 6], fe := true }

/-- The condition of a full/empty form on the bit of its word (R205). -/
def fullEmptyGoes (fn : Nat) (full : Bool) : Prop := (fn ∈ [0, 1] → full = true) ∧ (fn = 2 → full = false)

/-- The bit a full/empty form leaves (R205). -/
def fullEmptyLeaves (fn : Nat) (full : Bool) : Bool := if fn ∈ [0, 6] then false else if fn ∈ [2, 3, 5] then true else full

/-- The form of an atomic of 4 or 8 bytes at g(a), with operand g(b) and, for CAS, the compared value g(d). -/
def amoForm (st : Strand) (fn : Nat) (d a b : BitVec 5) (r w : BitVec 1) (l : BitVec 4) : Form :=
  { d := d, size := if w = 1#1 then 8 else 4, data := st.rg b, cmp := st.rg d, va := st.rg a, g2 := a == 2#5, rx := r == 1#1, fn := fn,
    l := l }

/-- Atomics (R343): 0 swap, 1 add, 2 and, 3 or, 4 xor, 5 min, 6 max, 7 minu, 8 maxu, 9 compare and swap. -/
inductive AtomicForm (st : Strand) : Instr → Form → Prop
  | amoSwap (d a b r w l : _) : AtomicForm st (.amoSwap d a b r w l) (amoForm st 0 d a b r w l)
  | amoAdd (d a b r w l : _) : AtomicForm st (.amoAdd d a b r w l) (amoForm st 1 d a b r w l)
  | amoAnd (d a b r w l : _) : AtomicForm st (.amoAnd d a b r w l) (amoForm st 2 d a b r w l)
  | amoOr (d a b r w l : _) : AtomicForm st (.amoOr d a b r w l) (amoForm st 3 d a b r w l)
  | amoXor (d a b r w l : _) : AtomicForm st (.amoXor d a b r w l) (amoForm st 4 d a b r w l)
  | amoMin (d a b r w l : _) : AtomicForm st (.amoMin d a b r w l) (amoForm st 5 d a b r w l)
  | amoMax (d a b r w l : _) : AtomicForm st (.amoMax d a b r w l) (amoForm st 6 d a b r w l)
  | amoMinu (d a b r w l : _) : AtomicForm st (.amoMinu d a b r w l) (amoForm st 7 d a b r w l)
  | amoMaxu (d a b r w l : _) : AtomicForm st (.amoMaxu d a b r w l) (amoForm st 8 d a b r w l)
  | cas (d a b r w l : _) : AtomicForm st (.cas d a b r w l) (amoForm st 9 d a b r w l)
  | atomar (d a b w f c : _) (h : f.toNat < 10) : AtomicForm st (.atomar d a b w f c) (amoForm st f.toNat d a b 0#1 w 0#4)

/-- The value an atomic of `n` bytes writes, with `x` in memory, `y` the operand and `c` the compared value, all below 256^n (R343). -/
def atomicWritten (fn n x y c : Nat) : Option Nat :=
  let lt (p q : Nat) : Bool := decide ((asSigned (8 * n) p).toInt < (asSigned (8 * n) q).toInt)
  match fn with
  | 0 => some y
  | 1 => some ((x + y) % 256 ^ n)
  | 2 => some (x &&& y)
  | 3 => some (x ||| y)
  | 4 => some (x ^^^ y)
  | 5 => some (if lt y x then y else x)
  | 6 => some (if lt x y then y else x)
  | 7 => some (if y < x then y else x)
  | 8 => some (if x < y then y else x)
  | _ => if x = c then some y else none

/-- The form of a WAIT at g(a) for g(b). -/
def wtForm (st : Strand) (fn : Nat) (d a b : BitVec 5) (r : BitVec 1) (l : BitVec 4) : Form :=
  { d := d, data := st.rg b, va := st.rg a, g2 := a == 2#5, rx := r == 1#1, fn := fn, l := l }

/-- The WAIT forms (R345): 10 equal, 11 unsigned at least, 12 not equal. -/
inductive WaitForm (st : Strand) : Instr → Form → Prop
  | waiteq (d a b r l : _) : WaitForm st (.waiteq d a b r l) (wtForm st 10 d a b r l)
  | waitge (d a b r l : _) : WaitForm st (.waitge d a b r l) (wtForm st 11 d a b r l)
  | waitne (d a b r l : _) : WaitForm st (.waitne d a b r l) (wtForm st 12 d a b r l)
  | atomar (d a b w f c : _) (h : 10 ≤ f.toNat ∧ f.toNat ≤ 12) : WaitForm st (.atomar d a b w f c)
      { wtForm st f.toNat d a b 0#1 0#4 with order := .both, scope := c.toNat }

/-- The test of a WAIT form. -/
def waitGoes (fn : Nat) (v y : Word) : Prop :=
  match fn with
  | 10 => v = y
  | 11 => y.toNat ≤ v.toNat
  | _ => v ≠ y

/-- Every single access of a strand: its form and what it needs of its page (R189, R336). -/
inductive AccessForm (st : Strand) (i : Instr) : Form → Need → Prop
  | load (f : Form) (h : LoadForm st i f) : AccessForm st i f { rd := true, size := f.size, align := f.size }
  | store (f : Form) (h : StoreForm st i f) : AccessForm st i f { wr := true, size := f.size, align := f.size }
  | fullEmpty (f : Form) (h : FullEmptyForm st i f) : AccessForm st i f (fullEmptyNeed f.fn)
  | atomic (f : Form) (h : AtomicForm st i f) :
      AccessForm st i f { rd := true, wr := true, noHost := f.fn ∉ [0, 1, 9], size := f.size, align := f.size }
  | wait (f : Form) (h : WaitForm st i f) : AccessForm st i f { rd := true, noHost := true }

/-- The address an access is performed with, as TVAL and outstanding accesses report it (R179, R183). -/
def Form.reported (f : Form) (st : Strand) : Word := spillAddr (st.spill f.g2) f.va

/-- The access of a form at its place, as it stays outstanding or waits: with its order and its scope (R194, R196). -/
def Form.access (f : Form) (st : Strand) (op : AccessOp) (l : Loc) : Access :=
  { op := op, loc := l, va := f.reported st, dest := f.d, order := if f.rx then .rx else f.order, scope := f.scope }

/-! ### Vectors (R366–R394) -/

/-- Element `j` of a row, of `w` bytes. -/
def element (w : Nat) (x : Row) (j : Nat) : Nat := x.toNat / 2 ^ (8 * w * j) % 2 ^ (8 * w)

/-- An element of `w` bytes is active under a predicate (R367). -/
def isActive (w : Nat) (m : Pred) (j : Nat) : Bool := m.getLsbD (w * j)

/-- A signed operation of `w` bytes that saturates to the symmetric range; absent where an operand is (R254, R380). -/
def symmetric (w : Nat) (op : Int → Int → Int) (x y : Nat) : Nat × Flags :=
  let most : Nat := 2 ^ (8 * w - 1)
  let value (c : Nat) : Int := if c < most then c else (c : Int) - 2 * most
  if x = most ∨ y = most then (most, 0#6)
  else
    let r := op (value x) (value y)
    if (most : Int) ≤ r then (most - 1, fOverflow)
    else if r ≤ -(most : Int) then (most + 1, fOverflow)
    else (if 0 ≤ r then r.toNat else (r + 2 * most).toNat, 0#6)

/-- What an element operation gives: width in bytes, latency, lookahead, destination, and for each element its value and the flags it
raises. -/
structure Elements where
  w : Nat
  lam : Nat
  l : BitVec 4
  d : BitVec 4
  value : Nat → Nat
  raised : Nat → Flags

/-- An operation on the active elements of a row: an inactive element keeps its old value and raises nothing. -/
def masked (st : Strand) (w lam : Nat) (l d : BitVec 4) (k : BitVec 3) (f : Nat → Nat × Flags) : Elements :=
  { w := w, lam := lam, l := l, d := d, value := fun j => if isActive w (st.rk k) j then (f j).1 else element w (st.rv d) j,
    raised := fun j => if isActive w (st.rk k) j then (f j).2 else 0#6 }

/-- Integers of a type field's width (R284, R380), bytes (R381), 64-bit shifts (R381) and floating-point operands of a format (R382, R383). -/
def ints (st : Strand) (d a b : BitVec 4) (k t : BitVec 3) (l : BitVec 4) (op : Int → Int → Int) : Elements :=
  let w := 2 ^ (t.toNat % 4)
  masked st w 40 l d k (fun j => symmetric w op (element w (st.rv a) j) (element w (st.rv b) j))
def bytewise (st : Strand) (d a b : BitVec 4) (k : BitVec 3) (l : BitVec 4) (op : Nat → Nat → Nat) : Elements :=
  masked st 1 40 l d k (fun j => (op (element 1 (st.rv a) j) (element 1 (st.rv b) j), 0#6))
def shifted (st : Strand) (d a b : BitVec 4) (k : BitVec 3) (l : BitVec 4) (op : Nat → Nat → Nat) : Elements :=
  masked st 8 40 l d k (fun j => (op (element 8 (st.rv a) j) (element 8 (st.rv b) j % 64), 0#6))
def floats (st : Strand) (fc lam : Nat) (d : BitVec 4) (k : BitVec 3) (l : BitVec 4) (vs : List (BitVec 4))
    (op : Fmt → List Num → Nat × Flags) : Elements :=
  let w := fcBits fc / 8
  masked st w lam l d k (fun j => absentOr (fmtOf fc) (vs.map (fun v => element w (st.rv v) j)) (op (fmtOf fc)))

/-- Element operations (R380–R383, R385, R389, R392–R394). VSEL and VMKA write every element. -/
inductive ElementResult (st : Strand) : Instr → Elements → Prop
  | vadd (d a b k t l : _) : ElementResult st (.vadd d a b k t l) (ints st d a b k t l (fun x y => x + y))
  | vsub (d a b k t l : _) : ElementResult st (.vsub d a b k t l) (ints st d a b k t l (fun x y => x - y))
  | vmul (d a b k t l : _) : ElementResult st (.vmul d a b k t l) (ints st d a b k t l (fun x y => x * y))
  | vmin (d a b k t l : _) : ElementResult st (.vmin d a b k t l) (ints st d a b k t l (fun x y => if y < x then y else x))
  | vmax (d a b k t l : _) : ElementResult st (.vmax d a b k t l) (ints st d a b k t l (fun x y => if x < y then y else x))
  | vlogAnd (d a b k l : _) : ElementResult st (.vlogAnd d a b k l) (bytewise st d a b k l (fun x y => x &&& y))
  | vlogOr (d a b k l : _) : ElementResult st (.vlogOr d a b k l) (bytewise st d a b k l (fun x y => x ||| y))
  | vlogXor (d a b k l : _) : ElementResult st (.vlogXor d a b k l) (bytewise st d a b k l (fun x y => x ^^^ y))
  | vshfSll (d a b k l : _) : ElementResult st (.vshfSll d a b k l) (shifted st d a b k l (fun x n => x * 2 ^ n % 2 ^ 64))
  | vshfSrl (d a b k l : _) : ElementResult st (.vshfSrl d a b k l) (shifted st d a b k l (fun x n => x / 2 ^ n))
  | vshfSra (d a b k l : _) : ElementResult st (.vshfSra d a b k l)
      (shifted st d a b k l (fun x n => (BitVec.ofInt 64 ((BitVec.ofNat 64 x).toInt / 2 ^ n)).toNat))
  | vfadd (d a b k t l : _) : ElementResult st (.vfadd d a b k t l) (floats st t.toNat 40 d k l [a, b] (fun f => opAdd f st.frm.toNat))
  | vfsub (d a b k t l : _) : ElementResult st (.vfsub d a b k t l) (floats st t.toNat 40 d k l [a, b] (fun f => opSub f st.frm.toNat))
  | vfmul (d a b k t l : _) : ElementResult st (.vfmul d a b k t l) (floats st t.toNat 40 d k l [a, b] (fun f => opMul f st.frm.toNat))
  | vfma (d a b k t l : _) : ElementResult st (.vfma d a b k t l) (floats st t.toNat 40 d k l [a, b, d] (fun f => opFma f st.frm.toNat))
  | vfmin (d a b k t l : _) : ElementResult st (.vfmin d a b k t l) (floats st t.toNat 40 d k l [a, b] (fun f => opExtreme f false))
  | vfmax (d a b k t l : _) : ElementResult st (.vfmax d a b k t l) (floats st t.toNat 40 d k l [a, b] (fun f => opExtreme f true))
  | vfdiv (d a b k t l : _) : ElementResult st (.vfdiv d a b k t l) (floats st t.toNat 72 d k l [a, b] (fun f => opDiv f st.frm.toNat))
  | vfsqrt (d a k t l : _) : ElementResult st (.vfsqrt d a k t l) (floats st t.toNat 72 d k l [a] (fun f => opSqrt f st.frm.toNat))
  | vfsfExp2 (d a k l : _) : ElementResult st (.vfsfExp2 d a k l) (floats st 1 72 d k l [a] (fun f => opExp2 f st.frm.toNat))
  | vfsfLog2 (d a k l : _) : ElementResult st (.vfsfLog2 d a k l) (floats st 1 72 d k l [a] (fun f => opLog2 f st.frm.toNat))
  | vsel (d a b k l : _) : ElementResult st (.vsel d a b k l)
      { w := 1, lam := 40, l := l, d := d, raised := fun _ => 0#6,
        value := fun j => if isActive 1 (st.rk k) j then element 1 (st.rv a) j else element 1 (st.rv b) j }
  | vqmxX (d a k t l : _) : ElementResult st (.vqmxX d a k t l) (masked st 4 40 l d k (fun j => fp32.write st.frm.toNat
      (readNum (16 + t.toNat) ((st.rv a).toNat / 2 ^ (fcBits (16 + t.toNat) * j) % 2 ^ fcBits (16 + t.toNat)) 0#128
        (element 1 (st.rv a) (248 + j / 32)))))
  | vfill (d a f k l : _) : ElementResult st (.vfill d a f k l) (masked st (fcBits f.toNat / 8) 40 l d k (fun j =>
      (if absentCode f.toNat = some (element (fcBits f.toNat / 8) (st.rv d) j) then element (fcBits f.toNat / 8) (st.rv a) j
       else element (fcBits f.toNat / 8) (st.rv d) j, 0#6)))
  | vmka (d a f k l : _) : ElementResult st (.vmka d a f k l)
      { w := fcBits f.toNat / 8, lam := 40, l := l, d := d, raised := fun _ => 0#6,
        value := fun j => if isActive (fcBits f.toNat / 8) (st.rk k) j then element (fcBits f.toNat / 8) (st.rv a) j
                          else (absentCode f.toNat).getD 0 }
  | vperm (d a b k l : _) : ElementResult st (.vperm d a b k l) (masked st 1 40 l d k (fun j =>
      (element 1 (st.rv a) (element 1 (st.rv b) j), 0#6)))
  | vslideDn (d a b k l : _) : ElementResult st (.vslideDn d a b k l) (masked st 8 40 l d k (fun j =>
      (if j = 31 then element 8 (st.rv b) 0 else element 8 (st.rv a) (j + 1), 0#6)))
  | vslideUp (d a b k l : _) : ElementResult st (.vslideUp d a b k l) (masked st 8 40 l d k (fun j =>
      (if j = 0 then element 8 (st.rv b) 31 else element 8 (st.rv a) (j - 1), 0#6)))
  | vmovGv (d a k l : _) : ElementResult st (.vmovGv d a k l) (masked st 8 40 l d k (fun _ => ((st.rg (gr a)).toNat, 0#6)))

/-- What an operation into a predicate gives: width in bytes, lookahead, destination, and for each element its truth and its flags. -/
structure Truths where
  w : Nat
  l : BitVec 4
  p : BitVec 3
  value : Nat → Bool
  raised : Nat → Flags := fun _ => 0#6

/-- The condition of a vector compare: eq, ne, lt, le (R384). -/
def fourConds (c : BitVec 2) : Nat := if c = 3#2 then 4 else c.toNat

/-- Compares, presence and bounds (R374, R384, R392): a predicate is written whole. -/
inductive TruthResult (st : Strand) : Instr → Truths → Prop
  | vcmp (p a b k t c l : _) : TruthResult st (.vcmp p a b k t c l)
      { w := 2 ^ (t.toNat % 4), l := l, p := p, value := fun j => isActive (2 ^ (t.toNat % 4)) (st.rk k) j &&
          (compareNums (fourConds c) (readNum (8 + t.toNat) (element (2 ^ (t.toNat % 4)) (st.rv a) j) 0#128 127)
            (readNum (8 + t.toNat) (element (2 ^ (t.toNat % 4)) (st.rv b) j) 0#128 127)).1 }
  | vfcmp (p a b k t c l : _) (w : Nat) (hw : w = fcBits t.toNat / 8) (r : Nat → Bool × Flags)
      (hr : r = fun j => compareNums (fourConds c) ((fmtOf t.toNat).read (element w (st.rv a) j)) ((fmtOf t.toNat).read (element w (st.rv b) j))) :
      TruthResult st (.vfcmp p a b k t c l)
      { w := w, l := l, p := p, value := fun j => isActive w (st.rk k) j && (r j).1,
        raised := fun j => if isActive w (st.rk k) j then (r j).2 else 0#6 }
  | vpres (p a f k l : _) : TruthResult st (.vpres p a f k l)
      { w := fcBits f.toNat / 8, l := l, p := p, value := fun j => isActive (fcBits f.toNat / 8) (st.rk k) j &&
          decide (absentCode f.toNat ≠ some (element (fcBits f.toNat / 8) (st.rv a) j)) }
  | vbnd (p a b t l : _) : TruthResult st (.vbnd p a b t l)
      { w := 2 ^ (t.toNat % 4), l := l, p := p, value := fun j => decide ((st.rg (gr a)).toNat + j < (st.rg (gr b)).toNat) }

/-- Some element raises a flag. -/
def raises (n : Nat) (raised : Nat → Flags) (f : Flags) : Prop := ∀ b, b < 6 → (f.getLsbD b = true ↔ ∃ j, j < n ∧ (raised j).getLsbD b = true)

/-! ### Predicates (R395) -/

inductive PredicateResult (st : Strand) : Instr → BitVec 3 → Pred → Prop
  | pand (d a b : _) : PredicateResult st (.pand d a b) d (st.rk a &&& st.rk b)
  | por (d a b : _) : PredicateResult st (.por d a b) d (st.rk a ||| st.rk b)
  | pxor (d a b : _) : PredicateResult st (.pxor d a b) d (st.rk a ^^^ st.rk b)
  | pandn (d a b : _) : PredicateResult st (.pandn d a b) d (st.rk a &&& ~~~(st.rk b))
  | pnot (d a : _) : PredicateResult st (.pnot d a) d (~~~(st.rk a))
  | pmov (d a k : _) : PredicateResult st (.pmov d a k) d ((st.rk a &&& st.rk k) ||| (st.rk d &&& ~~~(st.rk k)))

/-! ### Rooms, packets, queues, pegs and registers -/

/-- R169: the acceptance queue of the strand's context takes another vector operation. -/
def State.vectorRoom (s : State) : Prop := ((s.ctx (ctxOf s.cur)).vq.filter (fun t => decide (s.cycle < t))).length < 8

/-- A vector operation of a latency has been accepted and issued (R150, R169): the acceptance queue of the context changes, and nothing
else outside the strand. -/
def State.accepted (s t : State) (lam : Nat) (l : BitVec 4) (gw : List (BitVec 5 × Word)) (vw : List (BitVec 4 × Row))
    (kw : List (BitVec 3 × Pred)) (f : Flags) : Prop :=
  s.onlyContext t (fun c => { c with vq := (t.ctx (ctxOf s.cur)).vq }) ∧ s.sameBytes t ∧ ∃ n, lam < n ∧ s.issued t n l gw vw kw f none

/-- The active elements of a strided or indexed form with their addresses (R375). -/
def elementAddrs (st : Strand) (indexed : Bool) (a b : BitVec 4) (k t : BitVec 3) : List (Nat × Word) :=
  let w := if t = 3#3 then 8 else 4
  ((List.range (256 / w)).filter (fun j => isActive w (st.rk k) j)).map (fun j =>
    (j, if indexed then st.rg (gr a) + BitVec.ofNat 64 (w * element w (st.rv b) j) else st.rg (gr a) + BitVec.ofNat 64 j * st.rg (gr b)))

/-- The packets of a context that stand at its interface: those of a sender that it has not ended, and the others (R443). -/
def Ctx.mine (c : Ctx) (key : Nat) : List InPacket := c.staging.filter (fun p => p.sender == key && p.hdr.isNone)
def Ctx.others (c : Ctx) (key : Nat) : List InPacket := c.staging.filter (fun p => !(p.sender == key && p.hdr.isNone))

/-- No command of a context waits for a guard that is resolved: every head has met its guard (R162). -/
def Ctx.headsMet (c : Ctx) : Prop :=
  ∀ q e t, c.cmdList q = e :: t → ∀ n, e.guard = some n → tableGet Guard.unresolved c.guards n.toNat = .unresolved

/-- No command of a queue waits for a guard that is resolved (R162). -/
def Ctx.guardsMet (c : Ctx) (q : Nat) : Prop :=
  ∀ e ∈ c.cmdList q, ∀ n, e.guard = some n → tableGet Guard.unresolved c.guards n.toNat = .unresolved

/-- Depths of the queues (R159). -/
def depthOf (q : Nat) : Nat := if q ∈ [5, 6] then 8 else if q ∈ [0, 4, 7, 8] then 16 else 64

/-- No other strand of the context waits at a peg (R364). -/
def State.pegAlone (s : State) (i : Nat) : Prop :=
  ∀ n, n < 16 → strandKey (ctxOf s.cur) n ≠ s.cur → ∀ ph d, (s.strand (strandKey (ctxOf s.cur) n)).wait ≠ .pegw i ph d

/-- The capability words R326 gives as numbers. -/
def fixedWord (n : Nat) : Option Nat :=
  match n with
  | 0 => some 0x10003
  | 1 => some 2048
  | 2 => some 0xFFF
  | 4 => some 33554432
  | 5 => some 16
  | 6 => some 1536
  | 7 => some 3298534883328
  | 8 => some 1700000
  | 9 => some 850000
  | 13 => some 8
  | 14 => some 64
  | 15 => some 63
  | 16 => some 32
  | 17 => some 8
  | 18 => some 512
  | 19 => some 0x400400040
  | 20 => some 262144
  | 21 => some 65536
  | 22 => some 8
  | 23 => some 8
  | 24 => some 16384
  | 25 => some 0x220210000
  | 26 => some 0x3431
  | 29 => some 48
  | 30 => some 65536
  | 31 => some 0x4060
  | _ => none

/-- The bits of a CSR a strand can write, by number (R180, R181, R216, R314, R335); ASHAPE is apart. -/
def writableBits (n : Nat) : Nat :=
  if n ∈ [0x001, 0x002, 0x020, 0x021, 0x023, 0x024, 0x028, 0x029, 0x02B, 0x02C] then 2 ^ 64 - 4
  else if n ∈ [0x004, 0x022, 0x025, 0x02A, 0x02D] then 2 ^ 64 - 1
  else if n = 0x003 then 0x7F
  else if n = 0x005 then 0x1037FFF
  else if n ∈ [0x008, 0x00A] then 0x3F
  else if n ∈ [0x009, 0x026] then 3
  else if n = 0x030 then 0xFFFFFFFF
  else 0

/-! ### Commands (R293, R397–R399) -/

/-- A record of a command in progress is that of a header. -/
def Running.isOf (r : Running) (h : CmdHdr) : Bool := r.queue == h.queue.toNat && r.entry.seq == h.seq

/-- A command is in progress in the context the step looks at. -/
def State.works (s : State) (h : CmdHdr) (r : Running) : Prop :=
  r ∈ (s.ctx s.focus).running ∧ r.isOf h = true ∧ ∀ x ∈ (s.ctx s.focus).running, x.isOf h = true → x = r

/-- The commands in progress without it, and with its record changed. -/
def State.besides (s : State) (h : CmdHdr) : List Running := (s.ctx s.focus).running.filter (fun r => !r.isOf h)
def State.nowAt (s : State) (h : CmdHdr) (r : Running) : List Running := (s.ctx s.focus).running.map (fun x => if x.isOf h then r else x)

/-- A command is at the head of its queue and its engine may start it: no guard holds it or the command after it, the engine holds fewer than
16 completions, and the accesses released to it are performed (R158, R162, R163, R198). -/
def State.starts (s : State) (h : CmdHdr) (e : CmdEntry) (rest : List CmdEntry) : Prop :=
  (s.ctx s.focus).cmdList h.queue.toNat = e :: rest ∧ e.seq = h.seq ∧ e.guard = none ∧ (∀ x, rest.head? = some x → x.guard = none)
    ∧ s.cleared h e = true ∧ (∀ r ∈ (s.ctx s.focus).running, r.isOf h = false) ∧ ((s.ctx s.focus).posted.filter (fun p => p.queue == h.queue.toNat)).length < 16

/-- A completion of the command is a packet to its own context, which holds its tile and has a strand that goes on (R397); no command of its queue
has a guard that is resolved (R162). -/
def State.reports (s : State) (h : CmdHdr) : Prop :=
  h.peg = false ∧ s.hosted s.focus = true ∧ (s.ctx s.focus).guardsMet h.queue.toNat ∧ ∃ n, n < 16 ∧ (s.strand (strandKey s.focus n)).alive = true

/-- The cause of a status (R399). -/
def causeOf (status : Nat) : Nat :=
  match status with
  | 1 => 0x42
  | 3 => 0x43
  | 4 => 0x44
  | 5 => 0x45
  | 6 => 0x46
  | 7 => 0x27
  | _ => 0

/-- The completion packet of a command (R398, R399): status 1 and 2 carry neither flags nor a value, and no command raises inexact. -/
def State.ending (s : State) (h : CmdHdr) (status : Nat) (f : Flags) (value detail : Nat) : Completion :=
  let fl := if status = 1 ∨ status = 2 then 0#6 else f &&& 0x2F#6
  { queue := h.queue.toNat
    hdr := packetHeader (vtidOf s.focus) 7 2 1 (h.issuer ++ h.queue ++ h.cop ++ h.tag)
    status := BitVec.ofNat 64 (status + 256 * causeOf status + (if status = 1 ∨ status = 2 then 0 else 65536 * fl.toNat + 16777216 * value))
    detail := BitVec.ofNat 64 detail
    merge := some (strandKey s.focus h.issuer.toNat, fl) }

/-- Completions as they are posted in a cycle with what they release (R155, R199). -/
def posted (v : View) (now : Nat) (ps : List Completion) : List Completion := ps.map (fun p => { p with view := v, postedAt := now })

/-- An engine has changed its own context alone, by `f`, its commands in progress and its completions; the accounts and translation caches
of R109, R126, R190 and R248 may change beside, and the model's own counters of free values and of bank commands. -/
def State.engine (s t : State) (f : Ctx → Ctx) (rs : List Running) (ps : List Completion) : Prop :=
  t = { s with ctxs := t.ctxs, jobs := t.jobs, tiles := t.tiles, free := t.free, bankSeq := t.bankSeq } ∧ s.charged t
    ∧ ∃ v, ∀ c, t.ctx c = if c = s.focus then { (f (s.ctx c)) with running := rs, posted := (s.ctx c).posted ++ posted v s.cycle ps } else s.ctx c

/-- As `engine`, for a command that stores: the memories may change as well. -/
def State.engineStores (s t : State) (rs : List Running) (ps : List Completion) : Prop :=
  t = { s with ctxs := t.ctxs, jobs := t.jobs, tiles := t.tiles, free := t.free, bankSeq := t.bankSeq, rim := t.rim, rimfe := t.rimfe,
               hostMem := t.hostMem, peerMem := t.peerMem, unfenced := t.unfenced }
    ∧ s.charged t ∧ ∃ v, ∀ c, { (t.ctx c) with spm := [], spfe := [] } =
        if c = s.focus then { (s.ctx c) with running := rs, posted := (s.ctx c).posted ++ posted v s.cycle ps, spm := [], spfe := [] }
        else { (s.ctx c) with spm := [], spfe := [] }

/-- Bytes have been put at a place, and the full/empty bits of their words left, set (FEOP 1) or cleared (R408); nothing else reads
differently. The bytes are read back where no bit set is kept in one of their cells, which no address of the part brings about. -/
def State.putThere (s t : State) (l : Loc) (bs : List Byte) (feop : Nat) : Prop :=
  let words := if feop = 0 then 0 else (bs.length + 7) / 8
  ((∀ i j, i < bs.length → j < words → (l.plus i).cell ≠ (l.plus (8 * j)).bitCell) → t.readNat l bs.length = natOfBytes bs)
    ∧ (∀ i, i < words → t.fullAt (l.plus (8 * i)) = (feop == 1))
    ∧ (∀ k, l.outside bs.length k.cell → (∀ i, i < words → k.cell ≠ (l.plus (8 * i)).bitCell) → t.byteAt k = s.byteAt k)
    ∧ (∀ k, l.outside bs.length k.bitCell → (∀ i, i < words → k.bitCell ≠ (l.plus (8 * i)).bitCell) → t.fullAt k = s.fullAt k)

/-- Bytes of a block that an address reaches, of `n`. -/
def blockLen (a : Word) (n : Nat) : Nat := Nat.min (256 - a.toNat % 256) n

/-- A chunk's writes in flight: its bytes in the order of their addresses, each write inside one aligned word (R200, R407). -/
def piecesOf (l : Loc) (bs : List Byte) (feop : Nat) (ws : List LateWrite) : Prop :=
  (ws.map LateWrite.bytes).flatten = bs ∧ ∀ n w, ws[n]? = some w →
    w.loc = l.plus (((ws.take n).map LateWrite.bytes).flatten.length) ∧ w.feop = feop ∧ w.chunk = 0 ∧ w.bytes ≠ []
      ∧ (∀ i, i < w.bytes.length → (w.loc.plus i).word = w.loc.word)

/-- A chunk of a copy or of a delivery: where it comes from or what it holds, where it goes, and the progress after it. -/
structure Part where
  src : Option Word := none
  data : List Byte := []
  dst : Word
  len : Nat
  feop : Nat := 0
  done : Nat
  count : Nat := 0

/-- The next chunk of a copy in order (R407, R410): its source, or its data by the offset from DST. -/
def partFrom (r : Running) (src : Option Word) (data : Nat → Byte) (dst : Word) (len feop : Nat) : Part :=
  let a := dst + BitVec.ofNat 64 r.done
  let n := blockLen a (len - r.done)
  { src := src.map (fun x => x + BitVec.ofNat 64 r.done)
    data := if src = none then (List.range n).map (fun i => data (r.done + i)) else []
    dst := a, len := n, feop := feop, done := r.done + n }

/-- The next chunk of an element of a row copy, gather or scatter: elements of `size` bytes, from and to the places of the one in progress. -/
def partOfElement (r : Running) (src dst : Word) (size : Nat) : Part :=
  let a := dst + BitVec.ofNat 64 r.count
  let m := blockLen a (size - r.count)
  let whole := decide (size ≤ r.count + m)
  { src := some (src + BitVec.ofNat 64 r.count), dst := a, len := m, done := if whole then r.done + 1 else r.done
    count := if whole then 0 else r.count + m }

/-- The index of the element in progress: read from the scratchpad when the element starts, kept in the record from then on (R407). -/
def State.indexNow (s : State) (r : Running) (idx : BitVec 25) : Nat :=
  if r.count = 0 then s.ownNat s.focus (idx.toNat + 4 * r.done) 4 else r.buf

/-- The chunk a copy command in progress starts next, and what its record keeps beside its progress (R406–R409). -/
inductive PartOf (s : State) (r : Running) : Instr → CmdHdr → Nat → Part → Prop
  | cpy (h src dst len) (hd : r.done < len.toNat) : PartOf s r (.cpy h src dst len) h r.buf (partFrom r (some src) (fun _ => 0#8) dst len.toNat 0)
  | cpyf (h src dst len) (hd : r.done < len.toNat) : PartOf s r (.cpyf h src dst len) h r.buf (partFrom r (some src) (fun _ => 0#8) dst len.toNat 1)
  | cfill (h pat dst len feop) (hd : r.done < len.toNat) : PartOf s r (.cfill h pat dst len feop) h r.buf
      (partFrom r none (fun i => fieldAt (8 * ((dst + BitVec.ofNat 64 i).toNat % 8)) 8 pat) dst len.toNat feop.toNat)
  | cpyi (h data dst len feop) (hd : r.done < len.toNat) : PartOf s r (.cpyi h data dst len feop) h r.buf
      (partFrom r none (fun i => fieldAt (8 * i) 8 data) dst len.toNat feop.toNat)
  | cpy2 (h src dst rowlen nrows sstr dstr ssh dsh) (hn : r.done < nrows.toNat) (hd : r.count < rowlen.toNat) :
      PartOf s r (.cpy2 h src dst rowlen nrows sstr dstr ssh dsh) h r.buf
      (partOfElement r (src + BitVec.ofNat 64 (r.done * (sstr.toNat * 2 ^ ssh.toNat))) (dst + BitVec.ofNat 64 (r.done * (dstr.toNat * 2 ^ dsh.toNat)))
        rowlen.toNat)
  | cpyg (h src dst idx esz n) (hn : r.done < n.toNat) (hd : r.count < 2 ^ esz.toNat)
      (hl : r.count = 0 → s.ownLocked s.focus (idx.toNat + 4 * r.done) 4 = false) : PartOf s r (.cpyg h src dst idx esz n) h (s.indexNow r idx)
      (partOfElement r (src + BitVec.ofNat 64 (s.indexNow r idx * 2 ^ esz.toNat)) (dst + BitVec.ofNat 64 (r.done * 2 ^ esz.toNat)) (2 ^ esz.toNat))
  | cpys (h src dst idx esz n) (hn : r.done < n.toNat) (hd : r.count < 2 ^ esz.toNat)
      (hl : r.count = 0 → s.ownLocked s.focus (idx.toNat + 4 * r.done) 4 = false) : PartOf s r (.cpys h src dst idx esz n) h (s.indexNow r idx)
      (partOfElement r (src + BitVec.ofNat 64 (r.done * 2 ^ esz.toNat)) (dst + BitVec.ofNat 64 (s.indexNow r idx * 2 ^ esz.toNat)) (2 ^ esz.toNat))

/-- Every chunk of a command that writes to memory has started, and VALUE at its end (R399, R403, R406, R415–R417). -/
inductive AllStarted (s : State) (r : Running) : Instr → CmdHdr → Nat → Prop
  | cpy (h src dst len) (hd : len.toNat ≤ r.done) : AllStarted s r (.cpy h src dst len) h r.done
  | cpyf (h src dst len) (hd : len.toNat ≤ r.done) : AllStarted s r (.cpyf h src dst len) h r.done
  | cfill (h pat dst len feop) (hd : len.toNat ≤ r.done) : AllStarted s r (.cfill h pat dst len feop) h r.done
  | cpyi (h data dst len feop) (hd : len.toNat ≤ r.done) : AllStarted s r (.cpyi h data dst len feop) h r.done
  | cpy2 (h src dst rowlen nrows sstr dstr ssh dsh) (hd : nrows.toNat ≤ r.done) :
      AllStarted s r (.cpy2 h src dst rowlen nrows sstr dstr ssh dsh) h r.done
  | cpyg (h src dst idx esz n) (hd : n.toNat ≤ r.done) : AllStarted s r (.cpyg h src dst idx esz n) h r.done
  | cpys (h src dst idx esz n) (hd : n.toNat ≤ r.done) : AllStarted s r (.cpys h src dst idx esz n) h r.done
  | mdrain (h row0 nrows mode ofmt clr daddr dstride) (hd : r.done = nrows.toNat) :
      AllStarted s r (.mdrain h row0 nrows mode ofmt 1#1 clr daddr dstride) h r.done
  | tred (h op type src dst n) (hd : n.toNat * fcBytes type.toNat + (if op = 3#2 then 4 * n.toNat else 0) ≤ r.done) :
      AllStarted s r (.tred h op type 0#1 src dst n) h r.count
  | tbcast (h src dst len) (hd : len.toNat ≤ r.done) : AllStarted s r (.tbcast h src dst len) h r.count
  | tscat (h src dst len) (hd : len.toNat ≤ r.done) : AllStarted s r (.tscat h src dst len) h r.count
  | tgath (h src dst len) (hd : (s.members (jobOf s.focus) (s.gangNo s.focus)).length * len.toNat ≤ r.done) :
      AllStarted s r (.tgath h 0#1 src dst len) h r.count

/-- The chunk a delivering truss command starts next: its address, the bytes in its result (R415–R417). The slice of a context that had
retired when the operation started is not written, so a TGATH writes only those of the others. -/
inductive TrussPart (s : State) (r : Running) : Instr → CmdHdr → Word → Nat → Nat → Prop
  | values (h op type src dst n) (m : Nat) (hd : r.done < n.toNat * fcBytes type.toNat)
      (hm : m = blockLen (dst + BitVec.ofNat 64 r.done) (n.toNat * fcBytes type.toNat - r.done)) :
      TrussPart s r (.tred h op type 0#1 src dst n) h (dst + BitVec.ofNat 64 r.done) r.done m
  | counts (h type src dst n) (n1 o m : Nat) (a : Word) (h1 : n1 = n.toNat * fcBytes type.toNat) (ho : r.done = n1 + o) (hd : o < 4 * n.toNat)
      (ha : a = dst + BitVec.ofNat 64 ((n1 + 7) / 8 * 8 + o)) (hm : m = blockLen a (4 * n.toNat - o)) :
      TrussPart s r (.tred h 3#2 type 0#1 src dst n) h a ((n1 + 255) / 256 * 256 + o) m
  | tbcast (h src dst len) (m : Nat) (hd : r.done < len.toNat) (hm : m = blockLen (dst + BitVec.ofNat 64 r.done) (len.toNat - r.done)) :
      TrussPart s r (.tbcast h src dst len) h (dst + BitVec.ofNat 64 r.done) r.done m
  | tscat (h src dst len) (m : Nat) (hd : r.done < len.toNat) (hm : m = blockLen (dst + BitVec.ofNat 64 r.done) (len.toNat - r.done)) :
      TrussPart s r (.tscat h src dst len) h (dst + BitVec.ofNat 64 r.done) r.done m
  | tgath (h src dst len) (ms : List Nat) (m : Nat) (hs : ms = s.members (jobOf s.focus) (s.gangNo s.focus)) (hd : r.done < ms.length * len.toNat)
      (hl : r.buf.testBit (r.done / len.toNat) = false)
      (hm : m = Nat.min (blockLen (dst + BitVec.ofNat 64 r.done) (ms.length * len.toNat - r.done)) (len.toNat - r.done % len.toNat)) :
      TrussPart s r (.tgath h 0#1 src dst len) h (dst + BitVec.ofNat 64 r.done) r.done m

/-- Element `n` of a bank command in progress: whether it goes to q9, where y stands, whether it has counts, how many elements there are, VALUE at
the end, and the element (R68, R419–R421). -/
inductive BankElement (s : State) (r : Running) (n : Nat) : Instr → CmdHdr → Bool → Word → BitVec 1 → Nat → Nat → Partial → Prop
  | bmv (h waddr xaddr yaddr m k wfmt acc yq ycnt) (c : BankMv) (p : Partial)
      (hc : c = ⟨bankVa waddr.toNat 16, bankVa xaddr.toNat 8, wfmt.toNat, m.toNat, k.toNat⟩)
      (hp : s.withPrev s.focus (r.bankBy s.focus) acc ycnt (bankVa yaddr.toNat 8) n
        (s.bmvElement s.focus (r.bankBy s.focus) c n (segCount wfmt.toNat k.toNat)) = .ok p) :
      BankElement s r n (.bmv h waddr xaddr yaddr m k wfmt acc yq ycnt) h (yq == 1#1) (bankVa yaddr.toNat 8) ycnt m.toNat
        (8 * m.toNat * segCount wfmt.toNat k.toNat) p
  | bmvt (h waddr xaddr yaddr m k wfmt acc yq ycnt) (c : BankMv) (p : Partial)
      (hc : c = ⟨bankVa waddr.toNat 16, bankVa xaddr.toNat 8, wfmt.toNat, m.toNat, k.toNat⟩)
      (hp : s.withPrev s.focus (r.bankBy s.focus) acc ycnt (bankVa yaddr.toNat 8) n
        (s.bmvtElement s.focus (r.bankBy s.focus) c n m.toNat) = .ok p) :
      BankElement s r n (.bmvt h waddr xaddr yaddr m k wfmt acc yq ycnt) h (yq == 1#1) (bankVa yaddr.toNat 8) ycnt k.toNat
        (8 * m.toNat * segCount wfmt.toNat k.toNat) p
  | bread (h yaddr m ycnt) (v : Nat)
      (hv : s.bankWords s.focus (r.bankBy s.focus) ((bankVa yaddr.toNat 8 + BitVec.ofNat 64 (n * (if ycnt = 1#1 then 8 else 4))) &&& ~~~7#64) 1 true
        = .ok v) :
      BankElement s r n (.bread h yaddr m ycnt) h true (bankVa yaddr.toNat 8) ycnt m.toNat m.toNat
        { val := some (if ycnt = 1#1 then v % 4294967296 else v / 2 ^ (32 * (n % 2)) % 4294967296),
          cnt := if ycnt = 1#1 then v / 4294967296 % 16777216 else 0 }
  | bzero (h yaddr m ycnt) : BankElement s r n (.bzero h yaddr m ycnt) h false (bankVa yaddr.toNat 8) ycnt m.toNat m.toNat {}

/-! ### Records (R86–R92, R239) -/

/-- The state in which a record acts, and the record: it starts now unless it had (R90). -/
def State.begun (s : State) (r : HostRecord) : State := if r.started then s else (s.startRecord s.input.queue r).1
def State.asBegun (s : State) (r : HostRecord) : HostRecord := if r.started then r else { r with started := true, startAt := s.ticks }

/-- A record of the queue of the event has completed with a status and a VALUE: CTAIL has risen, and in a ring in host memory the completion
holds SEQ, TYPE, STATUS, VALUE and PHASE (R88, R89). -/
def State.recordDone (s t : State) (r : HostRecord) (status value : Nat) : Prop :=
  let q := s.input.queue
  let b := s.queue q
  let n := 2 ^ (4 + b.size.toNat)
  let a := 32 * b.cbase.toNat + 32 * (b.ctail.toNat % n)
  let word := fun (i : Nat) => t.readNat (.host b.port.toNat (a + 8 * i)) 8
  (t.queue q).ctail = b.ctail + 1#32 ∧
    (b.loc = false → word 0 = r.seq.toNat + r.type * 2 ^ 32 + status * 2 ^ 40 ∧ word 1 = value % 2 ^ 64 ∧ word 3 = 1 - b.ctail.toNat / n % 2)

/-- A place lies outside the 32 bytes in which a queue's next completion is put, in host memory or in rim memory (R85, R89). -/
def State.besidesSlot (s : State) (q : Nat) (l : Loc) : Prop :=
  let b := s.queue q
  let a := 32 * b.cbase.toNat + 32 * (b.ctail.toNat % 2 ^ (4 + b.size.toNat))
  ∀ i, i < 4 → ∀ m, s.ringLoc b.loc b.port.toNat (a + 8 * i) = some m → m.outside 8 l.cell

/-- Bytes stand at a place and every other byte reads as before, but for those of the queue's next completion where `ring` says so. -/
def State.putBeside (s t : State) (q : Nat) (ring : Prop) (l : Loc) (bs : List Byte) : Prop :=
  (∀ i, i < bs.length → (ring → s.besidesSlot q (l.plus i)) → t.byteAt (l.plus i) = bs.getD i 0#8)
    ∧ (∀ k, l.outside bs.length k.cell → (ring → s.besidesSlot q k) → t.byteAt k = s.byteAt k)

/-- A DBG record of the host acts: it is the next of its queue, has not been answered, names a live job that its tenant may touch, and a
context of it (R239). -/
def State.debugs (s : State) (r : HostRecord) : Prop :=
  let x := s.begun r
  let q := s.input.queue
  s.recordNow = some r ∧ q < 64 ∧ x.dbgBefore q (s.asBegun r) = false ∧ r.answered = false ∧ r.owed = 0#64 ∧ r.sum = 0
    ∧ x.debuggable q r.dbgHandle = true ∧ ((x.queue q).pfq = true ∨ (x.queue q).ten.toNat = (x.job r.dbgHandle).tenant)
    ∧ r.dbgVtid < recTiles (x.job r.dbgHandle).record

/-- It acts on this module alone: no other runs the context, and none has to be asked (R244). -/
def State.debugsHere (s : State) (r : HostRecord) : Prop :=
  s.debugs r ∧ (s.begun r).awayAt r.dbgCtx = none ∧ (s.begun r).dbgOthers s.input.queue (s.asBegun r) = []

/-- The mailbox has taken a request and holds its reply (R40). -/
def State.replied (t : State) (ws : List Word) : Prop := t.laroon.mailbox = { status := .done, reply := ws }

/-! ### The slot (R146–R149) -/

/-- The strand that owns the slot may issue: its context is here, awake and live, nothing stops the strand at this boundary, no late response
of it is an error, no latency runs and it waits for nothing that comes from elsewhere (R146, R147, R219, R226, R243, R337). -/
def State.mayIssue (s : State) : Prop :=
  s.hosted (ctxOf s.cur) = true ∧ (s.ctx (ctxOf s.cur)).live = true ∧ s.status.pstate = 0#3 ∧ s.power.awakeAt ≤ s.cycle
    ∧ s.me.stopped = false ∧ s.me.mayStop = false ∧ s.me.quiet = false ∧ s.failed s.cur = none ∧ s.failedWait s.cur = none
    ∧ (s.me.pend = none ∨ s.me.trap.ha = true ∨ s.me.joint.locked = true) ∧ s.me.readyAt ≤ s.cycle ∧ s.me.wait.parked = false
    ∧ (s.atBreakpoint s.cur = false ∨ s.me.joint.locked = true)

/-- A word stands at the PC of the strand that owns the slot: the PC lies in a code section, is a multiple of 4 and translates, and the
instruction cache of the tile holds the line (R176, R182). -/
def State.fetches32 (s : State) (w : BitVec 32) : Prop :=
  let c := ctxOf s.cur
  let tn := (s.job (jobOf c)).tenant
  s.inCode tn s.me.pc = true ∧ s.me.pc.toNat % 4 = 0 ∧ (∃ l tlb, s.lineAt c s.me.pc = .at l tlb) ∧
    ∃ line, (s.tile (s.ptid c)).findLine tn (natAt 0 49 s.me.pc / 256) = some line ∧ w = fieldAt (s.me.pc.toNat % 256 * 8) 32 line.bytes

end Sys2Proof.Machine
end

