-- ==== Sys2Proof/Certificates/Slice0/Obligations.lean ====
section
/-! DEFINITION. The statements for the provers. Every conclusion about an instruction says that `exec` answers a next state and what that
state holds; `Safety` has the words for frames, `Expected` what the tables of the spec give. -/

open Sys2Proof Sys2Proof.Machine

/-! ### Scalar instructions -/

/-- R305, R307, R308: the INT forms, CMP and the Immediate forms write their result to g(d) and nothing else. -/
def Obligations.IntegerResults : Prop :=
  ∀ (s : State) (i : Instr) (d : BitVec 5) (x : Word), IntResult s.me i d x →
    ∃ t, exec i s = .next t ∧ s.computes t [d] ∧ (s.then t).holdsG d x

/-- R150, R306: products, quotients and remainders of a divisor that is not zero, with and without lookahead.
R306: a zero divisor traps with 0x16 before any result, TVAL the PC. -/
def Obligations.ProductsAndQuotients : Prop :=
  (∀ (s : State) (i : Instr) (d : BitVec 5) (l : BitVec 4) (lam : Nat) (x : Word), WideResult s.me i d l lam x →
    ∃ t, exec i s = .next t ∧ s.onlyStrand t ∧ s.issued t lam l [(d, x)] [] [] 0#6 none) ∧
  (∀ (s : State) (i : Instr), DivisorOf s.me i 0#64 → s.trapReady → ∃ t, exec i s = .next t ∧ s.takesTrap t 0x16 s.me.pc)

/-- R150, R309, R310: scalar floating point writes the rounded result, zero-extended, and its flags.
R215, R220: an operation without a window whose flag is enabled writes its result and its flags and takes the trap of the lowest such
flag, TVAL its own PC and TPC the instruction after it. -/
def Obligations.FloatingPoint : Prop :=
  (∀ (s : State) (i : Instr) (d : BitVec 5) (l : BitVec 4) (lam x : Nat) (f : Flags), FloatResult s.me i d l lam (x, f) →
    s.quietFlags l f → ∃ t, exec i s = .next t ∧ s.onlyStrand t ∧ s.issued t lam l [(d, BitVec.ofNat 64 x)] [] [] f none) ∧
  (∀ (s : State) (i : Instr) (d : BitVec 5) (lam x : Nat) (f : Flags), FloatResult s.me i d 0#4 lam (x, f) →
    f &&& s.me.fen ≠ 0#6 → s.trapReady →
    ∃ t, exec i s = .next t ∧ s.onlyStrand t ∧ (s.then t).pc = s.me.trap.tvec ∧ (s.then t).trap.tpc = s.me.advance.pc &&& ~~~3#64
      ∧ (s.then t).trap.tval = s.me.pc ∧ (s.then t).trap.ha = true ∧ (s.then t).fflags = s.me.fflags ||| f
      ∧ (s.then t).holdsG d (BitVec.ofNat 64 x) ∧ (∀ r, r ≠ d → (s.then t).rg r = s.me.rg r)
      ∧ ∃ b, b < 6 ∧ (s.then t).trap.tcause = BitVec.ofNat 7 (0x10 + b) ∧ (f &&& s.me.fen).getLsbD b = true
          ∧ ∀ c, c < b → (f &&& s.me.fen).getLsbD c = false)

/-- R311: a branch that is taken goes to its target, one that is not goes on with the loop redirect; CALL writes g1.
R312: CALLR, RET and JR go to a target that is a multiple of 4, and CALLR writes g1; any other target traps with 0x06, TVAL the
target. -/
def Obligations.BranchesAndJumps : Prop :=
  (∀ (s : State) (i : Instr) (taken : Bool) (target : Word) (links : List (BitVec 5 × Word)),
    BranchOf s.me i taken target links →
    ∃ t, exec i s = .next t ∧ s.onlyStrand t ∧ s.me.frame (s.then t) (links.map (·.1)) [] [] ∧ (∀ p ∈ links, (s.then t).holdsG p.1 p.2)
      ∧ (s.then t).fflags = s.me.fflags ∧ (if taken then s.me.movesTo (s.then t) target else s.me.movesOn (s.then t))) ∧
  (∀ (s : State) (i : Instr) (target : Word) (links : List (BitVec 5 × Word)), JumpOf s.me i target links →
    (target.toNat % 4 = 0 → ∃ t, exec i s = .next t ∧ s.onlyStrand t ∧ s.me.frame (s.then t) (links.map (·.1)) [] []
      ∧ (∀ p ∈ links, (s.then t).holdsG p.1 p.2) ∧ (s.then t).fflags = s.me.fflags ∧ s.me.movesTo (s.then t) target) ∧
    (target.toNat % 4 ≠ 0 → s.trapReady → ∃ t, exec i s = .next t ∧ s.takesTrap t 0x06 target))

/-- R313: JTAB reads the count; at or past it the strand goes on; below it JTAB reads the entry and goes to its displacement. -/
def Obligations.TableJumpsGo : Prop :=
  ∀ (s : State) (a b : BitVec 5) (l : Loc) (tlb : Tlb), let c := ctxOf s.cur
    let u := s.withTlb c tlb
    s.resolve c (s.me.spill (a == 2#5)) { rd := true, size := 4, align := 4 } (s.me.rg a) = .at l tlb → s.performed → s.reachable l 4 →
    (s.loadNat l 4 s.cur ≤ (s.me.rg b).toNat → ∃ t, exec (.jtab a b) s = .next t ∧ s.onlyAccess t ∧ s.leaves t s.me []) ∧
    (∀ (m : Loc) (tlb2 : Tlb), (s.me.rg b).toNat < s.loadNat l 4 s.cur →
      u.resolve c (s.me.spill (a == 2#5)) { rd := true, size := 4, align := 4 }
        (BitVec.ofNat 64 ((s.me.rg a).toNat + 4 + 4 * (s.me.rg b).toNat)) = .at m tlb2 → s.reachable m 4 →
      ∃ t, exec (.jtab a b) s = .next t ∧ s.onlyAccess t ∧ s.me.frame (s.then t) [] [] [] ∧ (s.then t).fflags = s.me.fflags
        ∧ s.me.movesTo (s.then t) (displaced s.me (BitVec.ofNat 32
          (((s.loaded l s.cur).synchronise s.cur { op := .load 4 false, loc := l, va := s.me.rg a, dest := 0#5 }).loadNat m 4 s.cur))))

/-- R315: LOOP with a body and a count sets the level and enters it; with a count of 0 it skips the body; without a body it traps with
0x07.
R317, R318: LOOPX ends the named levels and branches where g(a) is not zero, and does nothing where it is; LCLR clears the named
levels; LSET activates them, or traps with 0x07 where one does not fit. The redirect after LCLR and LSET is decided before them.
R316: after an instruction at the end of an active inner loop the count goes down and the body starts again, or the level ends and the
outer level is looked at; an instruction at no loop end goes on to the next one. -/
def Obligations.LoopInstructions : Prop :=
  (∀ (s : State) (a : BitVec 5) (n : BitVec 1) (i : BitVec 15),
    let next := BitVec.ofNat 64 (s.me.pc.toNat + 4)
    let last := displaced s.me i
    (1 ≤ i.toInt → s.me.rg a ≠ 0#64 → ∃ t, exec (.loop a n i) s = .next t ∧ s.onlyStrand t
      ∧ s.leaves t (s.me.withLevel n next last (s.me.rg a) true) []) ∧
    (1 ≤ i.toInt → s.me.rg a = 0#64 → ∃ t, exec (.loop a n i) s = .next t ∧ s.onlyStrand t ∧ s.me.frame (s.then t) [] [] []
      ∧ (s.then t).fflags = s.me.fflags ∧ (s.me.withLevel n next last 0#64 false).movesTo (s.then t) (last + 4#64)) ∧
    (i.toInt < 1 → s.trapReady → ∃ t, exec (.loop a n i) s = .next t ∧ s.takesTrap t 0x07 (wordVal (.loop a n i)))) ∧
  (∀ (s : State) (a : BitVec 5) (m : BitVec 2) (i : BitVec 15),
    (s.me.rg a ≠ 0#64 → ∃ t, exec (.loopx a m i) s = .next t ∧ s.onlyStrand t ∧ s.me.frame (s.then t) [] [] []
      ∧ (s.then t).fflags = s.me.fflags ∧ (s.then t).pc = displaced s.me i
      ∧ ∀ n, (s.then t).level n = if n ∈ levelsOf m then ((s.me.level n).1, (s.me.level n).2.1, 0#64, false) else s.me.level n) ∧
    (s.me.rg a = 0#64 → ∃ t, exec (.loopx a m i) s = .next t ∧ s.computes t []) ∧
    (∃ t, exec (.lclr m) s = .next t ∧ s.onlyStrand t ∧ s.me.frame (s.then t) [] [] [] ∧ (s.then t).fflags = s.me.fflags
      ∧ (s.then t).pc = s.me.advance.pc
      ∧ ∀ n, (s.then t).level n = if n ∈ levelsOf m then (0#64, 0#64, 0#64, false) else s.me.advance.level n) ∧
    ((∀ n ∈ levelsOf m, s.me.levelFit n) → ∃ t, exec (.lset m) s = .next t ∧ s.onlyStrand t ∧ s.me.frame (s.then t) [] [] []
      ∧ (s.then t).fflags = s.me.fflags ∧ (s.then t).pc = s.me.advance.pc
      ∧ ∀ n, (s.then t).level n = if n ∈ levelsOf m then
          ((s.me.advance.level n).1, (s.me.advance.level n).2.1, (s.me.advance.level n).2.2.1, true) else s.me.advance.level n) ∧
    ((∃ n ∈ levelsOf m, ¬ s.me.levelFit n) → s.trapReady → ∃ t, exec (.lset m) s = .next t ∧ s.takesTrap t 0x07 (wordVal (.lset m)))) ∧
  (∀ (st : Strand),
    (st.lstat.getLsbD 1 = true → st.pc = st.loops.le1 → 1 < st.loops.lc1.toNat →
      st.advance.pc = st.loops.lb1 ∧ st.advance.loops = { st.loops with lc1 := st.loops.lc1 - 1#64 } ∧ st.advance.lstat = st.lstat) ∧
    (st.lstat.getLsbD 1 = true → st.pc = st.loops.le1 → st.loops.lc1.toNat ≤ 1 →
      st.advance.loops.lc1 = 0#64 ∧ st.advance.lstat.getLsbD 1 = false) ∧
    ((st.lstat.getLsbD 1 = false ∨ st.pc ≠ st.loops.le1 ∨ st.loops.lc1.toNat ≤ 1) → st.lstat.getLsbD 0 = true → st.pc = st.loops.le0 →
      (1 < st.loops.lc0.toNat → st.advance.pc = st.loops.lb0 ∧ st.advance.loops.lc0 = st.loops.lc0 - 1#64
        ∧ st.advance.lstat.getLsbD 0 = true) ∧
      (st.loops.lc0.toNat ≤ 1 → st.advance.pc = st.pc + 4#64 ∧ st.advance.loops.lc0 = 0#64 ∧ st.advance.lstat.getLsbD 0 = false)) ∧
    ((st.lstat.getLsbD 1 = false ∨ st.pc ≠ st.loops.le1) → (st.lstat.getLsbD 0 = false ∨ st.pc ≠ st.loops.le0) →
      st.advance.pc = st.pc + 4#64 ∧ st.advance.loops = st.loops ∧ st.advance.lstat = st.lstat))

/-! ### Memory -/

/-- R336, R338, R340, R341: a load whose checks pass and whose place is reached brings the value, extended as its form says, to g(d); a
relaxed load with lookahead is outstanding with the value still to come. Nothing but translation caches and energy changes beside. -/
def Obligations.LoadsComplete : Prop :=
  ∀ (s : State) (i : Instr) (f : Form) (l : Loc) (tlb : Tlb), LoadForm s.me i f →
    s.resolve (ctxOf s.cur) (s.me.spill f.g2) { rd := true, size := f.size, align := f.size } f.va = .at l tlb → s.performed →
    s.reachable l f.size →
    ∃ t lam, exec i s = .next t ∧ s.latency (ctxOf s.cur) l false ≤ lam ∧ s.onlyAccess t ∧
      (if f.late then s.issued t lam f.l [] [] [] 0#6 (some (f.access s.me (.load f.size f.signed) l))
       else s.issued t lam f.l [(f.d, (if f.signed then asSigned else asUnsigned) (8 * f.size) (s.loadNat l f.size s.cur))] [] [] 0#6 none)

/-- R195, R336, R338, R340: a store whose checks pass and whose place is reached puts its bytes there and changes no other byte; a relaxed
store with lookahead is outstanding. -/
def Obligations.StoresComplete : Prop :=
  ∀ (s : State) (i : Instr) (f : Form) (l : Loc) (tlb : Tlb), StoreForm s.me i f →
    s.resolve (ctxOf s.cur) (s.me.spill f.g2) { wr := true, size := f.size, align := f.size } f.va = .at l tlb → s.performed →
    s.reachable l f.size → s.unwatched l f.size →
    ∃ t lam, exec i s = .next t ∧ s.latency (ctxOf s.cur) l false ≤ lam ∧
      (if f.late then s.onlyAccess t ∧ s.issued t lam f.l [] [] [] 0#6 (some (f.access s.me (.store f.size f.data) l))
       else s.onlyStore t ∧ s.issued t lam f.l [] [] [] 0#6 none ∧ s.stored t l f.size (f.data.toNat % 256 ^ f.size))

/-- R205, R342: a full/empty form whose condition holds reads or writes its word and leaves its bit as the form says; no other byte and no
other bit changes.
R206: a full/empty form whose condition does not hold joins the tail of the wait list of its word and the strand waits in MEMWAIT with
its PC at it; a full controller refuses it for 64 or 256 cc. -/
def Obligations.FullEmptyForms : Prop :=
  (∀ (s : State) (i : Instr) (f : Form) (l : Loc) (tlb : Tlb), FullEmptyForm s.me i f →
    s.resolve (ctxOf s.cur) (s.me.spill f.g2) (fullEmptyNeed f.fn) f.va = .at l tlb → s.performed → s.reachable l 8 → s.unwatched l 8 →
    fullEmptyGoes f.fn (s.fullAt l) →
    ∃ t lam, exec i s = .next t ∧ s.latency (ctxOf s.cur) l false ≤ lam ∧ s.onlyStore t ∧
      s.issued t lam 0#4 (if f.fn ∈ [0, 1] then [(f.d, BitVec.ofNat 64 (s.loadNat l 8 s.cur))]
                          else if f.fn = 4 then [(f.d, if s.fullAt l then 1#64 else 0#64)] else []) [] [] 0#6 none ∧
      s.storedFull t l (if f.fn ∈ [2, 3] then 8 else 0) (if f.fn ∈ [2, 3] then f.data.toNat else 0) (fullEmptyLeaves f.fn (s.fullAt l))) ∧
  (∀ (s : State) (i : Instr) (f : Form) (l : Loc) (tlb : Tlb), FullEmptyForm s.me i f →
    s.resolve (ctxOf s.cur) (s.me.spill f.g2) (fullEmptyNeed f.fn) f.va = .at l tlb → s.performed → s.reachable l 8 →
    ¬ fullEmptyGoes f.fn (s.fullAt l) →
    ∃ t, exec i s = .next t ∧ s.sameStrands t ∧ s.sameBytes t ∧
      (s.waitFull l = false → t = { s with strands := t.strands, tiles := t.tiles, waiters := t.waiters }
        ∧ t.waiters = s.waiters ++ [⟨s.cur, f.access s.me (.fullEmpty f.fn f.data) l⟩]
        ∧ s.then t = { s.me with state := .memwait, wait := .fullEmpty }) ∧
      (s.waitFull l = true → t = { s with strands := t.strands, tiles := t.tiles }
        ∧ s.then t = { s.me with state := .memwait, wait := .refused,
                                 readyAt := s.cycle + (match l with | .spm _ _ => 64 | _ => 256) }))

/-- R343, R344: an atomic brings the old value, zero-extended, to g(d) and stores the new one; CAS stores only where the word equals the
old g(d). A relaxed atomic with lookahead is outstanding. -/
def Obligations.AtomicsComplete : Prop :=
  ∀ (s : State) (i : Instr) (f : Form) (l : Loc) (tlb : Tlb), AtomicForm s.me i f →
    s.resolve (ctxOf s.cur) (s.me.spill f.g2) { rd := true, wr := true, noHost := f.fn ∉ [0, 1, 9], size := f.size, align := f.size } f.va
      = .at l tlb → s.performed → s.reachable l f.size → s.unwatched l f.size →
    let x := s.readNat l f.size
    ∃ t lam, exec i s = .next t ∧ s.latency (ctxOf s.cur) l false ≤ lam ∧
      (if f.late then s.onlyAccess t ∧
         s.issued t lam f.l [] [] [] 0#6 (some (f.access s.me (.atomic f.fn f.size f.data f.cmp) l))
       else s.onlyStore t ∧ s.issued t lam f.l [(f.d, BitVec.ofNat 64 x)] [] [] 0#6 none ∧
         (match atomicWritten f.fn f.size x (f.data.toNat % 256 ^ f.size) (f.cmp.toNat % 256 ^ f.size) with
          | some v => s.stored t l f.size v
          | none => s.sameBytes t))

/-- R345: a WAIT form whose test holds brings the word to g(d); one whose test fails waits in MEMWAIT, or with lookahead stays outstanding
in the wait list of its word. -/
def Obligations.WaitForms : Prop :=
  ∀ (s : State) (i : Instr) (f : Form) (l : Loc) (tlb : Tlb), WaitForm s.me i f →
    s.resolve (ctxOf s.cur) (s.me.spill f.g2) { rd := true, noHost := true } f.va = .at l tlb → s.performed → s.reachable l 8 →
    s.waitFull l = false → let v := BitVec.ofNat 64 (s.readNat l 8)
    let a : Access := f.access s.me (.waitForm f.fn f.data) l
    ∃ t lam, exec i s = .next t ∧ s.latency (ctxOf s.cur) l false ≤ lam ∧ s.sameStrands t ∧ s.sameBytes t ∧
      (waitGoes f.fn v f.data → s.onlyAccess t ∧ s.issued t lam f.l [(f.d, v)] [] [] 0#6 none) ∧
      (¬ waitGoes f.fn v f.data → t = { s with strands := t.strands, jobs := t.jobs, tiles := t.tiles, waiters := s.waiters ++ [⟨s.cur, a⟩] } ∧
        (if f.l = 0#4 then s.then t = { s.me with state := .memwait, wait := .waitForm }
         else s.charged t ∧ s.issued t lam f.l [] [] [] 0#6 (some a)))

/-- R183, R189, R213: an access whose checks fail with a cause that a handler takes has no effect but that trap, TVAL the address.
R222, R223: an access whose checks fail with a cause of the driver holds the strand in MEMWAIT with its PC at it and queues a fault
record; where the tenant's fault ring is not enabled the job ends.
R103: an unprefixed access to a host page that is answered with an error traps with 0x2C, and one that is not answered waits.
R210: an access to a word that another strand's JCLOSE has locked waits with its PC at it; that it issues again in each slot until the joint
decides is log 21. -/
def Obligations.AccessChecks : Prop :=
  (∀ (s : State) (i : Instr) (f : Form) (need : Need) (cause : Nat) (tval : Word), AccessForm s.me i f need →
    s.resolve (ctxOf s.cur) (s.me.spill f.g2) need f.va = .fails cause tval → holds cause = false → s.trapReady →
    ∃ t, exec i s = .next t ∧ s.takesTrap t cause tval) ∧
  (∀ (s : State) (i : Instr) (f : Form) (need : Need) (cause : Nat) (tval : Word), AccessForm s.me i f need →
    s.resolve (ctxOf s.cur) (s.me.spill f.g2) need f.va = .fails cause tval → holds cause = true → s.me.out = [] →
    let h := jobOf (ctxOf s.cur)
    let n := (s.job h).tenant
    ∃ t, exec i s = .next t ∧
      ((s.ring n).en = true → t = { s with strands := t.strands, fault := t.fault, env := t.env, stackTab := t.stackTab, msix := t.msix,
                                           rasAt := t.rasAt } ∧ s.sameStrands t ∧ s.sameBytes t
        ∧ (cause ≠ 0x50 ∨ s.sound → t = { s with strands := t.strands, fault := t.fault })
        ∧ s.then t = { s.me with state := .memwait, wait := .none, held := some (BitVec.ofNat 8 cause, tval) }
        ∧ (t.ring n).waiting = (s.ring n).waiting ++ [⟨BitVec.ofNat 8 cause, 0#8, BitVec.ofNat 8 (stridOf s.cur),
            BitVec.ofNat 16 (vtidOf (ctxOf s.cur)), BitVec.ofNat 64 h, tval, s.me.pc⟩]) ∧
      ((s.ring n).en = false → (t.job h).phase = .ended)) ∧
  (∀ (s : State) (i : Instr) (f : Form) (need : Need) (l : Loc) (tlb : Tlb), AccessForm s.me i f need →
    s.resolve (ctxOf s.cur) (s.me.spill f.g2) need f.va = .at l tlb → s.performed →
    (s.lockedFor s.cur l f.size = true → ∃ t, exec i s = .next t ∧ t = { s with strands := t.strands, tiles := t.tiles } ∧ s.sameStrands t
      ∧ s.then t = { s.me with state := .memwait, wait := .locked }) ∧
    (s.lockedFor s.cur l f.size = false → f.rx = false → let u := s.withTlb (ctxOf s.cur) tlb
      (s.hostAnswer l = .refuses → s.trapReady → ∃ t, exec i s = .next t ∧ u.takesTrap t 0x2C (f.reported s.me)) ∧
      (s.hostAnswer l = .silent → (∀ v n, s.me.wait ≠ .hostPort v n) → ∃ t, exec i s = .next t
        ∧ u.waitsIn t .memwait (.hostPort (f.reported s.me) s.cycle))))

/-! ### Vectors and predicates -/

/-- R367, R368, R380–R383, R385, R389, R392–R394: element operations write each active element of v(d), keep the others, and raise the
flags of their active elements.
R374, R384, R392: compares, presence and bounds write their predicate whole, all bits of an element alike. -/
def Obligations.ElementResults : Prop :=
  (∀ (s : State) (i : Instr) (e : Elements) (f : Flags), i.wellFormed = true → ElementResult s.me i e → s.vectorRoom →
    raises (256 / e.w) e.raised f → s.quietFlags e.l f →
    ∃ t row, exec i s = .next t ∧ s.accepted t e.lam e.l [] [(e.d, row)] [] f
      ∧ ∀ j, j < 256 / e.w → element e.w row j = e.value j % 2 ^ (8 * e.w)) ∧
  (∀ (s : State) (i : Instr) (e : Truths) (f : Flags), i.wellFormed = true → TruthResult s.me i e → s.vectorRoom →
    raises (256 / e.w) e.raised f → s.quietFlags e.l f →
    ∃ t p, exec i s = .next t ∧ s.accepted t 40 e.l [] [] [(e.p, p)] f ∧ ∀ n, n < 256 → p.getLsbD n = e.value (n / e.w))

/-- R271, R386: VCVT converts each element governed at the wider of the two widths; a narrower result clears what lies above it, a wider
one leaves nothing above.
R387, R388: VQMX.q quantises the 64 fp32 elements to two blocks of 32 codes with their scales; every other bit is zero. -/
def Obligations.RowConversions : Prop :=
  (∀ (s : State) (d a f : BitVec 4) (k t : BitVec 3) (c : BitVec 2) (l : BitVec 4) (fl : Flags),
    (Instr.vcvt d a f k t c l).wellFormed = true → s.vectorRoom →
    let dst := if c = 0#2 then t.toNat else if c = 1#2 then 8 + t.toNat else 6
    let ws := fcBits f.toNat
    let wt := fcBits dst
    let w := if ws < wt then wt else ws
    let on := fun j => (s.me.rk k).getLsbD (j * w / 8)
    let r := fun j => convert f.toNat dst s.me.frm.toNat (s.ctx (ctxOf s.cur)).tbl4 ((s.me.rv a).toNat / 2 ^ (ws * j) % 2 ^ ws)
    raises (2048 / w) (fun j => if on j then (r j).2 else 0#6) fl → s.quietFlags l fl →
    ∃ t' row, exec (.vcvt d a f k t c l) s = .next t' ∧ s.accepted t' 40 l [] [(d, row)] [] fl
      ∧ (∀ j, j < 2048 / w → row.toNat / 2 ^ (wt * j) % 2 ^ wt =
          if on j then (r j).1 % 2 ^ wt else (s.me.rv d).toNat / 2 ^ (wt * j) % 2 ^ wt)
      ∧ (wt < ws → row.toNat < 2 ^ (2048 / w * wt))) ∧
  (∀ (s : State) (d a : BitVec 4) (k t : BitVec 3) (l : BitVec 4) (f : Flags), (Instr.vqmxQ d a k t l).wellFormed = true → s.vectorRoom →
    let fc := 16 + t.toNat
    let x := fun j => if isActive 4 (s.me.rk k) j then fp32.read (element 4 (s.me.rv a) j) else Num.absent
    let scale := fun b => mxScale fc (((List.range 32).map (fun i => x (32 * b + i))).filter (fun y => y != Num.absent))
    let r := fun j => if scale (j / 32) = 255 ∨ x j = Num.absent then ((fmtOf fc).absent, 0#6)
      else writeNum fc s.me.frm.toNat (x j) 0#128 (scale (j / 32))
    raises 64 (fun j => (r j).2) f → s.quietFlags l f →
    ∃ t' row, exec (.vqmxQ d a k t l) s = .next t' ∧ s.accepted t' 40 l [] [(d, row)] [] f
      ∧ (∀ j, j < 64 → row.toNat / 2 ^ (fcBits fc * j) % 2 ^ fcBits fc = (r j).1 % 2 ^ fcBits fc)
      ∧ element 1 row 248 = scale 0 ∧ element 1 row 249 = scale 1
      ∧ ∀ n, 64 * fcBits fc ≤ n → (n < 1984 ∨ 2000 ≤ n) → row.getLsbD n = false)

/-- R262, R390: VRED puts its result in element 0 of 64 bits and the number of present elements in element 1, and zeros above; the integer
sum of the present elements saturates.
R391: VSCAN.add writes to each active fp32 element the sum of the present ones up to it, rounded element by element. That the first present
element is the canonical NaN where it is a NaN, as the sums after it are by R253, is the model's reading (log 16). -/
def Obligations.RowSums : Prop :=
  (∀ (s : State) (d a : BitVec 4) (k t : BitVec 3) (o : BitVec 2) (l : BitVec 4), (Instr.vred d a k t o l).wellFormed = true →
    s.vectorRoom →
    let r := reduceRow o.toNat t.toNat s.me.frm.toNat (s.me.rk k) (s.me.rv a)
    let w := 2 ^ (t.toNat % 4)
    let most := 2 ^ (8 * w - 1)
    let present := (List.range (256 / w)).filter (fun j => isActive w (s.me.rk k) j && element w (s.me.rv a) j != most)
    let sum := (present.map (fun j => (asSigned (8 * w) (element w (s.me.rv a) j)).toInt)).sum
    (s.quietFlags l r.2.2 → ∃ t' row, exec (.vred d a k t o l) s = .next t' ∧ s.accepted t' 40 l [] [(d, row)] [] r.2.2
      ∧ row = BitVec.ofNat 2048 (r.1 + r.2.1 * 2 ^ 64)) ∧
    (o = 1#2 → r.2.1 = present.length ∧ (present = [] → r.1 = most) ∧ (present ≠ [] → asSigned (8 * w) r.1 =
      BitVec.ofInt 64 (if (most : Int) - 1 < sum then (most : Int) - 1 else if sum < 1 - (most : Int) then 1 - (most : Int) else sum)))) ∧
  (∀ (s : State) (d a : BitVec 4) (k : BitVec 3) (l : BitVec 4), s.vectorRoom →
    let x := fun j => element 4 (s.me.rv a) j
    let taken := fun j => if (fp32.read (x j)).isNan then fp32.qnan else x j
    let on := fun j => isActive 4 (s.me.rk k) j
    let u := scanCodes s.me.frm.toNat fp32.absent ((List.range 64).map (fun j => (on j, x j, element 4 (s.me.rv d) j)))
    s.quietFlags l u.2 →
    ∃ t row, exec (.vscan d a k l) s = .next t ∧ s.accepted t 40 l [] [(d, row)] [] u.2 ∧
      (∀ j, j < 64 → on j = false → element 4 row j = element 4 (s.me.rv d) j) ∧
      (∀ j, j < 64 → on j = true → (∀ n, n < j → on n = false) → element 4 row j = taken j) ∧
      (∀ n j, n < j → j < 64 → on n = true → on j = true → (∀ m, n < m → m < j → on m = false) → let sum := element 4 row n
        element 4 row j = if x j = fp32.absent then sum else if sum = fp32.absent then taken j
          else (opAdd fp32 s.me.frm.toNat [fp32.read sum, fp32.read (x j)]).1 % 2 ^ 32))

/-- R374: VLEN reads 2,048; VMOV.vg reads an element of 64 bits, and 0 past the last one.
R366, R395: a predicate instruction writes its predicate; k0 stays all ones. -/
def Obligations.ReadsAndPredicates : Prop :=
  (∀ (s : State) (d a b l : BitVec 4),
    (∃ t, exec (.vlen a l) s = .next t ∧ s.computes t [gr a] ∧ (s.then t).holdsG (gr a) 2048#64) ∧
    (s.vectorRoom → ∃ t, exec (.vmovVg d a b l) s = .next t ∧ s.accepted t 40 l
      [(gr a, if (s.me.rg (gr b)).toNat < 32 then BitVec.ofNat 64 (element 8 (s.me.rv d) (s.me.rg (gr b)).toNat) else 0#64)] [] [] 0#6)) ∧
  (∀ (s : State) (i : Instr) (d : BitVec 3) (x : Pred), PredicateResult s.me i d x →
    ∃ t, exec i s = .next t ∧ s.onlyStrand t ∧ s.me.frame (s.then t) [] [] [d] ∧ (s.then t).holdsK d x
      ∧ (s.then t).fflags = s.me.fflags ∧ s.me.movesOn (s.then t))

/-- R375, R376: VLD and VST move the bytes their predicate marks between v(d) and 256 aligned bytes; without a marked byte there is no
access and no check. -/
def Obligations.RowAccesses : Prop :=
  ∀ (s : State) (d a b : BitVec 4) (k : BitVec 3) (o : BitVec 1) (l : BitVec 4),
    let m := s.me.rk k
    let va := s.me.rg (gr a) + s.me.rg (gr b)
    let g2 := gr a == 2#5
    let late := o = 1#1 ∧ l ≠ 0#4
    let rep := spillAddr (s.me.spill g2) va
    (m = 0#256 → (∃ t, exec (.vld d a b k o l) s = .next t ∧ s.computes t []) ∧ (∃ t, exec (.vst d a b k o l) s = .next t ∧ s.computes t [])) ∧
    (∀ p tlb, m ≠ 0#256 → s.resolve (ctxOf s.cur) (s.me.spill g2) { rd := true, size := 256, align := 256 } va = .at p tlb → s.performed →
      s.reachable p 256 → ∃ t lam, exec (.vld d a b k o l) s = .next t ∧ s.onlyAccess t ∧
        (late → s.issued t lam l [] [] [] 0#6 (some { op := .vload d m, loc := p, va := rep, dest := 0#5, order := .rx })) ∧
        (¬ late → ∃ row, s.issued t lam l [] [(d, row)] [] 0#6 none ∧ ∀ j, j < 256 → element 1 row j =
          if m.getLsbD j then s.loadNat (p.plus j) 1 s.cur else element 1 (s.me.rv d) j)) ∧
    (∀ p tlb, m ≠ 0#256 → s.resolve (ctxOf s.cur) (s.me.spill g2) { wr := true, size := 256, align := 256 } va = .at p tlb → s.performed →
      s.reachable p 256 → s.unwatched p 256 → ∃ t lam, exec (.vst d a b k o l) s = .next t ∧
        (late → s.onlyAccess t ∧ s.issued t lam l [] [] [] 0#6 (some { op := .vstore (s.me.rv d) m, loc := p, va := rep, dest := 0#5, order := .rx })) ∧
        (¬ late → s.onlyStore t ∧ s.issued t lam l [] [] [] 0#6 none
          ∧ (∀ j, j < 256 → m.getLsbD j = true → (t.byteAt (p.plus j)).toNat = element 1 (s.me.rv d) j)
          ∧ (∀ q, (∀ j, j < 256 → m.getLsbD j = true → q.cell ≠ (p.plus j).cell) → t.byteAt q = s.byteAt q)
          ∧ (∀ q, (∀ j, j < 256 → q.bitCell ≠ (p.plus j).cell) → t.fullAt q = s.fullAt q)))

/-- R375, R376, R378: VLDS and VLDG load each active element from its place and keep the others; with no active element nothing is
accessed.
R375, R376, R378: VSTS and VSTX store each active element at its place, in increasing order, and change no other byte.
R151, R378: a relaxed form stays outstanding with its elements, each a relaxed access of its own that is still to be performed. -/
def Obligations.ElementAccesses : Prop :=
  (∀ (s : State) (indexed : Bool) (d a b : BitVec 4) (k t : BitVec 3) (o : BitVec 1) (l : BitVec 4),
    let i : Instr := if indexed then .vldg d a b k t o l else .vlds d a b k t o l
    let w := if t = 3#3 then 8 else 4
    let vas := elementAddrs s.me indexed a b k t
    (vas = [] → ∃ t', exec i s = .next t' ∧ s.computes t' []) ∧
    (∀ u ps, vas ≠ [] → s.places (ctxOf s.cur) (s.me.spill (gr a == 2#5)) { rd := true, size := w, align := w } 0 (vas.map (·.2)) = .at u ps →
      s.performed → (∀ p ∈ ps, s.reachable p.1 8) →
      (o = 0#1 → ∃ t' row lam, exec i s = .next t' ∧ s.onlyAccess t' ∧ s.issued t' lam l [] [(d, row)] [] 0#6 none ∧
        (∀ x ∈ (vas.map (·.1)).zip (ps.map (·.1)), s.plain x.2 → element w row x.1 = s.readNat x.2 w) ∧
        (∀ j, j < 256 / w → j ∉ vas.map (·.1) → element w row j = element w (s.me.rv d) j)) ∧
      (o = 1#1 → ∃ t', exec i s = .next t' ∧ s.onlyAccess t' ∧ s.issuedElements t' l [(d, s.me.rv d)] ((vas.zip ps).map (fun p =>
        (p.1.1, { op := .load w false, loc := p.2.1, va := spillAddr (s.me.spill (gr a == 2#5)) p.1.2, dest := 0#5, order := .rx })))))) ∧
  (∀ (s : State) (indexed : Bool) (d a b : BitVec 4) (k t : BitVec 3) (o : BitVec 1) (l : BitVec 4),
    let i : Instr := if indexed then .vstx d a b k t o l else .vsts d a b k t o l
    let w := if t = 3#3 then 8 else 4
    let vas := elementAddrs s.me indexed a b k t
    (vas = [] → ∃ t', exec i s = .next t' ∧ s.computes t' []) ∧
    (∀ u ps, vas ≠ [] → s.places (ctxOf s.cur) (s.me.spill (gr a == 2#5)) { wr := true, size := w, align := w } 0 (vas.map (·.2)) = .at u ps →
      s.performed → (∀ p ∈ ps, s.reachable p.1 8 ∧ s.unwatched p.1 w) →
      let zs := (vas.map (·.1)).zip (ps.map (·.1))
      (o = 1#1 → ∃ t', exec i s = .next t' ∧ s.onlyAccess t' ∧ s.issuedElements t' l [] ((vas.zip ps).map (fun p =>
        (p.1.1, { op := .store w (BitVec.ofNat 64 (element w (s.me.rv d) p.1.1)), loc := p.2.1,
                  va := spillAddr (s.me.spill (gr a == 2#5)) p.1.2, dest := 0#5, order := .rx })))) ∧
      (o = 0#1 → ∃ t' lam, exec i s = .next t' ∧ s.onlyStore t' ∧ s.issued t' lam l [] [] [] 0#6 none ∧
        (∀ (n : Nat) (x : Nat × Loc), zs[n]? = some x → (∀ (m : Nat) (y : Nat × Loc), n < m → zs[m]? = some y → ∀ c, c < w → y.2.outside w (x.2.plus c).cell) →
          t'.readNat x.2 w = element w (s.me.rv d) x.1) ∧
        (∀ q, (∀ x ∈ zs, x.2.outside w q.cell) → t'.byteAt q = s.byteAt q))))

/-! ### Fences and joints -/

/-- R191, R346: with every earlier access performed a fence completes; TFENCE empties the translation caches of the tiles in its scope, which
from then on hold nothing read before.
R73, R74: BFENCE covers the strand's own writes and those its acquires have put before it; from then on its loads show no value older than
the last result of a command whose completion it has observed. -/
def Obligations.FencesComplete : Prop :=
  ∀ (s : State) (c : BitVec 3), s.performed →
    (∃ t, exec (.fence c) s = .next t ∧ s.computes t []) ∧
    (∃ t, exec (.tfence c) s = .next t ∧ s.leaves t s.me [] ∧ s.sameStrands t ∧ s.sameBytes t
      ∧ t = { s with strands := t.strands, jobs := t.jobs, tiles := t.tiles, cpTlb := t.cpTlb }
      ∧ (∀ p x, (s.tile p).usedBy = some x → s.inScope c.toNat (ctxOf s.cur) x = true → (t.tile p).tlb = { fencedAt := s.cycle })
      ∧ (∀ p, (∀ x, (s.tile p).usedBy = some x → s.inScope c.toNat (ctxOf s.cur) x = false) → t.tile p = s.tile p)
      ∧ t.cpTlb = if 3 ≤ c.toNat then { fencedAt := s.cycle } else s.cpTlb) ∧
    (∃ t, exec (.bfence c) s = .next t ∧ s.leaves t s.me [] ∧ s.sameStrands t ∧ s.sameBytes t
      ∧ t = { s with strands := t.strands, jobs := t.jobs, unfenced := t.unfenced }
      ∧ ∀ a, let ws := tableGet [] s.unfenced a
          let ws' := tableGet [] t.unfenced a
          ws'.length = ws.length ∧ ∀ (n : Nat) (w w' : BankWrite), ws[n]? = some w → ws'[n]? = some w' → w' = { w with covered := w'.covered, past := w'.past }
            ∧ w'.covered = (if w.writer = strandWriter s.cur ∨ s.me.view.sees w.writer 0 w.cycle = true
                then w.covered ++ [(strandWriter s.cur, s.cycle, c.toNat)] else w.covered)
            ∧ (∀ k, k ≠ s.cur → (k ∈ w'.past ↔ k ∈ w.past))
            ∧ (s.cur ∈ w'.past ↔ s.cur ∈ w.past ∨ ∃ (m : Nat) (x : BankWrite), n ≤ m ∧ ws[m]? = some x ∧ x.unit = true ∧ s.me.view.sees x.writer 5 x.cycle = true))

/-- R209: JOPEN opens a joint with an empty word set; JABORT aborts the open joint with EXPLICIT unless it has aborted already; the wrong
state traps with 0x2E. -/
def Obligations.JointsOpen : Prop :=
  ∀ (s : State),
    (s.me.joint.isOpen = false → ∃ t, exec .jopen s = .next t ∧ s.onlyStrand t
      ∧ s.leaves t { s.me with joint := { isOpen := true, commit := false, code := 0#4, words := [] } } []) ∧
    (s.me.joint.isOpen = true → ∃ t, exec .jabort s = .next t ∧ s.onlyStrand t
      ∧ s.leaves t { s.me with joint := { s.me.joint with code := if s.me.joint.code = 0#4 then 9#4 else s.me.joint.code } } []) ∧
    (s.trapReady → (s.me.joint.isOpen = true → ∃ t v, exec .jopen s = .next t ∧ s.bump.takesTrap t 0x2E v) ∧
      (s.me.joint.isOpen = false → ∀ d a i, ∀ x ∈ [Instr.jabort, .jclose d, .jld d a i, .jst d a i],
        ∃ t v, exec x s = .next t ∧ s.bump.takesTrap t 0x2E v))

/-- R209, R211, R347: inside a joint JLD brings the recorded or held value of a word in the set and records a new one; JST holds its value;
the ninth word aborts with CAPACITY, a window address with WINDOW, a read of a word that another joint has locked with LOCKED. -/
def Obligations.JointAccesses : Prop :=
  ∀ (s : State) (d a : BitVec 5) (i : BitVec 7) (l : Loc) (tlb : Tlb) (wr : Bool), let va := nearAddr s.me a i
    let j := s.me.joint
    let x : Instr := if wr then .jst d a i else .jld d a i
    j.isOpen = true → j.code = 0#4 →
    (isWindow va = true → va.toNat % 8 = 0 → ∃ t, exec x s = .next t ∧ s.onlyStrand t
      ∧ s.leaves t { s.me with joint := { j with code := 6#4 } } []) ∧
    (isWindow va = false → s.resolve (ctxOf s.cur) (s.me.spill (a == 2#5)) { rd := true, wr := wr } va = .at l tlb → l.far = false →
      (∀ w, j.find l.word = some w →
        (wr = false → ∃ t, exec x s = .next t ∧ s.computes t [d]
          ∧ (s.then t).holdsG d (match w.write, w.read with | some v, _ => v | none, some v => v | none, none => 0#64)) ∧
        (wr = true → ∃ t, exec x s = .next t ∧ s.onlyStrand t ∧ s.leaves t { s.me with joint := { j with
          words := j.words.map (fun y => if y.loc = l.word then { y with write := some (s.me.rg d) } else y) } } [])) ∧
      (j.find l.word = none → 8 ≤ j.words.length → ∃ t, exec x s = .next t ∧ s.onlyStrand t
        ∧ s.leaves t { s.me with joint := { j with code := 4#4 } } []) ∧
      (j.find l.word = none → j.words.length < 8 → wr = false → s.lockedFor s.cur l.word 8 = true → ∃ t, exec x s = .next t ∧ s.onlyStrand t
        ∧ s.leaves t { s.me with joint := { j with code := 3#4 } } []) ∧
      (j.find l.word = none → j.words.length < 8 → wr = false → s.performed → s.reachable l.word 8 →
        let v := BitVec.ofNat 64 (s.loadNat l.word 8 s.cur)
        ∃ t, exec x s = .next t ∧ s.onlyAccess t ∧ (s.then t).holdsG d v
          ∧ s.leaves t { s.me with joint := { j with words := j.words ++ [{ loc := l.word, va := va, read := some v }] } } [d]) ∧
      (j.find l.word = none → j.words.length < 8 → wr = true → ∃ t, exec x s = .next t ∧ s.onlyAccess t
        ∧ s.leaves t { s.me with joint := { j with words := j.words ++ [{ loc := l.word, va := va, write := some (s.me.rg d) }] } } []))

/-- R210: JCLOSE of a joint that has not aborted locks its words and decides in its next slot; where another joint has locked one, it gives 0
with the code LOCKED. That it takes two slots, within the 4 µs of R210, is the model's choice (log 21).
R75, R222: where the line of a word has gone bad it holds the strand with 0x50 and the address of that word, its locks released and nothing
written.
R210, R212: with its words locked it commits where the recorded words still hold their values: it gives 1, every held value is in memory,
and no other byte has changed; a word that has changed gives 0 with the code VALUE and stores nothing.
R209, R211: after an abort JLD gives 0 and JST does nothing; JCLOSE gives 0 and keeps the code. -/
def Obligations.JointsEnd : Prop :=
  (∀ (s : State) (d : BitVec 5), let j := s.me.joint
    j.isOpen = true → j.code = 0#4 → j.locked = false → s.performed → (∀ w ∈ j.words, s.locBad w.loc = false) →
    ((∃ w ∈ j.words, s.lockedFor s.cur w.loc 8 = true) → ∃ t, exec (.jclose d) s = .next t ∧ s.onlyStrand t
      ∧ s.leaves t { s.me with joint := { j with isOpen := false, commit := false, code := 3#4 } } [d] ∧ (s.then t).holdsG d 0#64) ∧
    ((∀ w ∈ j.words, s.lockedFor s.cur w.loc 8 = false) → ∃ t, exec (.jclose d) s = .next t ∧ s.onlyStrand t
      ∧ s.then t = { s.me with state := .memwait, wait := .locks, readyAt := s.cycle + 1, joint := { j with locked := true } })) ∧
  (∀ (s : State) (d : BitVec 5), let j := s.me.joint
    let stale := fun (w : JointWord) => ∃ v, w.read = some v ∧ v ≠ BitVec.ofNat 64 (s.readNat w.loc 8)
    j.isOpen = true → j.code = 0#4 → j.locked = true → (∀ w ∈ j.words, s.locBad w.loc = false ∧ s.clean w.loc) →
    ((∃ w ∈ j.words, stale w) → ∃ t, exec (.jclose d) s = .next t ∧ s.onlyStrand t
      ∧ s.leaves t { s.me with joint := { j with isOpen := false, locked := false, commit := false, code := 2#4 } } [d]
      ∧ (s.then t).holdsG d 0#64) ∧
    ((∀ w ∈ j.words, ¬ stale w) → s.waiters = [] → (∀ w ∈ j.words, w.loc = w.loc.word ∧ w.loc.far = false) →
      j.words.Pairwise (fun v w => v.loc ≠ w.loc) →
      ∃ t, exec (.jclose d) s = .next t ∧ (s.then t).holdsG d 1#64
        ∧ (s.then t).joint = { j with isOpen := false, locked := false, commit := true, code := 0#4 }
        ∧ (∀ r, r ≠ d → (s.then t).rg r = s.me.rg r) ∧ s.me.movesOn (s.then t) ∧ (s.then t).fflags = s.me.fflags
        ∧ (∀ w ∈ j.words, ∀ v, w.write = some v → t.readNat w.loc 8 = v.toNat)
        ∧ (∀ q, (∀ w ∈ j.words, w.write.isSome = true → w.loc.outside 8 q.cell) → t.byteAt q = s.byteAt q))) ∧
  (∀ (s : State) (d : BitVec 5) (w : JointWord), let j := s.me.joint
    let h := jobOf (ctxOf s.cur)
    let n := (s.job h).tenant
    j.isOpen = true → j.code = 0#4 → j.words.find? (fun x => s.locBad x.loc) = some w → s.me.out = [] → (s.ring n).en = true →
    ∃ t, exec (.jclose d) s = .next t ∧ s.sameStrands t ∧ s.sameBytes t
      ∧ t = { s with strands := t.strands, fault := t.fault, env := t.env, stackTab := t.stackTab, msix := t.msix, rasAt := t.rasAt }
      ∧ s.then t = { s.me with state := .memwait, wait := .none, held := some (0x50#8, w.va), joint := { j with locked := false } }
      ∧ (t.ring n).waiting = (s.ring n).waiting ++ [⟨0x50#8, 0#8, BitVec.ofNat 8 (stridOf s.cur), BitVec.ofNat 16 (vtidOf (ctxOf s.cur)),
          BitVec.ofNat 64 h, w.va, s.me.pc⟩]) ∧
  (∀ (s : State) (d a : BitVec 5) (i : BitVec 7) (l : Loc) (tlb : Tlb), let va := nearAddr s.me a i
    let j := s.me.joint
    j.isOpen = true → j.code ≠ 0#4 →
    (isWindow va = false → s.resolve (ctxOf s.cur) (s.me.spill (a == 2#5)) { rd := true, wr := false } va = .at l tlb → l.far = false →
      ∃ t, exec (.jld d a i) s = .next t ∧ s.computes t [d] ∧ (s.then t).holdsG d 0#64) ∧
    (isWindow va = false → s.resolve (ctxOf s.cur) (s.me.spill (a == 2#5)) { rd := true, wr := true } va = .at l tlb → l.far = false →
      ∃ t, exec (.jst d a i) s = .next t ∧ s.computes t []) ∧
    (∃ t, exec (.jclose d) s = .next t ∧ s.onlyStrand t
      ∧ s.leaves t { s.me with joint := { j with isOpen := false, locked := false, commit := false } } [d] ∧ (s.then t).holdsG d 0#64))

/-! ### Packets -/

/-- R215, R348, R350: MSGH opens a packet to a context of its job; for a destination outside the job it traps with 0x31, and else with a packet
open with 0x33; the order, where both hold, is that of R215 (log 20).
R110, R351: MSGW adds a word to the open packet at the interface of a context that is reached and has room; it waits in MSGWAIT where
there is none; a retired destination discards the word. That the first word pays for the translation of the header is the model's choice (log 54).
R202, R348, R352, R443: MSGE ends the packet: its words stand behind every packet that has ended, with the header, and the strand holds no
packet; it waits where there is no room for the end word, and a packet to a context of another module leaves for it. Where one of its sender,
destination and class that ended before still stands in the park queue, it leaves the staging area and follows that one there. -/
def Obligations.PacketsSent : Prop :=
  (∀ (s : State) (a : BitVec 5), let x := s.me.rg a
    let h := jobOf (ctxOf s.cur)
    let inside := x.toNat % 65536 < recTiles (s.job h).record
    (s.me.packet = none → inside → ∃ t, exec (.msgh a) s = .next t ∧ s.onlyStrand t ∧ s.leaves t
      { s.me with packet := some ⟨ctxKey h (x.toNat % 65536), x.toNat / 65536 % 8, BitVec.ofNat 32 (x.toNat / 2 ^ 32), 0⟩ } []) ∧
    (s.me.packet ≠ none → inside → s.trapReady → ∃ t, exec (.msgh a) s = .next t ∧ s.takesTrap t 0x33 (wordVal (.msgh a))) ∧
    (¬ inside → s.trapReady → ∃ t, exec (.msgh a) s = .next t ∧ s.takesTrap t 0x31 (BitVec.ofNat 64 (x.toNat % 65536)))) ∧
  (∀ (s : State) (a : BitVec 5) (p : Packet), s.me.packet = some p → p.len < 63 →
    let c := s.ctx p.dest
    let more := { s.me with packet := some { p with len := p.len + 1 } }
    (s.path p.dest = .gone → ∃ t, exec (.msgw a) s = .next t ∧ s.onlyStrand t ∧ s.leaves t more []) ∧
    ((s.path p.dest = .direct ∨ s.path p.dest = .moving) → (c.mine s.cur ≠ [] ∨ (s.gangOf p.dest).park = []) →
      (s.stagingRoom p.dest p.cls = true → ∃ t, exec (.msgw a) s = .next t ∧ s.leaves t more [] ∧ s.sameStrands t ∧ s.sameJobs t
        ∧ s.sameBytes t ∧ t = { s with strands := t.strands, jobs := t.jobs, ctxs := t.ctxs, tiles := t.tiles }
        ∧ (∀ n, { t.tile n with vtids := [] } = { s.tile n with vtids := [] }) ∧ (∀ x, x ≠ p.dest → t.ctx x = s.ctx x)
        ∧ { t.ctx p.dest with staging := [] } = { c with staging := [] } ∧ (t.ctx p.dest).others s.cur = c.others s.cur
        ∧ (t.ctx p.dest).mine s.cur = (if c.mine s.cur = []
            then [{ dest := p.dest, cls := p.cls, sender := s.cur, words := [s.me.rg a], hdr := none,
                    readyAt := s.cycle + s.xltCost (ctxOf s.cur) p.dest }]
            else (c.mine s.cur).map (fun q => { q with words := q.words ++ [s.me.rg a] }))) ∧
      (s.stagingRoom p.dest p.cls = false → ∃ t, exec (.msgw a) s = .next t ∧ s.waitsIn t .msgwait .send))) ∧
  (∀ (s : State) (p : Packet), s.me.packet = some p → 0 < p.len → s.performed →
    let c := s.ctx p.dest
    let hdr := packetHeader (vtidOf (ctxOf s.cur)) p.cls p.len 0 p.tag
    let follows := (s.gangOf p.dest).park.any (fun e => match e with
      | .packet q => q.hdr.isSome && ctxOf q.sender == ctxOf s.cur && q.dest == p.dest && q.cls == p.cls
      | _ => false)
    let ends := fun (n : Nat) (v : View) => (c.mine s.cur).map (fun q => { q with hdr := some hdr, readyAt := Nat.max q.readyAt n, view := v })
    (s.path p.dest = .gone → ∃ t, exec .msge s = .next t ∧ s.leaves t { s.me with packet := none } [] ∧ s.sameStrands t ∧ s.sameBytes t) ∧
    (s.path p.dest ≠ .gone → c.mine s.cur ≠ [] →
      (s.stagingRoom p.dest p.cls = false → ∃ t, exec .msge s = .next t ∧ s.waitsIn t .msgwait .send) ∧
      (s.stagingRoom p.dest p.cls = true → follows = false ∨ (s.awayAt p.dest).isSome = true → ∃ t n v, exec .msge s = .next t
        ∧ s.leaves t { s.me with packet := none } [] ∧ s.sameStrands t
        ∧ s.sameJobs t ∧ s.sameBytes t ∧ t = { s with strands := t.strands, jobs := t.jobs, ctxs := t.ctxs, sent := t.sent }
        ∧ (∀ x, x ≠ p.dest → t.ctx x = s.ctx x) ∧ s.cycle + 20 ≤ n
        ∧ (s.awayAt p.dest = none → t.sent = s.sent ∧ t.ctx p.dest = { c with staging := c.others s.cur ++ ends n v })
        ∧ (∀ m, s.awayAt p.dest = some m → t.ctx p.dest = { c with staging := c.others s.cur }.landed p.cls s.cycle
            ∧ s.tells t ((ends n v).map (fun q => (m, .packet (s.jobName (jobOf q.dest)) q))))) ∧
      (s.stagingRoom p.dest p.cls = true → follows = true → s.awayAt p.dest = none → ∃ t, exec .msge s = .next t
        ∧ s.leaves t { s.me with packet := none } [] ∧ s.sameStrands t ∧ s.sameBytes t ∧ t.sent = s.sent
        ∧ (∀ x, x ≠ p.dest → t.ctx x = s.ctx x) ∧ t.ctx p.dest = { c with staging := c.others s.cur }.landed p.cls s.cycle)))

/-- R353, R354: the strand a class is bound to takes the head word of its inbox with RECV, and with RECVH the word behind the rest of the
packet it was reading; without a word it waits in MSGWAIT; MPROBE says what stands there. Another strand traps with 0x34. -/
def Obligations.PacketsArrive : Prop :=
  ∀ (s : State) (d : BitVec 5) (n : BitVec 3), let x := s.ctx (ctxOf s.cur)
    let box := tableGet [] x.inbox n.toNat
    let left := tableGet 0 x.rest n.toNat
    let bound := x.mcb.toNat / 16 ^ n.toNat % 16 = stridOf s.cur
    let pop := fun (w : InWord) (t : List InWord) (r : Nat) (c : Ctx) =>
      { c with inbox := tableSet [] c.inbox n.toNat t, rest := tableSet 0 c.rest n.toNat (if w.header then w.word.toNat / 2 ^ 19 % 64 else r - 1) }
    (∀ w t', bound → box = w :: t' → w.merge = none →
      ∃ t, exec (.recv d n) s = .next t ∧ s.onlyContext t (pop w t' left) ∧ s.sameBytes t ∧ s.leaves t s.me [d] ∧ (s.then t).holdsG d w.word) ∧
    (∀ w t', bound → box.drop left = w :: t' → w.merge = none →
      ∃ t, exec (.recvh d n) s = .next t ∧ s.onlyContext t (pop w t' 0) ∧ s.sameBytes t ∧ s.leaves t s.me [d] ∧ (s.then t).holdsG d w.word) ∧
    (bound → box = [] → ∃ t, exec (.recv d n) s = .next t ∧ s.waitsIn t .msgwait (.recv n.toNat)) ∧
    (bound → ∃ t v, exec (.mprobe d n) s = .next t ∧ s.computes t [d] ∧ (s.then t).holdsG d v ∧ (box.length < 128 → v.toNat % 128 = box.length)
      ∧ (∀ w t', box = w :: t' → box.length < 128 → v.getLsbD 7 = w.header)) ∧
    (¬ bound → s.trapReady → ∀ i ∈ [Instr.recv d n, .recvh d n, .mprobe d n], ∃ t, exec i s = .next t ∧ s.takesTrap t 0x34 (BitVec.ofNat 64 n.toNat))

/-! ### Lease, guards, queues and pegs -/

/-- R168, R360: LEASE completes where the lease is free or the strand's own, and LEASEF always. They take a free lease, or keep one held; LEASE waits
in ENGWAIT for one held by another strand, LEASEF gives 0; LEASEF with bit 0 set gives the lease up to the next waiting strand. -/
def Obligations.LeasePasses : Prop :=
  (∀ (s : State), let me := stridOf s.cur
    let x := (s.ctx (ctxOf s.cur)).lease
    x.holder = none ∨ x.holder = some me →
    ∃ t, exec .lease s = .next t ∧ s.leaves t s.me [] ∧ s.sameStrands t ∧ (t.ctx (ctxOf s.cur)).lease.holder = some me) ∧
  (∀ (s : State) (d : BitVec 5) (b : BitVec 1), let me := stridOf s.cur
    let x := (s.ctx (ctxOf s.cur)).lease
    ∃ t, exec (.leasef d b) s = .next t ∧ s.leaves t s.me [d] ∧ s.sameStrands t
      ∧ (s.then t).holdsG d (if x.holder = some me ∨ (b = 0#1 ∧ x.holder = none) then 1#64 else 0#64)) ∧
  ∀ (s : State) (d : BitVec 5), let me := stridOf s.cur
    let x := (s.ctx (ctxOf s.cur)).lease
    let taken := fun (c : Ctx) => { c with lease := ⟨some me, 0, x.waiters &&& ~~~(1#16 <<< me), me⟩ }
    (x.holder = none → (∃ t, exec .lease s = .next t ∧ s.onlyContext t taken ∧ s.leaves t s.me [])
      ∧ (∃ t, exec (.leasef d 0#1) s = .next t ∧ s.onlyContext t taken ∧ s.leaves t s.me [d] ∧ (s.then t).holdsG d 1#64)
      ∧ ∃ t, exec (.leasef d 1#1) s = .next t ∧ s.computes t [d] ∧ (s.then t).holdsG d 0#64) ∧
    (x.holder = some me → (∃ t, exec .lease s = .next t ∧ s.computes t [])
      ∧ (∃ t, exec (.leasef d 0#1) s = .next t ∧ s.computes t [d] ∧ (s.then t).holdsG d 1#64)
      ∧ (∃ t y, exec (.leasef d 1#1) s = .next t ∧ s.onlyContext t (fun c => { c with lease := y }) ∧ s.leaves t s.me [d]
          ∧ (s.then t).holdsG d 1#64 ∧ (x.waiters = 0#16 → y.holder = none)
          ∧ (x.waiters ≠ 0#16 → ∃ n, n < 16 ∧ x.waiters.getLsbD n = true ∧ y.holder = some n ∧ y.waiters.getLsbD n = false ∧ y.pushes = 0))) ∧
    (∀ n, x.holder = some n → n ≠ me →
      (∃ t, exec .lease s = .next t ∧ s.then t = { s.me with state := .engwait, wait := .lease } ∧ s.sameStrands t
        ∧ t = { s with strands := t.strands, ctxs := t.ctxs } ∧ (t.ctx (ctxOf s.cur)).lease = { x with waiters := x.waiters ||| (1#16 <<< me) })
      ∧ ∀ b, ∃ t, exec (.leasef d b) s = .next t ∧ s.computes t [d] ∧ (s.then t).holdsG d 0#64)

/-- R163, R360: GCLR makes its guard slot unresolved; GSET resolves it to whether g(a) ≠ 0 and lets each head that waited for it go
(a head that finds it false is discarded instead), and traps with 0x47 where it is resolved already. -/
def Obligations.GuardsResolve : Prop :=
  ∀ (s : State) (a : BitVec 5) (n : BitVec 3), let c := ctxOf s.cur
    let x := s.ctx c
    (∃ t, exec (.gclr n) s = .next t ∧ s.leaves t s.me [] ∧ s.sameBytes t
      ∧ s.onlyContext t (fun c => { c with guards := tableSet Guard.unresolved c.guards n.toNat .unresolved })) ∧
    (tableGet Guard.unresolved x.guards n.toNat ≠ .unresolved → s.trapReady → ∃ t, exec (.gset a n) s = .next t
      ∧ s.takesTrap t 0x47 (BitVec.ofNat 64 n.toNat)) ∧
    (tableGet Guard.unresolved x.guards n.toNat = .unresolved → s.performed → x.headsMet →
      (s.me.rg a = 0#64 → ∀ q e r, x.cmdList q = e :: r → e.guard ≠ some n) →
      ∃ t, exec (.gset a n) s = .next t ∧ s.leaves t s.me [] ∧ s.sameStrands t ∧ s.sameBytes t
        ∧ tableGet Guard.unresolved (t.ctx c).guards n.toNat = (if s.me.rg a = 0#64 then .isFalse else .isTrue)
        ∧ ∀ q ∈ [0, 4, 5, 6, 8], (t.ctx c).cmdList q = (match x.cmdList q with
            | e :: r => if e.guard = some n then { e with guard := none, after := e.after ++ s.accessesOf s.cur } :: r else e :: r
            | [] => []))

/-- R159–R161, R291, R356, R357: ENQ appends a command of four registers, with its guard and its issuer, or a row; a full queue makes the
strand wait in ENGWAIT.
R358, R359: DEQ takes the head row of a result queue, or waits in ENGWAIT; QSTAT says how many entries a queue holds and how many it
takes. -/
def Obligations.QueuesMove : Prop :=
  (∀ (s : State) (q : BitVec 4) (a : BitVec 5) (g : BitVec 4), let c := ctxOf s.cur
    let x := s.ctx c
    let n := q.toNat
    let lease := n ≤ 2 → x.lease.holder = some (stridOf s.cur)
    (n ∈ [0, 4, 5, 6, 8] → a.toNat % 4 = 0 → lease → (x.cmdList n).length < depthOf n → s.performed → x.headsMet →
      (g ≠ 0#4 → tableGet Guard.unresolved x.guards (g.toNat % 8) = .unresolved) →
      ∃ (t : State) (e : CmdEntry), exec (.enq q a g) s = .next t ∧ s.leaves t s.me [] ∧ s.sameStrands t ∧ s.sameJobs t ∧ s.sameBytes t
        ∧ t = { s with strands := t.strands, jobs := t.jobs, ctxs := t.ctxs } ∧ (t.ctx c).cmdList n = x.cmdList n ++ [e]
        ∧ e.word = (s.me.rg (a + 3#5) ++ s.me.rg (a + 2#5) ++ s.me.rg (a + 1#5) ++ s.me.rg a : BitVec 256)
        ∧ e.guard = (if g = 0#4 then none else some (BitVec.ofNat 3 (g.toNat % 8))) ∧ e.issuer = BitVec.ofNat 4 (stridOf s.cur)
        ∧ (∀ m, m ≠ n → (t.ctx c).cmdList m = x.cmdList m)) ∧
    (n ∈ [1, 2] → 16 ≤ a.toNat → lease → g = 0#4 → (x.rowList n).length < 64 →
      ∃ t, exec (.enq q a g) s = .next t ∧ s.leaves t s.me [] ∧ s.sameBytes t
        ∧ s.onlyContext t (fun c => c.setRows n (x.rowList n ++ [s.me.rv (BitVec.ofNat 4 (a.toNat - 16))]))) ∧
    ((n ∈ [0, 4, 5, 6, 8] ∧ a.toNat % 4 = 0 ∧ lease ∧ depthOf n ≤ (x.cmdList n).length)
        ∨ (n ∈ [1, 2] ∧ 16 ≤ a.toNat ∧ lease ∧ g = 0#4 ∧ 64 ≤ (x.rowList n).length) →
      ∃ t, exec (.enq q a g) s = .next t ∧ s.waitsIn t .engwait (.push n))) ∧
  (∀ (s : State) (q : BitVec 4) (a : BitVec 5), let x := s.ctx (ctxOf s.cur)
    let n := q.toNat
    (∀ r rs, n ∈ [3, 7, 9] → 16 ≤ a.toNat → x.rowList n = r :: rs →
      ∃ t, exec (.deq q a) s = .next t ∧ s.onlyContext t (fun c => c.setRows n rs) ∧ s.sameBytes t
        ∧ s.me.frame (s.then t) [] [BitVec.ofNat 4 (a.toNat - 16)] [] ∧ (s.then t).rv (BitVec.ofNat 4 (a.toNat - 16)) = r
        ∧ (s.then t).fflags = s.me.fflags ∧ s.me.movesOn (s.then t)) ∧
    (n ∈ [3, 7, 9] → 16 ≤ a.toNat → x.rowList n = [] → ∃ t, exec (.deq q a) s = .next t ∧ s.waitsIn t .engwait (.pop n)) ∧
    (let m := if n ∈ [0, 4, 5, 6, 8] then (x.cmdList n).length else (x.rowList n).length
     n < 10 → m < 256 → ∃ t v, exec (.qstat q a) s = .next t ∧ s.computes t [a] ∧ (s.then t).holdsG a v
      ∧ v.toNat % 256 = m ∧ v.toNat / 256 % 256 = depthOf n ∧ v.getLsbD 16 = (x.running.any (fun r => r.queue == n) || decide (16 < (x.posted.filter (fun p => p.queue == n)).length))
      ∧ v.getLsbD 18 = decide (n ∈ [3, 7, 9])))

/-- R172, R173, R362: PEGA takes the lowest free entry of the pool with a new generation and gives its handle; a full pool gives the failure
word; a count of arrivals outside 1 to 65,535 traps with 0x48.
R174, R175, R363–R365: PEGV counts one arrival, which moves the phase on when it is the last, and names the phase it counted in; PEGW
gives 1 once the phase has moved on and waits before; PEGF gives its reference back, and the last one frees the entry; PEGQ shows the counts. A
handle that is not valid traps with 0x48, but PEGQ gives the failure word. -/
def Obligations.PegsWork : Prop :=
  (∀ (s : State) (d a : BitVec 5), let x := s.ctx (ctxOf s.cur)
    let e := (s.me.rg a).toNat
    (∀ i, 1 ≤ e → e ≤ 65535 → i < 32 → (x.peg i).live = false → (∀ j, j < i → (x.peg j).live = true) →
      ∃ t, exec (.pega d a) s = .next t ∧ s.leaves t s.me [d] ∧ s.sameBytes t
        ∧ s.onlyContext t (fun c => c.setPeg i { expect := e, arrived := 0, phase := 0#16, refs := 1, gen := (x.peg i).gen + 1#16, live := true })
        ∧ (s.then t).holdsG d (BitVec.ofNat 64 (i + ((x.peg i).gen + 1#16).toNat * 2 ^ 32))
        ∧ (t.ctx (ctxOf s.cur)).validHandle (BitVec.ofNat 64 (i + ((x.peg i).gen + 1#16).toNat * 2 ^ 32)) = true) ∧
    (1 ≤ e → e ≤ 65535 → (∀ j, j < 32 → (x.peg j).live = true) →
      ∃ t, exec (.pega d a) s = .next t ∧ s.computes t [d] ∧ (s.then t).holdsG d (BitVec.ofNat 64 (2 ^ 63))) ∧
    ((e < 1 ∨ 65535 < e) → s.trapReady → ∃ t, exec (.pega d a) s = .next t ∧ s.takesTrap t 0x48 (s.me.rg a))) ∧
  (∀ (s : State) (d a : BitVec 5), let c := ctxOf s.cur
    let h := s.me.rg a
    let i := h.toNat % 32
    let p := (s.ctx c).peg i
    (s.ctx c).validHandle h = true →
    (s.performed → s.pegAlone i → ∃ t, exec (.pegv d a) s = .next t ∧ s.leaves t s.me [d] ∧ s.sameBytes t
      ∧ (s.then t).holdsG d ((h &&& ~~~(0xFFFF0000#64)) ||| BitVec.ofNat 64 (p.phase.toNat * 65536))
      ∧ ∃ v, s.onlyContext t (fun x => x.setPeg i
          (if p.arrived + 1 = p.expect then { p with arrived := 0, phase := p.phase + 1#16, view := v, coming := [] }
           else { p with arrived := p.arrived + 1, coming := v }))) ∧
    (s.me.pegfreed = false → p.phase.toNat ≠ h.toNat / 65536 % 65536 → ∃ t, exec (.pegw d a) s = .next t ∧ s.computes t [d]
      ∧ (s.then t).holdsG d 1#64) ∧
    (s.me.pegfreed = false → p.phase.toNat = h.toNat / 65536 % 65536 → ∃ t, exec (.pegw d a) s = .next t
      ∧ s.waitsIn t .engwait (.pegw i p.phase d)) ∧
    (s.pegAlone i → ∃ t, exec (.pegf a) s = .next t ∧ s.leaves t s.me [] ∧ s.sameBytes t
      ∧ s.onlyContext t (fun x => x.setPeg i (if p.refs ≤ 1 then { p with refs := 0, live := false } else { p with refs := p.refs - 1 }))) ∧
    (∃ t, exec (.pegq d a) s = .next t ∧ s.computes t [d]
      ∧ (s.then t).holdsG d (BitVec.ofNat 64 (p.arrived + p.expect * 2 ^ 16 + p.phase.toNat * 2 ^ 32 + p.refs % 2 ^ 15 * 2 ^ 48)))) ∧
  (∀ (s : State) (d a : BitVec 5), let h := s.me.rg a
    (s.me.pegfreed = true → ∃ t, exec (.pegw d a) s = .next t ∧ s.onlyStrand t ∧ s.leaves t { s.me with pegfreed := false } [d]
      ∧ (s.then t).holdsG d 0#64) ∧
    ((s.ctx (ctxOf s.cur)).validHandle h = false →
      (∃ t, exec (.pegq d a) s = .next t ∧ s.computes t [d] ∧ (s.then t).holdsG d (BitVec.ofNat 64 (2 ^ 63))) ∧
      (s.trapReady → (∃ t, exec (.pegv d a) s = .next t ∧ s.takesTrap t 0x48 h) ∧ (∃ t, exec (.pegf a) s = .next t ∧ s.takesTrap t 0x48 h) ∧
        (s.me.pegfreed = false → ∃ t, exec (.pegw d a) s = .next t ∧ s.takesTrap t 0x48 h))))

/-! ### System instructions -/

/-- R217, R321: TRAP completes and then takes its trap, TPC the instruction after it; BRK and HALT trap at themselves.
R218, R322: ERET returns to TPC with the loop registers and LSTAT of the trapped code, HACT clear, everything else kept. That the WAITs the trap
has cancelled are outstanding again, with the windows they had, is the model's choice (log 22).
R217: a trap while a handler is active, or without a handler, stops the gang and reports it to the driver, as 0x52 or as its own cause; where
the tenant's fault ring is not enabled the job ends. -/
def Obligations.TrapsEnterAndReturn : Prop :=
  (∀ (s : State) (a k j : BitVec 5) (n : BitVec 3), s.trapReady →
    (∃ t x, exec (.trap a n) s = .next t ∧ s.onlyStrand t ∧ (s.then t).pc = s.me.trap.tvec ∧ (s.then t).state = .ready
      ∧ (s.then t).trap = ⟨s.me.trap.tvec, s.me.advance.pc &&& ~~~3#64, BitVec.ofNat 7 (8 + n.toNat), s.me.rg a, x, s.me.advance.lstat, true⟩
      ∧ (s.me.stepi = none → x = s.sstat s.cur) ∧ (s.then t).shadow = s.me.advance.loops ∧ (s.then t).lstat = 0#2
      ∧ (s.then t).fflags = s.me.fflags ∧ (∀ r, (s.then t).rg r = s.me.rg r) ∧ (∀ r, (s.then t).rv r = s.me.rv r)
      ∧ (∀ r, (s.then t).rk r = s.me.rk r)) ∧
    (∃ t, exec (.brk k j) s = .next t ∧ s.takesTrap t 0x05 (wordVal (.brk k j))) ∧
    (∃ t, exec .halt s = .next t ∧ s.takesTrap t 0x03 (wordVal .halt))) ∧
  (∀ (s : State), ∃ t, exec .eret s = .next t ∧ s.onlyStrand t ∧ (s.then t).pc = s.me.trap.tpc ∧ (s.then t).loops = s.me.shadow
    ∧ (s.then t).lstat = s.me.trap.lact ∧ s.then t = { s.then t with trap := { s.me.trap with ha := false }, shadow := s.me.shadow }
    ∧ { s.me with trap := { s.me.trap with ha := false }, suspended := [] }.frame (s.then t) [] [] [] ∧ (s.then t).fflags = s.me.fflags
    ∧ (s.then t).out = s.me.suspended ++ s.me.out.map (fun o => { o with window := o.window - 1 })) ∧
  (∀ (s : State) (k j : BitVec 5), s.me.out = [] → (s.me.trap.ha = true ∨ s.me.trap.tvec = 0#64) →
    let c := ctxOf s.cur
    let h := jobOf c
    let n := (s.job h).tenant
    ∃ t, exec (.brk k j) s = .next t ∧
      ((s.ring n).en = true → (t.gang h (s.gangNo c)).state = .stopping ∧ (t.gang h (s.gangNo c)).frozen = true ∧ (s.then t).pc = s.me.pc
        ∧ (t.ring n).waiting = (s.ring n).waiting ++ [⟨if s.me.trap.ha then 0x52#8 else 0x05#8, 1#8, BitVec.ofNat 8 (stridOf s.cur),
            BitVec.ofNat 16 (vtidOf c), BitVec.ofNat 64 h, wordVal (.brk k j), s.me.pc⟩]) ∧
      ((s.ring n).en = false → (t.job h).phase = .ended))

/-- R113, R323: EXIT outside packets and joints, with nothing outstanding, ends the strand; the last strand of a context whose engines are idle
retires it.
R153, R215, R324: SPAWN starts an inactive or exited strand of its context: PC g(b), g2 SPBASE, g4 its index, g5 that of the spawning strand, every
other register, flag and loop zero; a target that is not a multiple of 4 traps with 0x06, a strand that is running or absent with 0x36. Where
both hold, that it is 0x06 is log 20. -/
def Obligations.StrandsStartAndExit : Prop :=
  (∀ (s : State), let c := ctxOf s.cur
    let h := jobOf c
    (s.me.packet = none → s.me.joint.isOpen = false → s.me.out = [] →
      ((∃ n, n < 16 ∧ strandKey c n ≠ s.cur ∧ (s.strand (strandKey c n)).state ≠ .inactive ∧ (s.strand (strandKey c n)).state ≠ .exited) →
        ∃ t, exec .exit s = .next t ∧ s.then t = { s.me with state := .exited, wait := .none, pend := none, pendflags := 0#6 }
          ∧ s.sameStrands t ∧ s.sameJobs t ∧ s.sameBytes t ∧ ((t.ctx c).lease.holder ≠ some (stridOf s.cur) ∨ (s.ctx c).lease.waiters ≠ 0#16)) ∧
      ((s.ctx c).live = true → ((s.gangOf c).state = .resident ∨ (s.gangOf c).state = .stopping) → (s.ctx c).running = [] → (∀ q ∈ [0, 4, 5, 6, 8], (s.ctx c).cmdList q = []) →
        (∀ n, n < 16 → strandKey c n ≠ s.cur → (s.strand (strandKey c n)).state = .inactive ∨ (s.strand (strandKey c n)).state = .exited) →
        stridOf s.cur < 16 → ∃ t, exec .exit s = .next t ∧ ((t.job h).entry (vtidOf c)).done = true)) ∧
    (s.trapReady → (s.me.packet.isSome = true ∨ s.me.joint.isOpen = true) → ∃ t, exec .exit s = .next t ∧ s.takesTrap t 0x35 (wordVal .exit))) ∧
  (∀ (s : State) (a b : BitVec 5), let n := (s.me.rg a).toNat
    let pc := s.me.rg b
    let k := strandKey (ctxOf s.cur) n
    let st := s.strand k
    let free := st.state = .inactive ∨ st.state = .exited
    (pc.toNat % 4 = 0 → n < 16 → free → k ≠ s.cur → s.performed →
      ∃ t, exec (.spawn a b) s = .next t ∧ s.leaves t s.me [] ∧ (∀ j, j ≠ k → j ≠ s.cur → t.strand j = s.strand j) ∧ s.sameBytes t
        ∧ t = { s with strands := t.strands, jobs := t.jobs } ∧ (t.strand k).state = .ready ∧ (t.strand k).pc = pc
        ∧ (∀ r, (t.strand k).rg r = if r = 2#5 then st.spbase else if r = 4#5 then s.me.rg a else if r = 5#5 then s.me.rg 5#5 else 0#64)
        ∧ (∀ r, (t.strand k).rv r = 0#2048) ∧ (∀ r, r ≠ 0#3 → (t.strand k).rk r = 0#256) ∧ (t.strand k).loops = {} ∧ (t.strand k).lstat = 0#2
        ∧ (t.strand k).fflags = 0#6 ∧ (t.strand k).frm = 0#2 ∧ (t.strand k).fen = 0#6 ∧ (t.strand k).trap.tvec = 0#64) ∧
    (pc.toNat % 4 ≠ 0 → s.trapReady → ∃ t, exec (.spawn a b) s = .next t ∧ s.takesTrap t 0x06 pc) ∧
    (pc.toNat % 4 = 0 → (16 ≤ n ∨ ¬ free) → s.trapReady → ∃ t, exec (.spawn a b) s = .next t ∧ s.takesTrap t 0x36 (s.me.rg a)))

/-- R325: IDLE gives 1 where a class bound to the strand has a word, 0 once TIME has reached g(a), and waits in MSGWAIT before.
R139, R330, R331: STEP counts a step at once; in a job without buddy images the strand goes on, in one with them it waits in ENGWAIT for the mark,
counted once however often it is issued, and goes on when the mark is complete (`Obligations.SchedulerEvents`); it traps with 0x33 inside a packet.
TBLW sets the lut4 table of the context from g(b) and g(a). -/
def Obligations.IdleStepsAndTables : Prop :=
  (∀ (s : State) (d a : BitVec 5), let x := s.ctx (ctxOf s.cur)
    let word := ∃ n, n < 8 ∧ x.mcb.toNat / 16 ^ n % 16 = stridOf s.cur ∧ tableGet [] x.inbox n ≠ []
    (word → ∃ t, exec (.idle d a) s = .next t ∧ s.computes t [d] ∧ (s.then t).holdsG d 1#64) ∧
    (¬ word → (s.me.rg a).toNat ≤ s.ticks / 17 → ∃ t, exec (.idle d a) s = .next t ∧ s.computes t [d] ∧ (s.then t).holdsG d 0#64) ∧
    (¬ word → s.ticks / 17 < (s.me.rg a).toNat → ∃ t, exec (.idle d a) s = .next t ∧ s.waitsIn t .msgwait (.idle (s.me.rg a)))) ∧
  (∀ (s : State) (a b : BitVec 5), let j := s.me.joint
    let closed := if j.isOpen = true ∧ j.code = 0#4 then { j with code := 7#4 } else j
    let buddy := recBuddy (s.job (jobOf (ctxOf s.cur))).record
    (s.me.packet = none → buddy = false → ∃ t, exec .step s = .next t ∧ s.onlyStrand t
      ∧ s.leaves t { s.me with joint := closed, stepk := s.me.stepk + 1#32 } []) ∧
    (s.me.packet = none → buddy = true → s.me.arrived = false → s.performed → ∃ t, exec .step s = .next t ∧ s.onlyStrand t
      ∧ s.then t = { s.me with joint := closed, stepk := s.me.stepk + 1#32, arrived := true, state := .engwait, wait := .stepMark }) ∧
    (s.me.packet = none → buddy = true → s.me.arrived = true → ∃ t, exec .step s = .next t ∧ s.onlyStrand t
      ∧ s.then t = { s.me with joint := closed, state := .engwait, wait := .stepMark }) ∧
    (s.me.packet.isSome = true → s.trapReady → ∃ t, exec .step s = .next t ∧ s.takesTrap t 0x33 (wordVal .step)) ∧
    (∃ t, exec (.tblw a b) s = .next t ∧ s.onlyContext t (fun c => { c with tbl4 := s.me.rg b ++ s.me.rg a }) ∧ s.leaves t s.me [] ∧ s.sameBytes t))

/-- R326, R333: QCAP and MGMT bring words of the part: constants, the tiles granted to the tenant, G, EXTENT and the modules of the job, TURNLEN
and the bin; temperatures, power, the cap in effect, STATUS, RIC and thermal cluster; an index that names nothing gives bit 63. -/
def Obligations.PartWords : Prop :=
  ∀ (s : State) (d a : BitVec 5), let n := (s.me.rg a).toNat
    let c := ctxOf s.cur
    let p := s.ptid c
    let j := s.job (jobOf c)
    let st := s.status
    (∃ t v, exec (.qcap d a) s = .next t ∧ s.computes t [d] ∧ (s.then t).holdsG d v ∧ (∀ x, fixedWord n = some x → v = BitVec.ofNat 64 x)
      ∧ (n = 3 → v = BitVec.ofNat 64 (s.granted j.tenant)) ∧ (n = 10 → v = BitVec.ofNat 64 j.g) ∧ (n = 11 → v.toNat = s.sched.eff.turnlen.toNat)
      ∧ (n = 12 → v = BitVec.ofNat 64 (recExtent j.record)) ∧ (n = 27 → v.toNat = st.bin.toNat)
      ∧ (n = 28 → v.toNat = 1 + ((List.range 64).filter (fun i => (recPeers j.record).getLsbD i)).length) ∧ (32 ≤ n → v = BitVec.ofNat 64 (2 ^ 63))) ∧
    (∃ t v, exec (.mgmt d a) s = .next t ∧ s.computes t [d] ∧ (s.then t).holdsG d v ∧ (n = 0 → v = BitVec.ofInt 64 (s.tile p).temp)
      ∧ (n = 1 → ∃ m : Int, v = BitVec.ofInt 64 m ∧ (∃ q, q < 1024 ∧ (s.tile q).temp = m) ∧ ∀ q, q < 1024 → (s.tile q).temp ≤ m)
      ∧ (n = 2 → v = BitVec.ofNat 64 s.power.power) ∧ (n = 3 → v = BitVec.ofNat 64 (if st.coolfault then Nat.min s.power.cap 14000 else s.power.cap))
      ∧ (n = 4 → v.getLsbD 0 = st.ready ∧ v.getLsbD 1 = st.fwerr ∧ v.getLsbD 2 = st.calerr ∧ v.getLsbD 3 = st.underbin ∧ v.getLsbD 4 = st.pwrfail
          ∧ v.getLsbD 5 = st.coolfault ∧ (v.getLsbD 6 = true ↔ ∃ q ∈ s.tiles, 1 < q.2.ric.toNat) ∧ v.getLsbD 7 = false
          ∧ v.toNat / 2 ^ 8 % 8 = st.pstate.toNat ∧ v.getLsbD 11 = false ∧ v.toNat / 2 ^ 12 % 4 = st.bin.toNat ∧ v.toNat / 2 ^ 14 % 4 = 0
          ∧ v.toNat / 2 ^ 16 = st.pool.toNat)
      ∧ (n = 5 → v.toNat = (s.tile p).ric.toNat) ∧ (n = 6 → v = BitVec.ofNat 64 (8 * (p / 32 / 4) + p % 32 / 4))
      ∧ (7 ≤ n → v = BitVec.ofNat 64 (2 ^ 63)))

/-- R177, R178, R327: ILOCK of lines the tile holds locks them together and gives 1; a run outside a published object or past the limits gives 0;
IUNLOCK takes the locks of the lines it meets away. -/
def Obligations.LinesLock : Prop :=
  ∀ (s : State) (d a b : BitVec 5), let c := ctxOf s.cur
    let x := s.ctx c
    let tn := (s.job (jobOf c)).tenant
    let va := s.me.rg a
    let n := (s.me.rg b).toNat
    let lines := linesOf va n
    (n = 0 → ∃ t, exec (.ilock d a b) s = .next t ∧ s.computes t [d] ∧ (s.then t).holdsG d 1#64) ∧
    (n ≠ 0 → (isGlobal va = false ∨ (∃ l ∈ lines, s.inObject tn l = false)) → ∃ t, exec (.ilock d a b) s = .next t ∧ s.computes t [d]
      ∧ (s.then t).holdsG d 0#64) ∧
    (n ≠ 0 → (∀ l ∈ lines, s.inObject tn l = true) → locksFit (addLocks x.locks lines) = false → ∃ t, exec (.ilock d a b) s = .next t
      ∧ s.computes t [d] ∧ (s.then t).holdsG d 0#64) ∧
    (n ≠ 0 → n ≤ 66048 → isGlobal va = true → (∀ l ∈ lines, s.inObject tn l = true ∧ ((s.tile (s.ptid c)).findLine tn l).isSome = true) →
      locksFit (addLocks x.locks lines) = true →
      ∃ t, exec (.ilock d a b) s = .next t ∧ s.leaves t s.me [d] ∧ (s.then t).holdsG d 1#64 ∧ s.sameStrands t ∧ s.sameJobs t ∧ s.sameBytes t
        ∧ t = { s with strands := t.strands, jobs := t.jobs, ctxs := t.ctxs, tiles := t.tiles } ∧ (t.ctx c).locks = addLocks x.locks lines
        ∧ ∀ l ∈ lines, ∀ e ∈ (t.tile (s.ptid c)).icache, e.tenant = tn → e.addr = l → e.locked = true) ∧
    (∃ t, exec (.iunlock a b) s = .next t ∧ s.leaves t s.me [] ∧ s.sameStrands t ∧ s.sameJobs t ∧ s.sameBytes t
      ∧ t = { s with strands := t.strands, jobs := t.jobs, ctxs := t.ctxs, tiles := t.tiles }
      ∧ ∀ l, l ∈ (t.ctx c).locks ↔ l ∈ x.locks ∧ ¬ (isGlobal va = true ∧ 0 < n ∧ l * 256 < va.toNat % 2 ^ 49 + n ∧ va.toNat % 2 ^ 49 < l * 256 + 256))

/-- R302, R303, R328: PUBLISH of a staged object that fails a check gives the failure word and publishes nothing; one that passes stands sealed at its
destination: it joins the published objects of the tenant, and its handle is its address. -/
def Obligations.CodePublishes : Prop :=
  ∀ (s : State) (d a b : BitVec 5), s.performed → s.sound → let c := ctxOf s.cur
    let tn := (s.job (jobOf c)).tenant
    (∀ w, s.publish tn (s.strandRead c) (s.me.rg a) (s.me.rg b) none = .fails w →
      ∃ t, exec (.publish d a b) s = .next t ∧ s.computes t [d] ∧ (s.then t).holdsG d w) ∧
    (∀ u w, s.publish tn (s.strandRead c) (s.me.rg a) (s.me.rg b) none = .done u w → s.waiters = [] →
      ∃ t o, exec (.publish d a b) s = .next t ∧ s.leaves t s.me [d] ∧ (s.then t).holdsG d w ∧ t.published = s.published ++ [o]
        ∧ o.tenant = tn ∧ o.base = (s.me.rg b).toNat % 2 ^ 49 ∧ w = BitVec.ofNat 64 o.base ∧ (s.me.rg b).toNat % 65536 = 0
        ∧ o.major = 1 ∧ o.minor ≤ 3 ∧ ∀ p ∈ s.published, p.tenant = tn → p.base + p.length ≤ o.base ∨ o.base + o.length ≤ p.base)

/-- R99, R101, R329: LNCH of a record that fails a check gives its status and value with bit 63 and launches nothing; one that passes becomes a job
of the tenant with the next handle, live at once where it spans no other module. -/
def Obligations.JobsLaunch : Prop :=
  ∀ (s : State) (d a : BitVec 5), s.performed → let c := ctxOf s.cur
    let tn := (s.job (jobOf c)).tenant
    (∀ status value, s.checkLaunch tn (s.strandRead c) (s.me.rg a) = .fails status value →
      ∃ t, exec (.lnch d a) s = .next t ∧ s.computes t [d] ∧ (s.then t).holdsG d (BitVec.ofNat 64 (2 ^ 63 + value % 65536 * 256 + status))) ∧
    (∀ r, s.checkLaunch tn (s.strandRead c) (s.me.rg a) = .ok r → s.nextHandle ≠ jobOf c →
      ∃ t, exec (.lnch d a) s = .next t ∧ s.leaves t s.me [d] ∧ (s.then t).holdsG d (BitVec.ofNat 64 s.nextHandle) ∧ s.sameStrands t
        ∧ s.sameBytes t ∧ t = { s with strands := t.strands, jobs := t.jobs, nextHandle := s.nextHandle + 1, sent := t.sent }
        ∧ (t.job s.nextHandle).record = r ∧ (t.job s.nextHandle).tenant = tn ∧ (t.job s.nextHandle).origin = .strand s.cur
        ∧ (recMulti r = false → (t.job s.nextHandle).phase = .live ∧ t.sent = s.sent)
        ∧ (recMulti r = true → (t.job s.nextHandle).phase = .arming ∧ (t.job s.nextHandle).owed = recPeers r))

/-- R334: with no long-latency operation and no relaxed access outstanding, CRD, CWR, CINS and CRDC bring the old value of a CSR to g(d), and write
the writable bits: all of g(a), those under the mask, zeros; a write of MCB is stated where no other strand waits for a message. The redirect is
decided before the write (R318). A number that names no CSR traps with 0x01.
R164, R168: a write of ASHAPE by the holder of the lease, with the matrix engine empty and idle, selects its bands; bands of 0 change nothing;
without the lease it traps with 0x41. -/
def Obligations.ControlRegistersMove : Prop :=
  (∀ (s : State) (d a : BitVec 5) (b : BitVec 4) (c : BitVec 12), let n := c.toNat
    let v := s.me.rg (b ++ 0#1)
    let m := s.me.rg (b ++ 1#1)
    (∀ old, s.readCsr s.cur n = some old → s.me.settled = true →
      (∃ t, exec (.crd d c) s = .next t ∧ s.computes t [d] ∧ (s.then t).holdsG d old) ∧
      (n ≠ 0x040 → (n = 0x030 → ∀ k, k ≠ s.cur → ∀ cl, (s.strand k).wait ≠ .recv cl) → ∀ i new dest, (i = Instr.cwr a c ∧ new = s.me.rg a ∧ dest = 0#5)
            ∨ (i = Instr.cins d b c ∧ m ≠ 0#64 ∧ new = (old &&& ~~~m) ||| (v &&& m) ∧ dest = d) ∨ (i = Instr.crdc d c ∧ new = 0#64 ∧ dest = d) →
        ∃ t, exec i s = .next t ∧ (s.then t).holdsG dest old ∧ (∀ r, r ≠ dest → (s.then t).rg r = s.me.rg r) ∧ (s.then t).pc = s.me.advance.pc
          ∧ s.sameStrands t ∧ s.sameJobs t ∧ s.sameBytes t ∧ t = { s with strands := t.strands, jobs := t.jobs, ctxs := t.ctxs }
          ∧ (writableBits n ≠ 0 → t.readCsr s.cur n = some (new &&& BitVec.ofNat 64 (writableBits n)))
          ∧ (n ≠ 0x030 → t.ctxs = s.ctxs) ∧ (n ≠ 0x008 → (s.then t).fflags = s.me.fflags)) ∧
      (m = 0#64 → ∃ t, exec (.cins d b c) s = .next t ∧ s.computes t [d] ∧ (s.then t).holdsG d old)) ∧
    (s.readCsr s.cur n = none → s.trapReady → ∀ i ∈ [Instr.crd d c, .cwr a c, .cins d b c, .crdc d c],
      ∃ t, exec i s = .next t ∧ s.takesTrap t 0x01 (BitVec.ofNat 64 n))) ∧
  (∀ (s : State) (a : BitVec 5), let x := s.ctx (ctxOf s.cur)
    let bands : BitVec 4 := BitVec.ofNat 4 (s.me.rg a).toNat
    let mine := x.lease.holder = some (stridOf s.cur)
    s.me.settled = true →
    (mine → bands ≠ 0#4 → x.cmdList 0 = [] → x.inProgress 0 = [] → ∃ t, exec (.cwr a 0x040#12) s = .next t ∧ s.leaves t s.me []
      ∧ s.sameStrands t ∧ (t.ctx (ctxOf s.cur)).ashape = bands) ∧
    (mine → bands = 0#4 → ∃ t, exec (.cwr a 0x040#12) s = .next t ∧ s.computes t []) ∧
    (mine → bands ≠ 0#4 → x.cmdList 0 ≠ [] → ∃ t, exec (.cwr a 0x040#12) s = .next t ∧ s.waitsIn t .engwait (.ashape bands 0#5)) ∧
    (¬ mine → s.trapReady → ∃ t v, exec (.cwr a 0x040#12) s = .next t ∧ s.bump.takesTrap t 0x41 v))

/-! ### Commands -/

/-- R170, R293, R397–R399, R423: CNOP completes at the head of its queue with OK, BADCMD with BADCMD and its DETAIL, MARK with OK once no earlier command of
its queue is in progress; until then MARK has left the queue and is in progress. On q5, where commands complete in queue order, CNOP and BADCMD
complete where none is in progress. -/
def Obligations.CommandsComplete : Prop :=
  ∀ (s : State) (h : CmdHdr) (e : CmdEntry) (rest : List CmdEntry) (detail : BitVec 8), s.starts h e rest → s.reports h →
    let q := h.queue.toNat
    let rs := (s.ctx s.focus).running
    let off := fun (c : Ctx) => c.setCmds q rest
    let alone := q = 5 → ∀ r ∈ rs, r.queue ≠ 5
    (alone → ∃ t, exec (.cnop h) s = .next t ∧ s.engine t off rs [s.ending h 0 0#6 0 0]) ∧
    (alone → q ≠ 6 → ∃ t, exec (.badcmd h detail) s = .next t ∧ s.engine t off rs [s.ending h 1 0#6 0 detail.toNat]) ∧
    ((∀ r ∈ rs, r.queue = q → h.seq ≤ r.entry.seq) → ∃ t, exec (.mark h) s = .next t ∧ s.engine t off rs [s.ending h 0 0#6 0 0]) ∧
    ((∃ r ∈ rs, r.queue = q ∧ r.entry.seq < h.seq) → ∃ t, exec (.mark h) s = .next t ∧ s.engine t off (rs ++ [{ entry := e, queue := q }]) [])

/-- R165, R270, R401, R404: MWLOAD takes its weight rows from q1 one by one and after the last latches them into the buffer that is not in use, columns
of the selected bands alone; metadata out of order is BADCMD. MCLEAR clears its accumulator rows. -/
def Obligations.WeightsLoad : Prop :=
  ∀ (s : State) (h : CmdHdr), let c := s.ctx s.focus
    (∀ (wfmt : BitVec 4) (sparse : BitVec 2) (k : BitVec 10) (r : Running) (row : Row) (rest : List Row), s.works h r → c.rowList 1 = row :: rest →
      let n := if wfmt = 0#4 then 16 else 64
      let col := fun (i : Nat) => if wfmt = 0#4 then 4 * i else i
      let ordered := ∀ i w, (r.rows ++ [row])[i]? = some w → c.ashape.getLsbD (col i / 16) = true → metaOk sparse.toNat k.toNat w = true
      (r.rows.length + 1 < n → ∃ t, exec (.mwload h wfmt sparse k) s = .next t ∧ s.engine t (fun c => c.setRows 1 rest)
        (s.nowAt h { r with rows := r.rows ++ [row], done := r.rows.length + 1, waitSince := none }) []) ∧
      (r.rows.length + 1 = n → s.reports h → ordered → ∃ t bufs kmax, exec (.mwload h wfmt sparse k) s = .next t
        ∧ s.engine t (fun c => { (c.setRows 1 rest) with wbuf := bufs, fresh := true, kmax := kmax }) (s.besides h) [s.ending h 0 0#6 n 0]
        ∧ tableGet {} bufs c.active = tableGet {} c.wbuf c.active
        ∧ (let b := tableGet {} bufs (1 - c.active)
           b.fmt = wfmt ∧ b.sparse = sparse ∧ b.k = k.toNat ∧ b.lut = r.lut
            ∧ ∀ i w, (r.rows ++ [row])[i]? = some w → ((col i, some w) ∈ b.cols ↔ c.ashape.getLsbD (col i / 16) = true))) ∧
      (r.rows.length + 1 = n → s.reports h → ¬ ordered → ∃ t, exec (.mwload h wfmt sparse k) s = .next t
        ∧ s.engine t (fun c => c.setRows 1 rest) (s.besides h) [s.ending h 1 0#6 0 68])) ∧
    (∀ (row0 : BitVec 9) (nrows : BitVec 10) (e : CmdEntry) (rest : List CmdEntry), s.starts h e rest → c.inProgress 0 = [] → s.reports h →
      ∃ t acc kmax, exec (.mclear h row0 nrows) s = .next t
        ∧ s.engine t (fun c => { (c.setCmds h.queue.toNat rest) with acc := acc, kmax := kmax }) c.running [s.ending h 0 0#6 nrows.toNat 0]
        ∧ ∀ row col, row < 512 → col < 64 → tableGet {} acc (64 * row + col) =
            if (row + 512 - row0.toNat) % 512 < nrows.toNat then {} else c.accAt row col)

/-- R167, R264, R267, R269, R402, R403: MSTREAM takes the rows of one activation vector from q2 into its accumulator row and leaves every other row; for
dense i8 a column's residues grow by the exact sum of its present products. MDRAIN hands a row to q3, or to memory, and clears it where it
says so. -/
def Obligations.RowsStream : Prop :=
  ∀ (s : State) (h : CmdHdr) (r : Running), s.works h r → let c := s.ctx s.focus
    (∀ (afmt : BitVec 4) (rows : BitVec 16) (acc : BitVec 9) (ovr : BitVec 1), let b := tableGet {} c.wbuf c.active
      let n := entriesPerRow afmt.toNat b.k
      let row := (acc.toNat + r.done) % 512
      mfcPairs b.fmt.toNat afmt.toNat = true → n ≤ (c.rowList 2).length →
      (∀ p ∈ b.cols, p.1 < 64 ∧ (b.fmt = 0#4 → p.1 < 63)) → b.cols.Pairwise (fun p q => p.1 ≠ q.1) → (r.done + 1 = rows.toNat → s.reports h) →
      ∃ t acc' kinds' f, exec (.mstream h afmt rows acc ovr) s = .next t
        ∧ (let rest := fun (c : Ctx) => { (c.setRows 2 ((c.rowList 2).drop n)) with acc := acc', kinds := kinds' }
           if r.done + 1 = rows.toNat then s.engine t rest (s.besides h) [s.ending h 0 (r.flags ||| f) (r.done + 1) 0]
           else s.engine t rest (s.nowAt h { r with done := r.done + 1, flags := r.flags ||| f, waitSince := none }) [])
        ∧ (∀ x col, x ≠ row → col < 64 → tableGet {} acc' (64 * x + col) = c.accAt x col)
        ∧ (∀ a w col, b.fmt = 8#4 → afmt = 8#4 → b.sparse = 0#2 → b.k ≤ 64 → ovr = 0#1 → tableGet .fp32 c.kinds row = .residue →
            (c.rowList 2).head? = some a → (col, some w) ∈ b.cols →
            let js := (List.range b.k).filter (fun j => element 1 w j != 128 && element 1 a j != 128)
            let sum := (js.map (fun j => (asSigned 8 (element 1 w j)).toInt * (asSigned 8 (element 1 a j)).toInt)).sum
            let e := c.accAt row col
            let e' := tableGet {} acc' (64 * row + col)
            if js = [] then e' = e
            else e'.count = Nat.min (e.count + 1) (Nat.max e.count 16777215) ∧
              ∀ x ∈ [(2047, 0, 11), (2048, 11, 11), (2049, 22, 12)], (natAt x.2.1 x.2.2 e'.sum : Int) =
                ((if e.count = 0 then 0 else (natAt x.2.1 x.2.2 e.sum : Int)) + sum) % (x.1 : Int))) ∧
    (∀ (row0 : BitVec 9) (nrows : BitVec 10) (mode : BitVec 2) (ofmt : BitVec 4) (dq clr : BitVec 1) (daddr : BitVec 64) (dstride : BitVec 32),
      let row := (row0.toNat + r.done) % 512
      let x := c.drainRow row mode.toNat ofmt.toNat
      let last := r.done + 1 = nrows.toNat
      let r' := { r with done := r.done + 1, flags := r.flags ||| x.2 }
      let cleared := fun (acc : Table AccEntry) => ∀ y col, col < 64 → tableGet {} acc (64 * y + col) = if clr = 1#1 ∧ y = row then {} else c.accAt y col
      let i : Instr := .mdrain h row0 nrows mode ofmt dq clr daddr dstride
      r.rows = [] →
      (dq = 0#1 → (last → s.reports h) → (c.rowList 3).length + (rowsOfBytes x.1).length ≤ 64 → ∃ t acc, exec i s = .next t ∧ cleared acc
        ∧ (let f := fun (c : Ctx) => { (c.setRows 3 (c.rowList 3 ++ rowsOfBytes x.1)) with acc := acc }
           if last then s.engine t f (s.besides h) [s.ending h 0 r'.flags r'.done 0] else s.engine t f (s.nowAt h r') [])
        ∧ (mode = 0#2 → ofmt = 1#4 → tableGet .fp32 c.kinds row = .fp32 → ∃ y, rowsOfBytes x.1 = [y] ∧ ∀ j, j < 64 → element 4 y j =
            if (c.accAt row j).count = 0 then fp32.absent else (c.accAt row j).sum.toNat % 2 ^ 32)) ∧
      (∀ s1 l, dq = 1#1 → r.count = 0 → r.late = [] → r.done < nrows.toNat → s.engStop s.focus = false →
        let a := daddr + BitVec.ofNat 64 (r.done * dstride.toNat)
        x.1 ≠ [] → a.toNat % 256 + x.1.length ≤ 256 → s.engPlace (r.eng s.focus) { wr := true } a x.1.length = .at s1 l → s.clean l →
        ∃ t acc ws, exec i s = .next t ∧ cleared acc ∧ piecesOf l x.1 0 ws
          ∧ s.engine t (fun c => { c with acc := acc }) (s.nowAt h
              { r' with buf := x.1.length, waitSince := none, hostSince := none, waitsOn := none, grant := [], late := ws }) []))

/-- R200, R406–R410: a copy command reads a chunk and decides on its writes, one for each aligned word; what it has read stands in them.
R193, R200, R407: of a command that writes to memory, once all its chunks have started, the writes in flight are performed one by one, those
to a word in their order; each puts its bytes there, with the full/empty bit as FEOP says, and changes no other byte; with the last of
them the command ends with OK and its count. -/
def Obligations.CopiesMove : Prop :=
  (∀ (s s1 s2 : State) (h : CmdHdr) (r : Running) (i : Instr) (buf : Nat) (k : Part) (bs : List Byte) (l : Loc), s.works h r → PartOf s r i h buf k →
    r.late = [] → s.engStop s.focus = false →
    (match k.src with
     | none => s1 = s ∧ bs = k.data
     | some a => s.engRead (r.eng s.focus) a k.len = .ok s1 bs ∧ s1 = { s with tiles := s1.tiles }) →
    s1.engPlace (r.eng s.focus) { wr := true, fe := k.feop != 0 } k.dst k.len = .at s2 l → s.clean l →
    ∃ t ws, exec i s = .next t ∧ bs.length = k.len ∧ piecesOf l bs k.feop ws
      ∧ s.engine t id (s.nowAt h
          { r with buf := buf, done := k.done, count := k.count, waitSince := none, hostSince := none, waitsOn := none, grant := [], late := ws }) []
      ∧ (∀ a u m, k.src = some a → a.toNat % 256 + k.len ≤ 256 → s.engPlace (r.eng s.focus) { rd := true } a k.len = .at u m →
          bs = s.readList m k.len)) ∧
  (∀ (s : State) (h : CmdHdr) (r : Running) (i : Instr) (value : Nat), s.works h r → AllStarted s r i h value →
    (r.late = [] → s.reports h → ∃ t, exec i s = .next t ∧ s.engine t id (s.besides h) [s.ending h 0 r.flags value 0]) ∧
    (r.late ≠ [] → (∀ w ∈ r.late, s.lockedFor 0 w.loc w.bytes.length = false ∧ s.unwatched w.loc w.bytes.length ∧ (w.feop = 0 ∨ ∀ p a, w.loc ≠ .host p a)) → (r.late.length = 1 → s.reports h) →
      ∃ t w pre post b, r.late = pre ++ w :: post ∧ (∀ x ∈ pre, x.loc.word ≠ w.loc.word) ∧ exec i s = .next t
        ∧ s.putThere t w.loc w.bytes w.feop
        ∧ (if pre ++ post = [] then s.engineStores t (s.besides h) [s.ending h 0 r.flags value 0]
           else s.engineStores t (s.nowAt h { r with late := pre ++ post, buf := b }) [])))

/-- R411–R413, R416–R418: CHAIN takes the next 32 elements at most through its slots into the scratchpad. A truss command that delivers starts the chunks
of its result one by one, or hands its rows to q7 and leaves q6 with the last one. -/
def Obligations.ChainsAndTruss : Prop :=
  ∀ (s : State) (h : CmdHdr) (r : Running), s.works h r → s.reports h → let c := s.ctx s.focus
    (∀ (slots : BitVec 96) (itype otype : BitVec 4) (src dst : BitVec 17) (const : BitVec 20) (n : BitVec 24), r.done < n.toNat →
      let m := Nat.min 32 (n.toNat - r.done)
      let wi := fcBytes itype.toNat
      let wo := fcBytes otype.toNat
      let from' := fun i => 256 * src.toNat + (r.done + i) * wi
      let to' := fun i => 256 * dst.toNat + (r.done + i) * wo
      let y := fun i => chainElement slots itype.toNat otype.toNat (r.rows.headD 0#2048) (s.ownNat s.focus (from' i) wi)
      s.ownLocked s.focus (from' 0) (m * wi) = false → s.ownLocked s.focus (to' 0) (m * wo) = false →
      (from' m ≤ to' 0 ∨ to' m ≤ from' 0) → s.unwatched (.spm s.focus (to' 0)) (m * wo) →
      ∃ t f, exec (.chain h slots itype otype src dst const n) s = .next t ∧ raises m (fun i => (y i).2) f
        ∧ (if n.toNat ≤ r.done + m then s.engineStores t (s.besides h) [s.ending h 0 (r.flags ||| f) (r.done + m) 0]
           else s.engineStores t (s.nowAt h { r with done := r.done + m, flags := r.flags ||| f }) [])
        ∧ (∀ i, i < m → t.readNat (.spm s.focus (to' i)) wo = (y i).1 % 256 ^ wo)
        ∧ (∀ k, (Loc.spm s.focus (to' 0)).outside (m * wo) k.cell → t.byteAt k = s.byteAt k) ∧ (∀ k, t.fullAt k = s.fullAt k)) ∧
    (∀ (i : Instr) (a : Word) (o m : Nat) (s1 : State) (l : Loc), TrussPart s r i h a o m → r.late = [] →
      s.engPlace (r.eng s.focus) { wr := true } a m = .at s1 l → s.clean l →
      ∃ t ws, exec i s = .next t ∧ piecesOf l ((List.range m).map (fun j => rowsByte r.rows (o + j))) 0 ws
        ∧ s.engine t id (s.nowAt h { r with done := r.done + m, waitSince := none, hostSince := none, waitsOn := none, grant := [], late := ws }) []) ∧
    (∀ (op : BitVec 2) (type : BitVec 4) (src : BitVec 25) (dst : BitVec 64) (n : BitVec 24), ∀ i ∈ [Instr.tred h op type 1#1 src dst n, .tgath h 1#1 src dst n],
      let room := 16 - (c.rowList 7).length
      let f := fun (c : Ctx) => { (c.setRows 7 (c.rowList 7 ++ c.trussBuf.take room)) with trussBuf := c.trussBuf.drop room }
      h.queue = 6#4 → ∃ t, exec i s = .next t ∧ (if c.trussBuf.length ≤ room
        then s.engine t (fun c => (f c).setCmds 6 (c.cmdList 6).tail) (s.besides h) [s.ending h 0 r.flags r.count 0]
        else s.engine t f c.running []))

/-- R68–R70, R420–R422: a bank command gives its elements of y one by one where no unit it needs serves an earlier command: to memory, with the
count behind the value where YCNT is set and else two values to a word, or in rows of 64 to q9, with a row of counts; after the last it
ends with OK and its VALUE. That the += form keeps a previous element whose count is not known or is 0, and the units serve in the order in
which commands reached them, is logs 43 and 61; that a step computes one element is log 25. -/
def Obligations.BankCommands : Prop :=
  ∀ (s : State) (h : CmdHdr) (r : Running) (i : Instr) (queue : Bool) (y : Word) (ycnt : BitVec 1) (total value : Nat) (p : Partial),
    let n := if queue then r.done else r.done + r.count
    s.works h r → BankElement s r n i h queue y ycnt total value p → r.rows = [] → r.failed = none → n < total → s.bankBusy s.focus r n = false →
    s.anyLocked = false → s.sound →
    s.reports h → (s.gangOf s.focus).state ≠ .swapped →
    let w := if ycnt = 1#1 then 8 else 4
    let val := p.val.getD fp32.absent
    let cnt := Nat.min p.cnt 16777215
    let f := r.flags ||| p.flags ||| (if 16777215 < p.cnt then fRange else 0#6)
    let last := n + 1 = total
    let q9 := (s.ctx s.focus).rowList 9
    (queue = false → r.count ≤ 1 → (ycnt = 1#1 → r.count = 0) →
      (ycnt = 0#1 → r.count = 0 → ¬ last → ∃ t seen, exec i s = .next t
        ∧ s.engine t id (s.nowAt h { r with count := 1, buf := val, flags := f, seen := seen }) []) ∧
      (∀ k, ycnt = 1#1 ∨ r.count = 1 ∨ last → s.bankKey s.focus (y + BitVec.ofNat 64 (r.done * w)) = some k →
        let len := (r.count + 1) * w
        let v := if ycnt = 1#1 then val + 2 ^ 32 * cnt else if r.count = 1 then r.buf + 2 ^ 32 * val else val
        s.unwatched (.rim k false) len →
        ∃ t seen, exec i s = .next t ∧ s.stored t (.rim k false) len (v % 256 ^ len)
          ∧ (if last then s.engineStores t (s.besides h) [s.ending h 0 f value 0]
             else s.engineStores t (s.nowAt h { r with done := r.done + r.count + 1, count := 0, buf := 0, flags := f, seen := seen }) []))) ∧
    (queue = true → let buf := r.buf + val * 2 ^ (32 * r.count) + cnt * 2 ^ (2048 + 32 * r.count)
      let rows := resultRows buf (r.count + 1) ycnt
      (r.count + 1 ≠ 64 → ¬ last → ∃ t seen, exec i s = .next t
        ∧ s.engine t id (s.nowAt h { r with done := r.done + 1, count := r.count + 1, buf := buf, flags := f, seen := seen }) []) ∧
      (r.count + 1 = 64 ∨ last → q9.length + rows.length ≤ 64 → ∃ t seen, exec i s = .next t ∧
        (let g := fun (c : Ctx) => c.setRows 9 (q9 ++ rows)
         if last then s.engine t g (s.besides h) [s.ending h 0 f value 0]
         else s.engine t g (s.nowAt h { r with done := r.done + 1, count := 0, buf := 0, rows := [], flags := f, seen := seen }) [])))

/-! ### Events of strands and engines -/

/-- R57, R103, R149, R151, R155–R158, R162–R169, R176, R206, R219, R220, R226, R243, R289, R325, R337: what happens to a strand or an engine beside its
instructions, each where its condition holds. That a breakpoint halts inside an open packet too is log 29. -/
def Obligations.SlotEvents : Prop :=
  ∀ (s : State), let k := s.input.key
    let st := s.strand k
    let c := s.input.ctx
    let x := s.ctx c
    let handled := st.out = [] ∧ st.trap.ha = false ∧ st.trap.tvec ≠ 0#64
    let entered := fun (t : State) (cause : Nat) (val : Word) => (t.strand k).trap.tcause = BitVec.ofNat 7 cause ∧ (t.strand k).trap.tval = val
      ∧ (t.strand k).trap.tpc = st.pc &&& ~~~3#64 ∧ (t.strand k).pc = st.trap.tvec ∧ (t.strand k).trap.ha = true
    (∀ (w : BitVec 32) (reserved : Bool), s.trapReady →
      ∃ t, exec (.illegalOpcode w reserved) s = .next t ∧ s.takesTrap t (if reserved then 0x02 else 0x01) (BitVec.ofNat 64 w.toNat)) ∧
    (st.wait = .refused → st.readyAt ≤ s.cycle → ∃ t, exec .feWaitReissue s = .next t ∧ t = { s with strands := t.strands }
      ∧ t.strand k = { st with state := .ready, wait := .none } ∧ ∀ j, j ≠ k → t.strand j = s.strand j) ∧
    (∀ v, st.wait = .idle v → v.toNat ≤ s.ticks / 17 → ∃ t, exec .idleDeadline s = .next t ∧ t = { s with strands := t.strands }
      ∧ (t.strand k).state = .ready ∧ (t.strand k).wait = .none ∧ (t.strand k).pc = st.pc ∧ (∀ r, (t.strand k).rg r = st.rg r)
      ∧ ∀ j, j ≠ k → t.strand j = s.strand j) ∧
    (∀ bands d, st.wait = .ashape bands d → bands ≠ 0#4 → (s.ctx (ctxOf k)).cmdList 0 = [] → (s.ctx (ctxOf k)).inProgress 0 = [] →
      ∃ t, exec .ashapeWrite s = .next t ∧ (t.ctx (ctxOf k)).ashape = bands ∧ (t.strand k).pc = st.advance.pc ∧ (t.strand k).state = .ready
        ∧ (t.strand k).holdsG d (BitVec.ofNat 64 (s.ctx (ctxOf k)).ashape.toNat) ∧ ∀ r, r ≠ d → (t.strand k).rg r = st.rg r) ∧
    (∃ t, exec .vectorAccept s = .next t ∧ t = { s with ctxs := t.ctxs }
      ∧ ∀ y, t.ctx y = if y = c then { x with vq := x.vq.filter (fun n => decide (s.cycle < n)) } else s.ctx y) ∧
    (∀ o d v, st.out = [o] → s.input.idx = 0 → (∀ w ∈ s.waiters, w.key ≠ k) → o.doneAt ≤ s.cycle → o.access = none → o.elems = [] → o.gw = [(d, v)] → o.vw = [] → o.kw = [] →
      o.flags &&& st.fen = 0#6 → ∃ t, exec (if o.isLong then .longLatencyComplete else .memoryResponse) s = .next t
        ∧ t = { s with strands := t.strands } ∧ (t.strand k).out = [] ∧ (t.strand k).holdsG d v ∧ (∀ r, r ≠ d → (t.strand k).rg r = st.rg r)
        ∧ (t.strand k).fflags = st.fflags ||| o.flags ∧ ∀ j, j ≠ k → t.strand j = s.strand j) ∧
    (∀ o a, st.out = [o] → s.input.idx = 0 → (∀ w ∈ s.waiters, w.key ≠ k) → o.access = some a → o.elems = [] → o.isLong = false → o.waits = false → o.doneAt ≤ s.cycle → s.locBad a.loc = true →
      (s.ring (s.job (jobOf (ctxOf k))).tenant).en = true → ∃ t, exec .memoryResponse s = .next t ∧ (t.strand k).held = some (0x50#8, a.va)
        ∧ (t.strand k).pc = o.pc ∧ (t.strand k).out = [] ∧ (∀ r, (t.strand k).rg r = st.rg r)) ∧
    (∀ lines, s.sound → st.wait = .icache lines → st.readyAt ≤ s.cycle → ∃ t, exec .icacheFill s = .next t ∧ t = { s with strands := t.strands, tiles := t.tiles }
      ∧ t.strand k = { st with state := .ready, wait := .none } ∧ ∀ j, j ≠ k → t.strand j = s.strand j) ∧
    (∀ va n, st.wait = .hostPort va n → n + 85000000 ≤ s.cycle → handled → ∃ t, exec .hostWindowTimeout s = .next t ∧ entered t 0x2C va) ∧
    (st.stopReq = true → st.packet = none → st.joint.locked = false → st.out = [] → st.quiet = false →
      (∀ va n, st.wait ≠ .hostPort va n) → st.wait ≠ .locked → st.wait ≠ .fence → ∃ t, exec .stopAtPreemption s = .next t ∧ (t.strand k).stopped = true
      ∧ (t.strand k).stopReq = false ∧ (t.strand k).pc = st.pc ∧ (∀ r, (t.strand k).rg r = st.rg r)
      ∧ (st.joint.isOpen = true → st.joint.code = 0#4 → (t.strand k).joint.code = 7#4)) ∧
    (∀ f, st.pend = some f → handled → st.quiet = false → ∃ t, exec .deferredFlagTrap s = .next t ∧ entered t 0x17 (BitVec.ofNat 64 f.toNat)
      ∧ (t.strand k).pend = none) ∧
    (s.atBreakpoint k = true → st.out = [] → st.quiet = false → ∃ t, exec .breakpoint s = .next t ∧ (t.strand k).state = .halted
      ∧ (t.strand k).pc = st.pc ∧ ∀ r, (t.strand k).rg r = st.rg r) ∧
    (∀ r, x.running.find? (fun r => r.starved s.cycle) = some r → s.ctxBlocked c = true →
      ∃ t, exec .feedUnderflow s = .next t ∧ (∀ y ∈ (t.ctx c).running, y.isOf (r.entry.hdr 0) = false)
        ∧ ((r.entry.hdr 0).peg = false → s.hosted c = true → x.guardsMet 0 → (∃ n, n < 16 ∧ (s.strand (strandKey c n)).alive = true) →
            ∃ p, (t.ctx c).posted = x.posted ++ [p] ∧ p.queue = 0
              ∧ p.status = BitVec.ofNat 64 (3 + 256 * 0x43 + 65536 * (r.flags &&& 0x2F#6).toNat + 16777216 * r.done))) ∧
    (∀ p rest, x.posted = p :: rest → x.fill 7 + 3 ≤ 64 → x.headsMet →
      (∀ q ∈ x.staging, q.cls = 7 → q.hdr.isSome = true → q.onLinks = false → q.readyAt ≤ s.cycle → p.postedAt ≤ q.readyAt) →
      ∃ t, exec .engineCompletionAdmit s = .next t ∧ (t.ctx c).posted = rest ∧ tableGet [] (t.ctx c).inbox 7 =
          tableGet [] x.inbox 7 ++ [⟨p.hdr, true, p.merge, p.view⟩, ⟨p.status, false, none, []⟩, ⟨p.detail, false, none, []⟩]) ∧
    (∀ p h pre post, x.staging = pre ++ p :: post → p.cls = s.input.cls → p.hdr = some h → p.onLinks = false → p.readyAt ≤ s.cycle →
      (∀ q ∈ pre, q.cls = p.cls → q.hdr.isSome = true → q.onLinks = false → p.readyAt < q.readyAt) →
      (∀ q ∈ post, q.cls = p.cls → q.hdr.isSome = true → q.onLinks = false → p.readyAt ≤ q.readyAt) →
      (p.cls = 7 → ∀ y ys, x.posted = y :: ys → p.readyAt < y.postedAt) → x.fill p.cls + p.words.length + 1 ≤ 64 →
      ∃ t, exec .packetAdmit s = .next t ∧ (t.ctx c).staging = ({ x with staging := pre ++ post }.landed p.cls s.cycle).staging
        ∧ tableGet [] (t.ctx c).inbox p.cls = tableGet [] x.inbox p.cls ++ (⟨h, true, p.merge, p.view⟩ :: p.words.map (fun w => ⟨w, false, none, []⟩)))

/-! ### Bring-up, links and limits -/

/-- R23–R44, R57, R61: the steps of bring-up in their order, what each leaves, the loss of the supply, coolant, and ports and links. The place of
the fields of R36 in a flit, its source peer in bits 6 to 11 and its channel in bits 12 and 13, and the check of its sequence are the model's choice
(log 12). -/
def Obligations.BringUpEvents : Prop :=
  ∀ (s : State),
    let ends := fun (n : Nat) => s.boot = n ∧ s.bootStopped = false ∧ s.powerLost = false
    let afresh := fun (t : State) => t.boot = 1 ∧ t.status.ready = false ∧ t.strands = [] ∧ t.ctxs = [] ∧ t.jobs = [] ∧ t.rim = [] ∧ t.rimfe = []
      ∧ t.hq = [] ∧ t.powerLost = false ∧ (∀ l, (match l with | .host _ _ => True | _ => False) → t.byteAt l = s.byteAt l)
      ∧ (t.status.fwerr = true ↔ t.laroon.slotA.verifies t.laroon.rollback = false ∧ t.laroon.slotB.verifies t.laroon.rollback = false)
    let served := ∀ q, q < 4 → (portTiles q).all s.darkTile = false
    let p := s.input.port
    (∃ t, exec .powerGood s = .next t ∧ afresh t ∧ t.laroon.slotA = s.laroon.stagedA.getD s.laroon.slotA
      ∧ t.laroon.slotB = s.laroon.stagedB.getD s.laroon.slotB ∧ t.laroon.stagedA = none ∧ t.laroon.stagedB = none) ∧
    (s.powerLost = false → ∃ t, exec .port0Reset s = .next t ∧ afresh t) ∧
    (s.powerLost = true → exec .port0Reset s = .next s) ∧
    (ends 1 → s.env.calFail = false → exec .selfCalibration s = .next { s with boot := 2 }) ∧
    (ends 1 → s.env.calFail = true → ∃ t, exec .selfCalibration s = .next t ∧ t.status.calerr = true ∧ t.bootStopped = true ∧ t.boot = 1) ∧
    (ends 2 → ∃ t, exec .memoryInitialisation s = .next t ∧ t = { s with boot := 3, rim := [], rimfe := [], ctxs := [] }
      ∧ ∀ a b, t.byteAt (.rim a b) = 0#8 ∧ t.fullAt (.rim a b) = true) ∧
    (ends 3 → ∃ t, exec .inFieldTileTest s = .next t ∧ t = { s with boot := 4, tiles := t.tiles }
      ∧ ∀ n code, s.env.tileTest = [(n, code)] → (t.tile n).code = if 5 ≤ (s.tile n).code.toNat then (s.tile n).code else code) ∧
    (ends 4 → served → ∃ t, exec .poolFormation s = .next t ∧ t.boot = 5 ∧ t.status.ready = true ∧ (t.rangeEntry 0).valid = true
      ∧ (t.rangeEntry 0).baseAddr = 0 ∧ (t.rangeEntry 0).limitAddr = 3298534883328 ∧ (∀ n, n ≠ 0 → (t.rangeEntry n).valid = false)
      ∧ t.status.pool.toNat = ((List.range 1024).filter (fun n => (t.tile n).code == 0#4)).length
      ∧ ∀ m ps, s.env.routes = [(m, ps)] → (t.peer m).routed = true ∧ (t.peer m).ports = ps.take 4) ∧
    (ends 4 → ¬ served → ∃ t, exec .poolFormation s = .next t ∧ t.status.calerr = true ∧ t.status.ready = s.status.ready ∧ t.bootStopped = true) ∧
    (∃ t, exec .supplyFail s = .next t ∧ t.powerLost = true ∧ t.status.pwrfail = true ∧ t.status.ready = false ∧ t.strands = [] ∧ t.ctxs = []
      ∧ t.jobs = [] ∧ t.rim = []) ∧
    (∃ t, exec .coolantFault s = .next t ∧ t.status.coolfault = true ∧ t.capNow = Nat.min s.power.cap 14000) ∧
    (∃ t, exec .coolantRecover s = .next t ∧ t.status.coolfault = false ∧ t.capNow = s.power.cap) ∧
    (1 ≤ p → p ≤ 3 → ∃ t, exec .portHotReset s = .next t ∧ t = { s with ports := t.ports } ∧ (t.hostPort p).up = false
      ∧ ∀ n, n ≠ p → t.hostPort n = s.hostPort n) ∧
    (p ≤ 3 → ∃ t, exec .portBackUp s = .next t ∧ t = { s with ports := t.ports }
      ∧ t.hostPort p = { up := true, width := s.input.value.toNat % 256, rate := s.input.value.toNat / 256 % 256 }
      ∧ ∀ n, n ≠ p → t.hostPort n = s.hostPort n) ∧
    (∃ t, exec .laneFail s = .next t ∧ t = { s with links := t.links } ∧ (t.link p).lanes = (s.link p).lanes - 1
      ∧ ((t.link p).up = true ↔ (s.link p).up = true ∧ 4 ≤ (s.link p).lanes - 1) ∧ ∀ n, n ≠ p → t.link n = s.link n) ∧
    (∃ t, exec .linkTraining s = .next t ∧ ((t.link p).up = true ↔ 4 ≤ (s.link p).lanes) ∧ ((s.peer s.input.peer).routed = true →
      p ∈ (s.peer s.input.peer).ports → (t.peer s.input.peer).lost = false ∧ (t.peer s.input.peer).lastFlit = s.ticks)) ∧
    (let f := s.input.flit
     let m := f.toNat / 64 % 64
     let ch := f.toNat / 4096 % 4
     let seqs := (s.peer m).seqs
     let good := Config.crcGood f = true ∨ Config.fecGood f = true
     let heard := fun (t : State) (m : Nat) => (s.peer m).routed = true → p ∈ (s.peer m).ports → (t.peer m).lastFlit = s.ticks
     (s.link p).up = true →
      (¬ good → ∃ t, exec .flitReceive s = .next t ∧ t.link p = { s.link p with replays := (s.link p).replays + 1 } ∧ heard t s.input.peer) ∧
      (good → Config.inSequence f (tableGet 0 seqs ch) = false → ∃ t, exec .flitReceive s = .next t ∧ t.links = s.links
        ∧ heard t m ∧ (t.peer m).seqs = seqs) ∧
      (good → Config.inSequence f (tableGet 0 seqs ch) = true → s.input.load = none → ∃ t, exec .flitReceive s = .next t ∧ t.links = s.links
        ∧ heard t m ∧ ∀ n, tableGet 0 (t.peer m).seqs n = tableGet 0 seqs n + (if n = ch then 1 else 0)))

/-- R22, R28, R39–R41, R44: from step 1 on the mailbox takes one request at a time, and answers it; with no firmware that verifies it takes
attestation and a new firmware slot alone. -/
def Obligations.MailboxRequests : Prop :=
  ∀ (s : State), s.boot ≠ 0 →
    let m := s.laroon.mailbox
    let slot : FirmwareSlot := if s.laroon.slot = some 1 then s.laroon.slotA else if s.laroon.slot.isSome then s.laroon.slotB else ⟨false, 0, [], []⟩
    let codes := [(Instr.readDefectMap, 1), (.attestation, 2), (.setPowerCap, 3), (.readLinkStatus, 4), (.readFirmwareVersions, 5),
      (.writeFirmwareSlot, 6), (.unknownRequest, 0)]
    (s.input.idx = 0 → ∀ x ∈ codes, ∃ t, exec x.1 s = .next t ∧ t.laroon = { s.laroon with mailbox :=
      if m.busy = none then { m with busy := some { code := x.2, value := s.input.value, nonce := s.input.nonce, image := s.input.image } } else m }) ∧
    (s.input.idx ≠ 0 → ∀ r, m.busy = some r →
      let v := r.value.toNat
      (r.code = 2 → ∃ t sig, exec .attestation s = .next t ∧ t.replied (s.report r.nonce ++ sig)
        ∧ sig = wordsOfNat 8 (Config.sm2 (sm3 (wordBytes (s.report r.nonce)))).toNat) ∧
      (r.code = 6 → ∃ t, exec .writeFirmwareSlot s = .next t ∧ t.replied []
        ∧ t.laroon.stagedA = (if r.value.getLsbD 0 then s.laroon.stagedA else some r.image)
        ∧ t.laroon.stagedB = (if r.value.getLsbD 0 then some r.image else s.laroon.stagedB)
        ∧ t.laroon.slotA = s.laroon.slotA ∧ t.laroon.slotB = s.laroon.slotB ∧ t.laroon.slot = s.laroon.slot) ∧
      (s.status.fwerr = false →
        (r.code = 1 → ∃ t ws, exec .readDefectMap s = .next t ∧ t.replied ws ∧ ws.length = 64
          ∧ ∀ n, n < 1024 → (fieldAt (4 * (n % 16)) 4 (ws.getD (n / 16) 0#64) : BitVec 4) = (s.tile n).code) ∧
        (r.code = 3 → ∃ t cap, exec .setPowerCap s = .next t ∧ t.power.cap = cap ∧ t.replied [BitVec.ofNat 64 cap]
          ∧ cap = (if v < 8000 then 8000 else if 28000 < v then 28000 else v)) ∧
        (r.code = 4 → ∃ t ws, exec .readLinkStatus s = .next t ∧ t.replied ws ∧ ws.length = 80
          ∧ (∀ n, n < 24 → (ws.getD (3 * n) 0#64 = 1#64 ↔ (s.link n).up = true))
          ∧ ∀ n, n < 4 → ws.getD (72 + 2 * n) 0#64 = BitVec.ofNat 64 (s.hostPort n).rate ∧ ws.getD (73 + 2 * n) 0#64 = BitVec.ofNat 64 (s.hostPort n).width) ∧
        (r.code = 5 → ∃ t, exec .readFirmwareVersions s = .next t ∧ t.replied (slot.images.map (BitVec.ofNat 64))) ∧
        (r.code = 0 → ∃ t, exec .unknownRequest s = .next t ∧ t.laroon.mailbox = { status := .unknown, reply := [] } ∧ t.power.cap = s.power.cap)) ∧
      (s.status.fwerr = true → ∀ x ∈ codes, x.2 ≠ 2 → x.2 ≠ 6 → r.code = x.2 →
        ∃ t, exec x.1 s = .next t ∧ t.laroon.mailbox = { status := .notAccepted, reply := [] } ∧ t.power.cap = s.power.cap))

/-- R30, R46–R53, R75–R80, R82, R126, R142, R247: temperatures, issue-rate control, power states, the watchdog, scrubbing, static energy, errors in
tiles and the end of a step recovery. Temperatures, energies and errors come with the event (log 6, log 39); that a wake counts the entry delays
anew, as `State.wake` says, is log 38. -/
def Obligations.LimitEvents : Prop :=
  ∀ (s : State), s.input.sense = [] → s.input.watts = none →
    let p := s.input.ptid
    let k := s.input.stack
    let h := s.input.handle
    let nj := s.input.value.toNat
    let unit := s.input.value.toNat % 16
    let part := unit + 16 * (if unit = 1 then s.input.value.toNat / 16 % 64 else if unit = 2 then s.input.value.toNat / 16 % 4 else 0)
    let hot := fun (t : Tile) => ((s.sched.eff.thot.toNat : Int) ≤ t.temp ∨ s.capNow < s.power.power) ∧ ∃ n, t.hotSince = some n ∧ n + 1700000 ≤ s.ticks
    let cool := fun (t : Tile) => t.temp + 4 ≤ (s.sched.eff.thot.toNat : Int) ∧ 100 * s.power.power ≤ 97 * s.capNow
      ∧ ∃ n, t.coolSince = some n ∧ n + 17000000 ≤ s.ticks
    let scrubbed := fun (t : State) => t.overhead = (s.overhead + nj) % 2 ^ 64
      ∧ (s.input.err = .none → t = { s with overhead := t.overhead })
      ∧ (s.input.err = .corrected → (t.stack k).ce = if (s.stack k).ce = 0xFFFFFF#24 then 0xFFFFFF#24 else (s.stack k).ce + 1)
      ∧ (s.input.err = .uncorrectable → s.input.line ∈ (t.stack k).bad)
    (105 ≤ (s.tile p).temp → (s.tile p).emergency = false → ∃ t, exec .thermalEmergency s = .next t ∧ (t.tile p).ric = 16#5
      ∧ (t.tile p).emergency = true ∧ ∀ c, (s.tile p).usedBy = some c → s.ptid c = p → c ∈ s.members (jobOf c) (s.gangNo c) → (s.ctx c).live = true →
          s.movingGang (jobOf c) (s.gangNo c) = false → (s.gangOf c).state = .resident → s.areaRoom [(jobOf c, s.gangNo c)] = true →
          (t.gangOf c).state = .stopping) ∧
    ((s.tile p).temp < 95 → ∃ t, exec .thermalRelease s = .next t ∧ t = { s.wake with tiles := t.tiles } ∧ (t.tile p).emergency = false) ∧
    (∃ t, exec .ricRaise s = .next t ∧ t = { s with tiles := t.tiles } ∧ ∀ n, n < 1024 → (s.tile n).ric.toNat ≤ 16 →
      (hot (s.tile n) → (t.tile n).ric.toNat = Nat.min 16 ((s.tile n).ric.toNat + 1)) ∧ (¬ hot (s.tile n) → (t.tile n).ric = (s.tile n).ric)) ∧
    (∃ t, exec .ricLower s = .next t ∧ t = { s with tiles := t.tiles } ∧ ∀ n, n < 1024 → 1 ≤ (s.tile n).ric.toNat →
      (cool (s.tile n) → (t.tile n).ric.toNat = Nat.max 1 ((s.tile n).ric.toNat - 1)) ∧ (¬ cool (s.tile n) → t.tile n = s.tile n)) ∧
    (∃ t, exec .ballast s = .next t ∧ t = { s with overhead := (s.overhead + nj) % 2 ^ 64 }) ∧
    (∃ t, exec .staticEnergyTick s = .next t ∧ t.power.charged = s.power.charged + 1 ∧ ((∀ n, n < 1024 → (s.tile n).usedBy = none) → s.overhead < 2 ^ 64 →
      t.overhead = (s.overhead + 9 * ((List.range 1024).filter (fun n => (s.tile n).code == 0#4)).length) % 2 ^ 64)) ∧
    (∀ n, s.noteIdle.deepest = n → s.status.pstate.toNat < n → n ≤ 4 → (n = 4 → s.noneResident = true) → s.status.ready = true →
      ∃ t, exec .powerStateEntry s = .next t ∧ t.status.pstate.toNat = n) ∧
    (s.status.pstate ≠ 0#3 → ∃ t, exec .wakeEvent s = .next t ∧ t.status.pstate = 0#3
      ∧ (s.status.pstate = 1#3 → t.power.awakeAt = Nat.max s.power.awakeAt (s.cycle + 3400))) ∧
    ((s.job h).phase = .live → s.sched.eff.wdog ≠ 0#32 → s.watchPaused h = false → (s.job h).progress + 17000000 * s.sched.eff.wdog.toNat ≤ s.ticks →
      ∃ t, exec .watchdog s = .next t ∧ (t.job h).phase = .ended) ∧
    (s.sound → (∃ t, exec .patrolScrub s = .next t ∧ scrubbed t) ∧
      ((s.stack k).hot.contains (Config.rowOf k s.input.line) = true → ∃ t, exec .hotListScrub s = .next t ∧ scrubbed t)) ∧
    (∃ t, exec .hotListExpiry s = .next t ∧ t = { s with stackTab := t.stackTab } ∧ ∀ row, row ∈ (t.stack k).hot ↔ row ∈ (s.stack k).hot ∧
      let e := tableGet {} (s.stack k).errs row
      ∃ x ∈ e.before ++ e.now, s.ticks < x + 1468800000000000) ∧
    (p < 1024 → unit ≤ 4 →
      (s.input.err = .uncorrectable → s.status.ready = true → (s.tile p).code ∉ [4#4, 5#4, 6#4] → ∃ t, exec .lastingTileFault s = .next t
        ∧ (t.tile p).code = if unit = 4 then 6#4 else 5#4) ∧
      (s.input.err = .corrected → ∃ t, exec .lastingTileFault s = .next t ∧ (t.tile p).lastUnit = BitVec.ofNat 4 unit
        ∧ (t.tile p).ce = (if (s.tile p).ce = 65535#16 then 65535#16 else (s.tile p).ce + 1)
        ∧ (((tableGet [] (s.tile p).errs part).filter (fun x => decide (s.ticks < x + 1468800000000000))).length < 2 → (t.tile p).code = (s.tile p).code))) ∧
    (∀ n, n < (s.job h).gangCount → (s.job h).phase ≠ .ended → (s.gang h n).state = .recovering → (s.job h).rollOwed = 0#64 →
      ∃ t, exec .recoveryComplete s = .next t ∧ (t.gang h n).state ≠ .recovering)

/-! ### The host's side -/

/-- R32, R34, R58, R59, R84–R87, R97, R130, R222, R328: queue blocks, fetching and seals, the range table, the scheduler's parameters, fault records and
tenant reset. A write at an offset that is no multiple of 8 has no effect by log 28; that EN keeps records of before, under an older epoch, is
log 31. -/
def Obligations.RegisterEvents : Prop :=
  ∀ (s : State), let q := s.input.queue
    let b := s.queue q
    let v := s.input.value
    let e := s.rangeEntry s.input.line
    let n := s.input.tenant
    let f := s.ring n
    let fetches := s.fetches q = true ∧ b.fetchAt ≤ s.ticks
    let fetched := fun (t : State) (b' : HostQueue) => t = { s with hq := t.hq } ∧ t.queue q = b'
    (∃ t, exec .notifyWrite s = .next t ∧ (t.queue q).notify = BitVec.ofNat 32 v.toNat) ∧
    (∀ r, fetches → s.ringRecord q = some r → (fieldAt 448 32 r : BitVec 32) = b.head + 1#32 → (fieldAt 480 32 r : BitVec 32) = recordChk r →
      ∃ t, exec .recordRefetch s = .next t ∧ fetched t
        { b with
          latched := false
          badSince := none
          fetchAt := 0
          head := b.head + 1#32
          records := b.records ++ [{ index := b.head.toNat, epoch := b.epoch, bytes := r }] }) ∧
    (∀ r, fetches → s.ringRecord q = some r → (fieldAt 448 32 r : BitVec 32) = b.head + 1#32 → (fieldAt 480 32 r : BitVec 32) ≠ recordChk r →
      ∃ t, exec .recordRefetch s = .next t ∧ fetched t { b with latched := false, fetchAt := s.ticks + 17000, badSince := some (b.badSince.getD s.ticks) }) ∧
    (∀ x, b.badSince = some x → x + 170000000 ≤ s.ticks → b.en = true → ∃ t, exec .sealTimeout s = .next t ∧ (t.queue q).stop = true
      ∧ (t.queue q).ctail = b.ctail + 1#32) ∧
    (b.en = false → (natAt 2 4 v ≤ 12 → ∃ t, exec .queueEnable s = .next t ∧ t = { s with hq := t.hq } ∧ (t.queue q).en = true ∧ (t.queue q).head = 0#32
        ∧ (t.queue q).ctail = 0#32 ∧ (t.queue q).notify = 0#32 ∧ (t.queue q).stop = false ∧ (t.queue q).rbase = b.rbase
        ∧ (t.queue q).records = b.records ∧ (t.queue q).epoch = b.epoch + 1) ∧
      (12 < natAt 2 4 v → ∃ t, exec .queueEnable s = .next t ∧ (t.queue q).en = false ∧ (t.queue q).err = true)) ∧
    (b.en = true → exec .queueEnable s = .next s ∧ ∃ t, exec .queueDisable s = .next t ∧ (t.queue q).en = false) ∧
    (e.valid = true → exec .rangeEntryWrite s = .next s ∧ ∃ t, exec .rangeEntryInvalidate s = .next t
      ∧ t.rangeEntry s.input.line = { e with valid := false } ∧ ∀ m, m ≠ s.input.line → t.rangeEntry m = s.rangeEntry m) ∧
    (e.valid = false → let g := { e with gran := fieldAt 2 4 v, base := fieldAt 16 26 v }
      ∃ t, exec .rangeEntryWrite s = .next t ∧ t = { s with range := t.range } ∧ (∀ m, m ≠ s.input.line → t.rangeEntry m = s.rangeEntry m)
        ∧ t.rangeEntry s.input.line = (if s.rangeOk s.input.line g then { g with valid := true, err := false } else { g with valid := false, err := true })) ∧
    (s.input.line = 0 → ∃ t, exec .schedParamWrite s = .next t ∧ t.sched.eff = s.sched.eff ∧ t.sched.written.idleswap = BitVec.ofNat 16 v.toNat
      ∧ (natAt 16 8 v = 0 → t.sched.written.quantum = s.sched.written.quantum) ∧ t.sched.written.minres.toNat = v.toNat / 2 ^ 24 % 2 ^ 24) ∧
    (s.input.line = 3 → s.jobs.any (fun p => p.2.phase == .live) = true → ∃ t, exec .schedParamWrite s = .next t ∧ t.sched.written = s.sched.written) ∧
    (s.input.fn = ⟨0#2, none⟩ → s.input.off = 0#20 → ∃ t, exec .registerWrite s = .next t
      ∧ t.status = { s.status with pwrfail := s.status.pwrfail && !v.getLsbD 4 }) ∧
    (s.input.off.toNat % 8 ≠ 0 → exec .registerWrite s = .next s) ∧
    (∀ r rest, f.waiting = r :: rest → f.en = true → (f.ftail - f.fhead).toNat < f.entries → ∃ t, exec .faultRecordWrite s = .next t
      ∧ (t.ring n).ftail = f.ftail + 1#32 ∧ (t.ring n).waiting = rest ∧ t.msix = s.msix ++ [(f.port.toNat, some n, f.vec.toNat)]
      ∧ (f.loc = false → t.readNat (.host f.port.toNat (32 * f.fbase.toNat + 32 * (f.ftail.toNat % f.entries))) 1 = r.cause.toNat)) ∧
    (∃ t, exec .tenantReset s = .next t ∧ (∀ o, o ∈ t.published ↔ o ∈ s.published ∧ o.tenant ≠ n) ∧ (∀ h, (s.job h).tenant = n → h ∈ tableKeys s.jobs → (t.job h).phase = .ended)
      ∧ ∀ m, m < 64 → (s.queue m).ten.toNat = n → (s.queue m).pfq = false → (t.queue m).en = false)

/-- R90–R100, R127, R145, R328: what each record does when it acts, and the completion it ends with; what it stores stands there afterwards, but where
its own completion is put over it. That a COPY moves one chunk at an event, each as a whole, is log 25; that an image is kept as data beside its
bytes is log 10. -/
def Obligations.RecordsComplete : Prop :=
  ∀ (s : State) (r : HostRecord), s.recordNow = some r → s.input.queue < 64 → let x := s.begun r
    let y := s.asBegun r
    let q := s.input.queue
    let b := x.queue q
    let tn := b.ten.toNat
    (∃ t, exec .badrec s = .next t ∧ x.recordDone t y 1 0) ∧
    (∃ t, exec .setlat s = .next t ∧ x.recordDone t y 0 0 ∧ t.toleranceOf (tolKey b.fn) = (r.word 8).toNat) ∧
    (b.pfq = false → ∀ i ∈ [Instr.tenant, .save, .restore], ∃ t, exec i s = .next t ∧ x.recordDone t y 5 0) ∧
    (let n := r.num 8 1
     b.pfq = true → (((List.range 16).filter (fun m => m ≠ n)).map x.minOf).foldl (· + ·) 0 + r.num 10 2 ≤ x.status.pool.toNat →
      r.num 10 2 ≤ r.num 12 2 →
      let set : TenantSet := { min := r.num 10 2, max := some (r.num 12 2), prioCap := r.num 14 1, service := r.num 16 4,
                               mask := BitVec.ofNat 16 (r.num 20 2), root := r.word 24 }
      (x.noneHeld = false → ∃ t, exec .tenant s = .next t ∧ x.recordDone t y 0 0 ∧ (t.ten n).pending = some set ∧ (t.ten n).set = (x.ten n).set) ∧
      (x.noneHeld = true → (∀ p ∈ x.tenants, p.2.pending = none) → ∃ t, exec .tenant s = .next t ∧ x.recordDone t y 0 0
        ∧ (t.ten n).set = set ∧ (t.ten n).pending = none)) ∧
    (r.started = false →
      (∀ status value, x.checkLaunch tn (x.tenantAt tn { rd := true }) (r.word 8) = .fails status value →
        ∃ t, exec .launch s = .next t ∧ x.recordDone t y status value) ∧
      (∀ rec, x.checkLaunch tn (x.tenantAt tn { rd := true }) (r.word 8) = .ok rec → ∃ t, exec .launch s = .next t
        ∧ t.nextHandle = s.nextHandle + 1 ∧ (t.job s.nextHandle).record = rec ∧ (t.job s.nextHandle).tenant = tn
        ∧ (t.job s.nextHandle).origin = .host q r.seq.toNat r.epoch ∧ (recMulti rec = false → (t.job s.nextHandle).phase = .live))) ∧
    (∀ ps l, let dst := r.word 16 + BitVec.ofNat 64 r.moved
      let len := (r.word 24).toNat
      let n := blockLen dst (len - r.moved)
      x.hostPlaces r.hostSince tn { rd := true } (pieces 3 (r.word 8 + BitVec.ofNat 64 r.moved) n) = .ok ps →
      x.hostPlace r.hostSince tn { wr := true } dst n = .ok l → x.unwatched l n → ∃ t, exec .copy s = .next t
        ∧ x.putBeside t q (len ≤ r.moved + n) l (x.readPlaces ps)
        ∧ (r.moved + n < len → t.hq = (x.modRecord q y (fun z => { z with moved := r.moved + n, hostSince := none })).hq)
        ∧ (len ≤ r.moved + n → x.recordDone t y 0 len)) ∧
    (∀ w, x.publish tn (x.tenantAt tn { rd := true }) (r.word 8) (r.word 16) (some (r.word 24).toNat) = .fails w →
      ∃ t, exec .copyPublish s = .next t ∧ x.recordDone t y 0 w.toNat ∧ t.published = s.published) ∧
    (∀ u w, x.publish tn (x.tenantAt tn { rd := true }) (r.word 8) (r.word 16) (some (r.word 24).toNat) = .done u w →
      ∃ t, exec .copyPublish s = .next t ∧ u.recordDone t y 0 w.toNat ∧ t.published = u.published
        ∧ ∀ k, u.besidesSlot q k → t.byteAt k = u.byteAt k) ∧
    (∀ l, x.hostPlace r.hostSince tn { wr := true } (r.word 8) 8 = .ok l → x.unwatched l 8 →
      ∃ t, exec .signal s = .next t ∧ x.recordDone t y 0 0
        ∧ x.putBeside t q True l ((List.range 8).map (fun i => BitVec.ofNat 8 ((r.word 16).toNat / 256 ^ i)))) ∧
    (∀ l, r.nextAt ≤ s.ticks → x.hostPlace r.hostSince tn { rd := true } (r.word 8) 8 = .ok l →
      let holds := waitHolds (r.num 24 1) (BitVec.ofNat 64 (x.readNat l 8)) (r.word 16)
      ∀ i ∈ (if r.started then [Instr.wait, .waitPoll] else [Instr.wait]),
        (holds = true → ∃ t, exec i s = .next t ∧ x.recordDone t y 0 0) ∧
        (holds = false →
          (r.num 28 4 = 0 ∨ s.ticks < y.startAt + 17000 * r.num 28 4 → exec i s =
            .next ((x.hostMeet tn [(r.word 8, 8)]).modRecord q y (fun z => { z with nextAt := s.ticks + 17000, hostSince := none }))) ∧
          (r.num 28 4 ≠ 0 → y.startAt + 17000 * r.num 28 4 ≤ s.ticks → ∃ t, exec i s = .next t ∧ x.recordDone t y 9 0))) ∧
    (∀ ps, b.pfq = true → let z := if r.started then x.liveJobs.foldl State.stopForSave x else x.beginSave
      let n := z.saveBytes
      (z.saveReady = false → exec .save s = .next z) ∧
      (z.saveReady = true → n ≤ (r.word 16).toNat → z.hostPlaces r.hostSince tn { wr := true } (pieces (n / 256 + 2) (r.word 8) n) = .ok ps →
        z.waiters = [] →
        ∃ (t : State) (v : Saved) (bs : List Byte), exec .save s = .next t ∧ t.saved = s.saved ++ [v] ∧ z.recordDone t y 0 n
          ∧ v.length = n ∧ v.ctxs = z.ctxs ∧ v.strands = z.strands ∧ v.range = z.range ∧ v.digest = sm3 (bs.take (n - 64)) ∧ bs.length = n
          ∧ (bs.drop (n - 64)).take 8 = (List.range 8).map (fun i => BitVec.ofNat 8 (n / 256 ^ i))
          ∧ (bs.drop (n - 56)).take 32 = digestBytes v.digest
          ∧ ∀ pre p post i, ps = pre ++ p :: post → i < p.2 → (∀ w ∈ post, w.1.outside w.2 (p.1.plus i).cell) → z.besidesSlot q (p.1.plus i) →
              t.byteAt (p.1.plus i) = bs.getD ((pre.map (fun w => w.2)).sum + i) 0#8)) ∧
    (b.pfq = true → x.jobs.any (fun p => p.2.phase != .ended) = true → ∃ t, exec .restore s = .next t ∧ x.recordDone t y 5 0) ∧
    (∀ ps, let n := (r.word 16).toNat
      b.pfq = true → x.jobs.any (fun p => p.2.phase != .ended) = false →
      x.hostPlaces r.hostSince tn { rd := true } (pieces (n / 256 + 2) (r.word 8) n) = .ok ps → let bs := x.readPlaces ps
      (n < 64 → ∃ t, exec .restore s = .next t ∧ x.recordDone t y 0x0B 0) ∧
      ∀ v, 64 ≤ n → (bs.drop (n - 64)).take 8 = (List.range 8).map (fun i => BitVec.ofNat 8 (n / 256 ^ i)) →
      (bs.drop (n - 56)).take 32 = digestBytes (sm3 (bs.take (n - 64))) →
      x.saved.find? (fun v => v.digest == sm3 (bs.take (n - 64)) && v.length == n && v.version == x.firmware) = some v →
      ∃ t, exec .restore s = .next t ∧ t.range = v.range ∧ (∀ p ∈ v.published, p ∈ t.published) ∧ (v.jobs = [] → x.recordDone t y 0 0))

/-- R223, R236–R243, R250: what each DBG operation does, and the VALUE it answers. That HALTALL counts the strands that were halted before is
log 29.
R244: a record that names a context that another module runs is sent to that module, and does nothing here; what concerns every context of a job
is sent to each of its modules. -/
def Obligations.DebugRecords : Prop :=
  (∀ (s : State) (r : HostRecord) (p : Nat), s.debugs r → (s.begun r).awayAt r.dbgCtx = some p →
    ∀ i ∈ [Instr.dbgRetry, .dbgEnd, .dbgHalt, .dbgResume, .dbgStepi, .dbgRdreg, .dbgWrreg, .dbgRdmem, .dbgWrmem, .dbgRdengy],
      ∃ t, exec i s = .next t ∧ s.tells t [(p, .debug (s.jobName r.dbgHandle) s.input.queue r.seq.toNat r.bytes)]
        ∧ t.strands = s.strands ∧ t.jobs = s.jobs) ∧
  (∀ (s : State) (r : HostRecord), s.debugs r → let ps := (s.begun r).dbgOthers s.input.queue (s.asBegun r)
    ps ≠ [] → ∀ i ∈ [Instr.dbgHaltall, .dbgResumeall, .dbgSetbp, .dbgClrbp, .dbgProfon, .dbgProfoff, .dbgProfflush],
      ∃ t, exec i s = .next t ∧ s.tells t (ps.map (fun p => (p, .debug (s.jobName r.dbgHandle) s.input.queue r.seq.toNat r.bytes)))) ∧
  ∀ (s : State) (r : HostRecord), s.debugsHere r → let x := s.begun r
    let y := s.asBegun r
    let h := r.dbgHandle
    let k := r.dbgKey
    let st := x.strand k
    let others := fun (t : State) => ∀ j, j ≠ k → t.strand j = x.strand j
    (∀ w, st.held = some w → (x.gangOf r.dbgCtx).frozen = false → st.state ≠ .halted → ∃ t, exec .dbgRetry s = .next t ∧ x.recordDone t y 0 1
      ∧ (t.strand k).held = none ∧ (t.strand k).state = .ready ∧ (t.strand k).pc = st.pc ∧ others t) ∧
    (st.held = none → ∃ t, exec .dbgRetry s = .next t ∧ x.recordDone t y 0 0 ∧ t.strands = x.strands) ∧
    (∃ t, exec .dbgEnd s = .next t ∧ (t.job h).phase = .ended) ∧
    (st.state = .halted → ∃ t, exec .dbgHalt s = .next t ∧ x.recordDone t y 0 st.pc.toNat ∧ t.strands = x.strands) ∧
    (st.live = true → st.state ≠ .halted → x.inGang (ctxOf k) .swapped = false → ∃ t, exec .dbgHalt s = .next t ∧ t = { x with strands := t.strands }
      ∧ t.strand k = { st with haltReq := true } ∧ others t) ∧
    (st.state = .halted → st.held = none → ∃ t, exec .dbgResume s = .next t ∧ x.recordDone t y 0 1 ∧ (t.strand k).state = .ready
      ∧ (t.strand k).pc = st.pc ∧ others t) ∧
    (st.state = .halted → st.held = none → y.moved = 0 → x.inGang (ctxOf k) .resident = true → ∃ t, exec .dbgStepi s = .next t
      ∧ (t.strand k).state = .ready ∧ (t.strand k).stepi = some (BitVec.ofNat 6 s.input.queue, r.seq) ∧ (t.strand k).skipBp = true ∧ others t) ∧
    (∀ ks, ks = (x.jobStrands h).filter (fun k => (x.strand k).live) → (∀ k ∈ ks, (x.strand k).state = .halted) →
      ∃ t, exec .dbgHaltall s = .next t ∧ x.recordDone t y 0 ks.length ∧ t.strands = x.strands) ∧
    (∀ ks, ks = (x.jobStrands h).filter (fun k => (x.strand k).state == .halted) → ∃ t, exec .dbgResumeall s = .next t ∧ x.recordDone t y 0 ks.length
      ∧ ∀ k ∈ ks, (t.strand k).state ≠ .halted) ∧
    (∀ d, dbgReg r.dbgSel = some d → st.out = [] → ∃ t, exec .dbgRdreg s = .next t ∧ t.strands = x.strands
      ∧ x.recordDone t y 0 (match d with
          | .g n => (st.rg n).toNat
          | .csr n => (match x.readCsr k n with | some v => v.toNat | none => 2 ^ 64 - 1)
          | .v n w => (st.rv n).toNat / 2 ^ (64 * w) % 2 ^ 64
          | .k n w => (st.rk n).toNat / 2 ^ (64 * w) % 2 ^ 64
          | .pc => st.pc.toNat)) ∧
    (∀ d, dbgReg r.dbgSel = some (.g d) → d ≠ 0#5 → (st.state = .halted ∨ st.held.isSome = true) → ∃ t, exec .dbgWrreg s = .next t ∧ x.recordDone t y 0 1
      ∧ (t.strand k).rg d = r.dbgData ∧ (∀ n, n ≠ d → (t.strand k).rg n = st.rg n) ∧ (t.strand k).pc = st.pc ∧ others t) ∧
    (st.state ≠ .halted → st.held = none → ∃ t, exec .dbgWrreg s = .next t ∧ x.recordDone t y 0 0 ∧ t.strands = x.strands) ∧
    (∀ l, x.dbgPlace r { rd := true, size := r.dbgN, align := r.dbgN } = .at l →
      ∃ t, exec .dbgRdmem s = .next t ∧ x.recordDone t y 0 (x.loadNat l r.dbgN k)) ∧
    (x.dbgPlace r { rd := true, size := r.dbgN, align := r.dbgN } = .fails → ∃ t, exec .dbgRdmem s = .next t ∧ x.recordDone t y 6 0) ∧
    (∀ l, x.dbgPlace r { wr := true, size := r.dbgN, align := r.dbgN } = .at l → x.unwatched l r.dbgN →
      ∃ t, exec .dbgWrmem s = .next t ∧ x.recordDone t y 0 r.dbgN
        ∧ x.putBeside t s.input.queue True l ((List.range r.dbgN).map (fun i => BitVec.ofNat 8 (r.dbgData.toNat / 256 ^ i)))) ∧
    (x.dbgPlace r { wr := true, size := r.dbgN, align := r.dbgN } = .fails → ∃ t, exec .dbgWrmem s = .next t ∧ x.recordDone t y 6 0) ∧
    (r.dbgN < 4 → (∃ t, exec .dbgSetbp s = .next t ∧ x.recordDone t y 0 1
        ∧ ∀ p, p ∈ (t.job h).bps ↔ p = ⟨r.dbgN, r.dbgAddr, if r.dbgSel % 2 = 1 then none else some r.dbgVtid⟩ ∨ (p ∈ (x.job h).bps ∧ p.slot ≠ r.dbgN)) ∧
      (∃ t, exec .dbgClrbp s = .next t ∧ x.recordDone t y 0 1 ∧ ∀ p, p ∈ (t.job h).bps ↔ p ∈ (x.job h).bps ∧ p.slot ≠ r.dbgN)) ∧
    (∀ ps, let n := r.dbgData.toNat
      r.dbgAddr.toNat % 64 = 0 → n % 64 = 0 → 128 ≤ n →
      x.hostPlaces r.hostSince (x.job h).tenant { wr := true } (pieces (n / 256 + 2) r.dbgAddr n) = .ok ps →
      ∃ t, exec .dbgProfon s = .next t ∧ x.recordDone t y 0 1 ∧ (t.job h).prof = some (r.dbgAddr, n, 0)) ∧
    (let v := (x.flushJob h).profCount h
     let known := fun (v : Nat) => ((x.job h).prof = none → v = 0) ∧ (∀ a n m, (x.job h).prof = some (a, n, m) →
       (∀ c ∈ x.slotContexts, jobOf c ≠ h) → v = m)
     known v ∧ (∃ t, exec .dbgProfoff s = .next t ∧ x.recordDone t y 0 v ∧ (t.job h).prof = none) ∧
       ∃ t, exec .dbgProfflush s = .next t ∧ x.recordDone t y 0 v ∧ ((x.job h).prof = none → t.strands = x.strands)) ∧
    (∃ t, exec .dbgRdengy s = .next t ∧ t.strands = x.strands
      ∧ x.recordDone t y 0 ((x.gangOf r.dbgCtx).energy + (if (x.gangOf r.dbgCtx).sat then 2 ^ 48 else 0)))

/-! ### The scheduler and other modules -/

/-- R99, R112–R118, R123–R139: turns, moves, placing, loading, swapping out, parked messages and step marks. -/
def Obligations.SchedulerEvents : Prop :=
  ∀ (s : State), let h := s.input.handle
    let n := s.input.gang
    let g := s.gang h n
    (s.sched.lastTurn + 2 * s.sched.eff.turnlen.toNat ≤ s.cycle → ∃ t, exec .turnBoundary s = .next t ∧ t.sched.turn = s.sched.turn + 1
      ∧ t.sched.eff = s.sched.written ∧ t.sched.lastTurn = s.sched.lastTurn + 2 * s.sched.eff.turnlen.toNat ∧ ∀ c, (t.ctx c).activity = 0) ∧
    (∀ m, s.moves.find? (fun m => m.ctx == s.input.ctx) = some m → m.other = none → s.moveVoid m = false → s.moveReady m = true →
      (((s.job (jobOf m.ctx)).entry (vtidOf m.ctx)).move = false → ∃ t, exec .moveComplete s = .next t
        ∧ ((t.job (jobOf m.ctx)).entry (vtidOf m.ctx)).move = true ∧ t.ptid m.ctx = s.ptid m.ctx) ∧
      (((s.job (jobOf m.ctx)).entry (vtidOf m.ctx)).move = true → ∃ t, exec .moveComplete s = .next t
        ∧ ((t.job (jobOf m.ctx)).entry (vtidOf m.ctx)).move = false ∧ t.ptid m.ctx = m.new ∧ (t.ctx m.ctx).turns = (s.ctx m.ctx).turns + 1#64)) ∧
    (s.overIdle g = true → (∃ m, m < 16 ∧ (h, n) ∈ s.victims m false) → ∃ t, exec .idleSwap s = .next t ∧ (t.gang h n).state = .stopping) ∧
    (g.state = .resident → (∃ m, m < 16 ∧ (h, n) ∈ s.victims m false) → ∃ t, exec .swapOut s = .next t ∧ (t.gang h n).state = .stopping) ∧
    (g.state = .stopping → g.reason ≠ .save → s.gangStopped h n = true → s.areaUsed ≤ s.areaBytes → ∃ t, exec .swapOut s = .next t ∧ (t.gang h n).parkAlloc = true
      ∧ ∀ c ∈ s.members h n, jobOf c = h → ((t.job h).entry (vtidOf c)).res = false) ∧
    (g.state = .stopping → g.reason ≠ .save → s.gangStopped h n = true → (∀ c ∈ s.members h n, ((s.job h).entry (vtidOf c)).res = false) →
      ∃ t, exec .swapOutComplete s = .next t ∧ (t.gang h n).state = .swapped ∧ t.sched.swaps = s.sched.swaps + 1#32) ∧
    (∀ id, s.fixSizes.nextPlace = some id → ∃ t, exec .gangPlace s = .next t ∧ (t.gang id.1 id.2).state = .loading) ∧
    (g.state = .loading → (∃ c ∈ s.members h n, ((s.job h).entry (vtidOf c)).done = false) → (∀ c ∈ s.members h n, (s.tile (s.ptid c)).emergency = false) →
      (s.fresh h n = true ∧ recSmask (s.job h).record ≠ 0#16 ∨ s.fresh h n = false ∧ ∀ c ∈ s.members h n, s.idleContext c = false) →
      ∃ t, exec .gangLoaded s = .next t ∧ (t.gang h n).state = .resident ∧ (t.gang h n).residentAt = s.ticks) ∧
    (g.state = .resident → g.park = [] → ∃ t, exec .parkedDelivery s = .next t
      ∧ ∀ c ∈ s.members h n, jobOf c = h → ((t.job h).entry (vtidOf c)).drain = false) ∧
    (∀ p w, g.state = .resident → s.nextParked [] g.park = some (.packet p) → p.hdr = some w → s.path p.dest ≠ .gone →
      ∃ t, exec .parkedDelivery s = .next t ∧ (t.gang h n).park = g.park.erase (.packet p)
        ∧ tableGet [] (t.ctx p.dest).inbox p.cls = tableGet [] (s.ctx p.dest).inbox p.cls ++ (⟨w, true, p.merge, p.view⟩ :: p.words.map (fun x => ⟨x, false, none, []⟩))) ∧
    (g.state = .resident → s.overMinres g = true → ∃ t, exec .minresExpiry s = .next t ∧ (t.gang h n).pastMinres = true) ∧
    (recBuddy (s.job h).record = true → (g.state = .resident ∨ g.state = .swapped) → s.allArrived h n (g.mark + 1) = true → s.trussBusy h n = false →
      (∀ c ∈ s.members h n, s.enginesStopped c = true) →
      (∀ i, i < (s.job h).gangCount → (s.gang h i).completed g.mark = true) → (∀ w ∈ s.waiters, ctxOf w.key ∉ s.members h n) → ∃ t, exec .stepMark s = .next t ∧ (t.gang h n).mark = g.mark + 1
        ∧ ∀ c ∈ s.members h n, ∀ i, i < 16 → let st := s.strand (strandKey c i)
          st.alive = true → st.state ≠ .halted → let u := t.strand (strandKey c i)
            u.state = .ready ∧ u.arrived = false ∧ u.pc = st.advance.pc)

/-- R38, R102, R145: arming, starting and cancelling a job of several modules, the loss of a module, and the stops of a SAVE. What modules tell each
other, the tiles an ARM asks for, and the gang that starts on them are log 44; the answers of peers come with the event (log 26); a restored part is
one of a job under its coordinator's name (log 53); the NAK to the ARM of a saved job is log 62. -/
def Obligations.ModuleEvents : Prop :=
  ∀ (s : State), let p := s.input.peer
    let h := s.input.handle
    let j := s.job h
    let x := s.wake
    let peers := (List.range 64).filter (fun n => (recPeers j.record).getLsbD n)
    let owed := j.owed &&& ~~~(1#64 <<< p)
    ((s.peer p).routed = true → (s.peer p).lost = false → (s.peer p).lastFlit + 3400000 ≤ s.ticks →
      ∃ t, exec .peerLost s = .next t ∧ (t.peer p).lost = true) ∧
    (∀ status value, s.input.saved = false → x.checkRecord (recTen s.input.launch % 16) s.input.launch = .fails status value →
      ∃ t, exec .arm s = .next t ∧ x.tells t [(p, .armNak h (BitVec.ofNat 8 status))] ∧ t = { x with sent := t.sent }) ∧
    (∀ r, s.input.saved = false → x.checkRecord (recTen s.input.launch % 16) s.input.launch = .ok r →
      ∃ t, exec .arm s = .next t ∧ let l := t.job x.nextHandle
        l.remote = h ∧ l.origin = .remote p ∧
        ((∀ n, l.firstHere = some n → l.g ≠ 0 ∧ l.members n ≤ x.freeTiles.length) → l.phase = .armed ∧ x.tells t [(p, .armAck h)]) ∧
        (∀ n, l.firstHere = some n → l.g = 0 ∨ x.freeTiles.length < l.members n → l.phase = .ended ∧ x.tells t [(p, .armNak h 0x07#8)])) ∧
    (∀ l, s.input.saved = true → s.partOf p h = some l →
      ∃ t, exec .arm s = .next t ∧ t = { x with sent := t.sent }
        ∧ x.tells t [(p, if (s.job l).restored then .armAck h else .armNak h 0x07#8)]) ∧
    (j.phase = .arming →
      (s.ticks ≤ j.armAt + 850000 → owed = 0#64 → ∃ t, exec .armAck s = .next t ∧ (t.job h).phase = .live
        ∧ x.tells t (peers.map (fun n => (n, .go (s.jobName h))))) ∧
      (s.ticks ≤ j.armAt + 850000 → owed ≠ 0#64 → ∃ t, exec .armAck s = .next t ∧ t = { x with jobs := t.jobs } ∧ t.job h = { j with owed := owed }) ∧
      (j.armAt + 850000 < s.ticks → exec .armAck s = .next x) ∧
      (∃ t, exec .armNak s = .next t ∧ (t.job h).phase = .ended ∧ ∃ more, x.tells t (peers.map (fun n => (n, .cancel h)) ++ more)) ∧
      (j.armAt + 850000 ≤ s.ticks → ∃ t, exec .armTimeout s = .next t ∧ (t.job h).phase = .ended
        ∧ ∃ more, s.tells t (peers.map (fun n => (n, .cancel h)) ++ more))) ∧
    (∀ l, s.jobNamed p h = some l → (s.job l).phase = .armed → ∀ n, (s.job l).firstHere = some n →
      ∃ t, exec .go s = .next t ∧ (t.job l).phase = .live ∧ (t.gang l n).state = .loading) ∧
    (∀ l, s.jobNamed p h = some l → (s.job l).phase = .live → (s.job l).restored = false →
      ∃ t, exec .go s = .next t ∧ (t.job l).holds = (s.job l).holds &&& ~~~(1#64 <<< p) ∧ (t.job l).savers = (s.job l).savers.erase p) ∧
    (∀ l, s.partOf p h = some l → ∃ t, exec .cancel s = .next t ∧ (t.job l).phase = .ended) ∧
    (∀ l, s.jobNamed p h = some l →
      (∃ t, exec .remoteStop s = .next t ∧ (p ∉ (s.job l).savers → (t.job l).holds.getLsbD p = true)
        ∧ (t.stoppedForSave l = false → p ∈ (t.job l).savers ∧ s.tells t []) ∧ (t.stoppedForSave l = true → s.tells t [(p, .confirm h)])) ∧
      (∃ t, exec .stopConfirm s = .next t ∧ t = { x with jobs := t.jobs }
        ∧ t.job l = { s.job l with owed := (s.job l).owed &&& ~~~(1#64 <<< p) })) ∧
    (∀ l, s.partOf p h = some l → (s.job l).restored = true → (s.peer p).lost = true → (s.job l).armAt + 850000 ≤ s.ticks →
      ∃ t, exec .restoredPartDiscard s = .next t ∧ (t.job l).phase = .ended)

/-! ### Encodings -/

/-- R278–R288, R366, R371: a well-formed strand instruction with an encoding is read back from its word, with every operand. -/
def Obligations.StrandRoundTrip : Prop :=
  ∀ (i : Instr) (w : BitVec 32), i.wellFormed = true → encodeWord i = some w → decodeWord w = .ok i

/-- R289: a word that decodes is the word of the well-formed instruction it decodes to: no bit of it is ignored. -/
def Obligations.WordsHaveOneMeaning : Prop :=
  ∀ (i : Instr) (w : BitVec 32), decodeWord w = .ok i → i.wellFormed = true ∧ encodeWord i = some w

/-- R290, R397–R423: a well-formed command is read back from its 256 bits in its queue, with every field. -/
def Obligations.CommandRoundTrip : Prop :=
  ∀ (i : Instr) (c : BitVec 256), i.wellFormed = true → encodeCommand i = some c →
    ∃ q issuer seq, decodeCommand {} q issuer seq c = i

/-- R278–R294: the words the spec writes out in full stand for the instructions it names, the header of its CPY example and the MSTREAM of R402 among
them. -/
def Obligations.SampleWords : Prop :=
  (∀ p ∈ [(0x0AA5B052#32, Instr.fma 10 11 12 0 2), (0x5063B023#32, .ld 6 7 1 2 2 3), (0x54915AE0#32, .st 9 2 2 3 0x2E 0),
      (0x3E507FFD#32, .bnz 5 0x7FFD), (0x6688B000#32, .enq 4 8 0xB), (0x41FFFFFB#32, .b 0x1FFFFFB), (0x20630ACF#32, .lih 6 6 0xACF),
      (0x46808002#32, .loop 8 1 2), (0x7264200A#32, .cins 6 4 0xA), (0x60000210#32, .tfence 4), (0x5E641D93#32, .atomar 6 8 7 1 9 3),
      (0x64B00840#32, .recvh 11 2), (0x6C028C20#32, .gset 5 3), (0x6E638000#32, .pega 6 7), (0x90F02180#32, .vcvt 7 8 1 0 3 0 0),
      (0x80AEC162#32, .vldg 5 7 6 0 2 1 2), (0xA0246000#32, .pand 1 2 3)], decodeWord p.1 = .ok p.2) ∧
  packHdr { peg := true, pegIdx := 5, pegGen := 3, tag := 0x42, errpost := false, cop := 0x10, queue := 4, issuer := 0, seq := 0 } 0
    = 0x0000004200031510#64 ∧
  (∀ seq, decodeCommand {} 0 3 seq ((0#128 ++ 0x0000000A00000301#64) ++ 0x0000000700000002#64)
    = .mstream { peg := false, pegIdx := 0, pegGen := 0, tag := 7, errpost := false, cop := 2, queue := 0, issuer := 3, seq := seq } 1 3 10 0)

/-! ### The machine -/

/-- R147, R176, R289: in the slot of a strand that may issue, the word at its PC decodes and that instruction executes, unless an outstanding
operation has to complete before it; a word that names no form, or has a reserved bit set, takes the illegal-opcode meaning. What was due
completes before, and a WAIT that a stop has cancelled is issued again first; the slot's accounts come after. An event whose time has come is
executed with its values. -/
def Obligations.StepRunsDecoded : Prop :=
  (∀ (s s0 : State) (w : BitVec 32), s.act = .slot → s.mayIssue →
    (s.fillArrived s.cur).completeOps s.cur (fun o => o.due s.cycle) = (s0, false) →
    (∀ o ∈ s0.me.out, o.waits = true → ∀ a, o.access = some a → s0.listed s0.cur a = true) →
    s0.fetches32 w → s0.cur = s.cur → ∃ s1, s1 = { s0 with tiles := s1.tiles } ∧
      (∀ i, decodeWord w = .ok i → s0.me.musts (usesOf i) = [] → step s = andThen (exec i s1) (State.afterSlot s (some i))) ∧
      (decodeWord w = .illegalOpcode → step s = andThen (exec (.illegalOpcode w false) s1) (State.afterSlot s (some (.illegalOpcode w false)))) ∧
      (decodeWord w = .reservedBits → step s = andThen (exec (.illegalOpcode w true) s1) (State.afterSlot s (some (.illegalOpcode w true))))) ∧
  (∀ (s : State) (i : Instr) (x : Input) (rest : List (Nat × Instr × Input)), s.outside = some ((i, x), rest) →
    step s = andThen (exec i { s with input := x, agenda := rest, focus := if isCommand i then x.ctx else s.focus }) (State.afterEvent s))

/-- R23: while there is power no step stops: every instruction, command, record and event, in every state, leads to a next state. -/
def Obligations.StepGoesOn : Prop := ∀ (s : State), s.powerLost = false → s.goesOn

/-- Every step keeps the memories in their canonical form: addresses rising, no byte listed that reads as an unlisted one. -/
def Obligations.MemoryKeepsForm : Prop := ∀ (s t : State), s.memWf = true → step s = .next t → t.memWf = true

/-- R23, R42: whatever happens, READY stands only at the end of bring-up and not after a supply failure. -/
def Obligations.ReadyAfterBringUp : Prop := ∀ (s t : State), s.readyOk = true → step s = .next t → t.readyOk = true

/-- R34, R45, R58, R84, R130, R180: what the register tables give for reset: STATUS, TIME, the range table, the queue blocks, the scheduler's
parameters and the trap registers; no strand runs, and the memories have their form. That an unwritten byte reads as zero and that the state
is the one before bring-up are the model's choice (log 2, log 5). -/
def Obligations.ResetState : Prop :=
  let s := State.reset
  s.memWf = true ∧ s.readyOk = true ∧ s.status = {} ∧ s.status.ready = false ∧ s.status.pool = 0#11 ∧ s.time = 0 ∧ s.powerLost = false ∧
    (∀ n, (s.rangeEntry n).valid = false ∧ (s.rangeEntry n).stackSet = 0#48) ∧
    (∀ q, (s.queue q).en = false ∧ (s.queue q).head = 0#32 ∧ (s.queue q).ctail = 0#32 ∧ (s.queue q).notify = 0#32) ∧
    s.sched.eff = s.sched.written ∧ s.sched.eff.idleswap = 20#16 ∧ s.sched.eff.quantum = 8#8 ∧ s.sched.eff.minres = 2000#24
      ∧ s.sched.eff.turnlen = 0x400000#32 ∧ s.sched.eff.thot = 92#8 ∧ s.sched.eff.tcool = 80#8 ∧ s.sched.eff.roten = true
      ∧ s.sched.eff.pqsize = 64#16 ∧ s.sched.eff.wdog = 1000#32 ∧ s.sched.swaps = 0#32 ∧
    (∀ k, (s.strand k).live = false ∧ (s.strand k).trap.tvec = 0#64 ∧ (s.strand k).trap.tcause = 0#7 ∧ (s.strand k).lstat = 0#2
      ∧ (s.strand k).fflags = 0#6 ∧ (s.strand k).frm = 0#2 ∧ (s.strand k).fen = 0#6) ∧
    (∀ c, (s.ctx c).ashape = 0xF#4 ∧ (s.ctx c).turns = 0#64) ∧
    (∀ l, (match l with | .host _ _ => False | .peer _ _ => False | _ => True) → s.byteAt l = 0#8 ∧ s.fullAt l = true)
end

