-- ==== Sys2Proof/Laws/Table.lean ====
section
/-! SUPPORT. The laws of sparse tables: read after write, and that writing keeps the canonical form. -/

namespace Sys2Proof.Machine

theorem tableGet_filter_ne (d : β) (m : Table β) (k j : Nat) (h : j ≠ k) :
    tableGet d (m.filter (fun p => p.1 ≠ k)) j = tableGet d m j := by
  induction m with
  | nil => rfl
  | cons p t ih =>
    obtain ⟨k', v⟩ := p
    by_cases hk : k' = k
    · subst hk; simp [tableGet, h]; simpa using ih
    · simp only [List.filter_cons, ne_eq, hk, not_false_eq_true, decide_true, if_true, tableGet]
      simp only [ne_eq] at ih; rw [ih]

theorem tableGet_filter_self (d : β) (m : Table β) (k : Nat) :
    tableGet d (m.filter (fun p => p.1 ≠ k)) k = d := by
  induction m with
  | nil => rfl
  | cons p t ih =>
    obtain ⟨k', v⟩ := p
    by_cases hk : k' = k
    · subst hk; simpa using ih
    · have hk' : k ≠ k' := fun e => hk e.symm
      simp only [List.filter_cons, ne_eq, hk, not_false_eq_true, decide_true, if_true, tableGet, hk', if_false]
      simpa using ih

theorem tableGet_place (d : β) (m : Table β) (k j : Nat) (v : β) (hm : ∀ p ∈ m, p.1 ≠ k) :
    tableGet d (tablePlace m k v) j = if j = k then v else tableGet d m j := by
  induction m with
  | nil => simp [tablePlace, tableGet]
  | cons p t ih =>
    obtain ⟨k', v'⟩ := p
    have hk : k' ≠ k := hm (k', v') (by simp)
    have ht := ih (fun q hq => hm q (by simp [hq]))
    by_cases hlt : k < k'
    · simp [tablePlace, hlt, tableGet]
    · simp only [tablePlace, hlt, if_false, tableGet, ht]
      by_cases hj : j = k'
      · have : j ≠ k := fun e => hk (hj ▸ e)
        simp [hj, hk]
      · simp [hj]

/-- Read after write: the value written at `k`, every other key as before. -/
theorem tableGet_set [DecidableEq β] (d : β) (m : Table β) (k j : Nat) (v : β) :
    tableGet d (tableSet d m k v) j = if j = k then v else tableGet d m j := by
  have hm : ∀ p ∈ m.filter (fun p => p.1 ≠ k), p.1 ≠ k := by
    intro p hp; simpa using (List.mem_filter.mp hp).2
  by_cases hv : v = d
  · by_cases hj : j = k
    · subst hj; simp only [tableSet, hv, if_true]; exact tableGet_filter_self d m j
    · simp only [tableSet, hv, if_true, hj, if_false]; exact tableGet_filter_ne d m k j hj
  · simp only [tableSet, hv, if_false]
    rw [tableGet_place d _ k j v hm]
    by_cases hj : j = k
    · simp [hj]
    · simp only [hj, if_false]; exact tableGet_filter_ne d m k j hj

@[simp] theorem tableGet_set_self [DecidableEq β] (d : β) (m : Table β) (k : Nat) (v : β) :
    tableGet d (tableSet d m k v) k = v := by simp [tableGet_set]

theorem tableGet_set_ne [DecidableEq β] (d : β) (m : Table β) (k j : Nat) (v : β) (h : j ≠ k) :
    tableGet d (tableSet d m k v) j = tableGet d m j := by simp [tableGet_set, h]

theorem tableWf_filter [DecidableEq β] (d : β) (m : Table β) (f : Nat × β → Bool)
    (h : tableWf d m = true) : tableWf d (m.filter f) = true := by
  induction m with
  | nil => rfl
  | cons p t ih =>
    obtain ⟨k, v⟩ := p
    simp only [tableWf, Bool.and_eq_true, decide_eq_true_eq, List.all_eq_true] at h
    obtain ⟨⟨hv, ha⟩, ht⟩ := h
    by_cases hf : f (k, v) = true
    · simp only [List.filter_cons, hf, if_true, tableWf, Bool.and_eq_true, decide_eq_true_eq, List.all_eq_true]
      exact ⟨⟨hv, fun q hq => ha q (List.mem_filter.mp hq).1⟩, ih ht⟩
    · simpa [List.filter_cons, hf] using ih ht

theorem mem_tablePlace (m : Table β) (k : Nat) (v : β) (q : Nat × β) (h : q ∈ tablePlace m k v) :
    q = (k, v) ∨ q ∈ m := by
  induction m with
  | nil => simpa [tablePlace] using h
  | cons p t ih =>
    obtain ⟨k', v'⟩ := p
    by_cases hlt : k < k'
    · simpa [tablePlace, hlt] using h
    · simp only [tablePlace, hlt, if_false, List.mem_cons] at h
      rcases h with h | h
      · right; simp [h]
      · rcases ih h with h | h
        · left; exact h
        · right; simp [h]

theorem tableWf_place [DecidableEq β] (d : β) (m : Table β) (k : Nat) (v : β) (hv : v ≠ d)
    (hk : ∀ p ∈ m, p.1 ≠ k) (h : tableWf d m = true) : tableWf d (tablePlace m k v) = true := by
  induction m with
  | nil => simp [tablePlace, tableWf, hv]
  | cons p t ih =>
    obtain ⟨k', v'⟩ := p
    have hkk : k' ≠ k := hk (k', v') (by simp)
    simp only [tableWf, Bool.and_eq_true, decide_eq_true_eq, List.all_eq_true] at h
    obtain ⟨⟨hv', ha⟩, ht⟩ := h
    by_cases hlt : k < k'
    · simp only [tablePlace, hlt, if_true, tableWf, Bool.and_eq_true, decide_eq_true_eq, List.all_eq_true]
      refine ⟨⟨hv, ?_⟩, ⟨hv', ha⟩, ht⟩
      intro q hq
      rcases List.mem_cons.mp hq with rfl | hq
      · exact hlt
      · exact Nat.lt_trans hlt (ha q hq)
    · simp only [tablePlace, hlt, if_false, tableWf, Bool.and_eq_true, decide_eq_true_eq, List.all_eq_true]
      refine ⟨⟨hv', ?_⟩, ih (fun q hq => hk q (by simp [hq])) ht⟩
      intro q hq
      rcases mem_tablePlace t k v q hq with rfl | hq
      · show k' < k; omega
      · exact ha q hq

/-- Every write keeps the canonical form. -/
theorem tableSet_wf [DecidableEq β] (d : β) (m : Table β) (k : Nat) (v : β)
    (h : tableWf d m = true) : tableWf d (tableSet d m k v) = true := by
  by_cases hv : v = d
  · simp only [tableSet, hv, if_true]; exact tableWf_filter d m _ h
  · simp only [tableSet, hv, if_false]
    refine tableWf_place d _ k v hv ?_ (tableWf_filter d m _ h)
    intro p hp; simpa using (List.mem_filter.mp hp).2

/-- A change of every listed value: a listed key reads as changed, an unlisted one as before. -/
theorem tableGet_map [DecidableEq β] (d : β) (m : Table β) (f : Nat → β → β) (k : Nat) :
    tableGet d (tableMap d m f) k = if k ∈ m.map (·.1) then f k (tableGet d m k) else d := by
  induction m with
  | nil => rfl
  | cons p t ih =>
    obtain ⟨k', v⟩ := p
    have e : tableMap d ((k', v) :: t) f = tableSet d (tableMap d t f) k' (f k' v) := rfl
    rw [e, tableGet_set, ih]
    by_cases hk : k = k'
    · subst hk; simp [tableGet]
    · simp only [tableGet, hk, if_false, List.map_cons, List.mem_cons, false_or]

/-- Where the change keeps the default, it reads everywhere. -/
theorem tableGet_map_of [DecidableEq β] (d : β) (m : Table β) (f : Nat → β → β) (k : Nat) (h : f k d = d) :
    tableGet d (tableMap d m f) k = f k (tableGet d m k) := by
  rw [tableGet_map]
  split
  · rfl
  · next hk =>
    have : tableGet d m k = d := by
      induction m with
      | nil => rfl
      | cons p t ih =>
        obtain ⟨k', v⟩ := p
        simp only [List.map_cons, List.mem_cons, not_or] at hk
        simp [tableGet, hk.1, ih hk.2]
    rw [this, h]

theorem tableMap_wf [DecidableEq β] (d : β) (m : Table β) (f : Nat → β → β) : tableWf d (tableMap d m f) = true := by
  induction m with
  | nil => rfl
  | cons p t ih => exact tableSet_wf d _ _ _ ih

end Sys2Proof.Machine
end

