-- ==== Sys2Proof/Laws/State.lean ====
section
/-! SUPPORT. One lemma for each field and each update of the state, and read after write for each of its tables. -/

namespace Sys2Proof.Machine

/-! ### setStrand -/

@[simp] theorem State.setStrand_cycle (s : State) (k : Nat) (v : Strand) : (s.setStrand k v).cycle = s.cycle := rfl
@[simp] theorem State.setStrand_ticks (s : State) (k : Nat) (v : Strand) : (s.setStrand k v).ticks = s.ticks := rfl
@[simp] theorem State.setStrand_boot (s : State) (k : Nat) (v : Strand) : (s.setStrand k v).boot = s.boot := rfl
@[simp] theorem State.setStrand_bootStopped (s : State) (k : Nat) (v : Strand) : (s.setStrand k v).bootStopped = s.bootStopped := rfl
@[simp] theorem State.setStrand_status (s : State) (k : Nat) (v : Strand) : (s.setStrand k v).status = s.status := rfl
@[simp] theorem State.setStrand_ctxs (s : State) (k : Nat) (v : Strand) : (s.setStrand k v).ctxs = s.ctxs := rfl
@[simp] theorem State.setStrand_jobs (s : State) (k : Nat) (v : Strand) : (s.setStrand k v).jobs = s.jobs := rfl
@[simp] theorem State.setStrand_tiles (s : State) (k : Nat) (v : Strand) : (s.setStrand k v).tiles = s.tiles := rfl
@[simp] theorem State.setStrand_published (s : State) (k : Nat) (v : Strand) : (s.setStrand k v).published = s.published := rfl
@[simp] theorem State.setStrand_rim (s : State) (k : Nat) (v : Strand) : (s.setStrand k v).rim = s.rim := rfl
@[simp] theorem State.setStrand_rimfe (s : State) (k : Nat) (v : Strand) : (s.setStrand k v).rimfe = s.rimfe := rfl
@[simp] theorem State.setStrand_hostMem (s : State) (k : Nat) (v : Strand) : (s.setStrand k v).hostMem = s.hostMem := rfl
@[simp] theorem State.setStrand_peerMem (s : State) (k : Nat) (v : Strand) : (s.setStrand k v).peerMem = s.peerMem := rfl
@[simp] theorem State.setStrand_waiters (s : State) (k : Nat) (v : Strand) : (s.setStrand k v).waiters = s.waiters := rfl
@[simp] theorem State.setStrand_unfenced (s : State) (k : Nat) (v : Strand) : (s.setStrand k v).unfenced = s.unfenced := rfl
@[simp] theorem State.setStrand_released (s : State) (k : Nat) (v : Strand) : (s.setStrand k v).released = s.released := rfl
@[simp] theorem State.setStrand_range (s : State) (k : Nat) (v : Strand) : (s.setStrand k v).range = s.range := rfl
@[simp] theorem State.setStrand_stackTab (s : State) (k : Nat) (v : Strand) : (s.setStrand k v).stackTab = s.stackTab := rfl
@[simp] theorem State.setStrand_hq (s : State) (k : Nat) (v : Strand) : (s.setStrand k v).hq = s.hq := rfl
@[simp] theorem State.setStrand_tenants (s : State) (k : Nat) (v : Strand) : (s.setStrand k v).tenants = s.tenants := rfl
@[simp] theorem State.setStrand_cpTlb (s : State) (k : Nat) (v : Strand) : (s.setStrand k v).cpTlb = s.cpTlb := rfl
@[simp] theorem State.setStrand_fault (s : State) (k : Nat) (v : Strand) : (s.setStrand k v).fault = s.fault := rfl
@[simp] theorem State.setStrand_sched (s : State) (k : Nat) (v : Strand) : (s.setStrand k v).sched = s.sched := rfl
@[simp] theorem State.setStrand_moves (s : State) (k : Nat) (v : Strand) : (s.setStrand k v).moves = s.moves := rfl
@[simp] theorem State.setStrand_overhead (s : State) (k : Nat) (v : Strand) : (s.setStrand k v).overhead = s.overhead := rfl
@[simp] theorem State.setStrand_power (s : State) (k : Nat) (v : Strand) : (s.setStrand k v).power = s.power := rfl
@[simp] theorem State.setStrand_laroon (s : State) (k : Nat) (v : Strand) : (s.setStrand k v).laroon = s.laroon := rfl
@[simp] theorem State.setStrand_links (s : State) (k : Nat) (v : Strand) : (s.setStrand k v).links = s.links := rfl
@[simp] theorem State.setStrand_ports (s : State) (k : Nat) (v : Strand) : (s.setStrand k v).ports = s.ports := rfl
@[simp] theorem State.setStrand_peers (s : State) (k : Nat) (v : Strand) : (s.setStrand k v).peers = s.peers := rfl
@[simp] theorem State.setStrand_sent (s : State) (k : Nat) (v : Strand) : (s.setStrand k v).sent = s.sent := rfl
@[simp] theorem State.setStrand_msix (s : State) (k : Nat) (v : Strand) : (s.setStrand k v).msix = s.msix := rfl
@[simp] theorem State.setStrand_bankSeq (s : State) (k : Nat) (v : Strand) : (s.setStrand k v).bankSeq = s.bankSeq := rfl
@[simp] theorem State.setStrand_rasAt (s : State) (k : Nat) (v : Strand) : (s.setStrand k v).rasAt = s.rasAt := rfl
@[simp] theorem State.setStrand_saved (s : State) (k : Nat) (v : Strand) : (s.setStrand k v).saved = s.saved := rfl
@[simp] theorem State.setStrand_nextHandle (s : State) (k : Nat) (v : Strand) : (s.setStrand k v).nextHandle = s.nextHandle := rfl
@[simp] theorem State.setStrand_powerLost (s : State) (k : Nat) (v : Strand) : (s.setStrand k v).powerLost = s.powerLost := rfl
@[simp] theorem State.setStrand_env (s : State) (k : Nat) (v : Strand) : (s.setStrand k v).env = s.env := rfl
@[simp] theorem State.setStrand_agenda (s : State) (k : Nat) (v : Strand) : (s.setStrand k v).agenda = s.agenda := rfl
@[simp] theorem State.setStrand_input (s : State) (k : Nat) (v : Strand) : (s.setStrand k v).input = s.input := rfl
@[simp] theorem State.setStrand_phase (s : State) (k : Nat) (v : Strand) : (s.setStrand k v).phase = s.phase := rfl
@[simp] theorem State.setStrand_focus (s : State) (k : Nat) (v : Strand) : (s.setStrand k v).focus = s.focus := rfl
@[simp] theorem State.setStrand_free (s : State) (k : Nat) (v : Strand) : (s.setStrand k v).free = s.free := rfl

/-! ### setCtx -/

@[simp] theorem State.setCtx_cycle (s : State) (k : Nat) (v : Ctx) : (s.setCtx k v).cycle = s.cycle := rfl
@[simp] theorem State.setCtx_ticks (s : State) (k : Nat) (v : Ctx) : (s.setCtx k v).ticks = s.ticks := rfl
@[simp] theorem State.setCtx_boot (s : State) (k : Nat) (v : Ctx) : (s.setCtx k v).boot = s.boot := rfl
@[simp] theorem State.setCtx_bootStopped (s : State) (k : Nat) (v : Ctx) : (s.setCtx k v).bootStopped = s.bootStopped := rfl
@[simp] theorem State.setCtx_status (s : State) (k : Nat) (v : Ctx) : (s.setCtx k v).status = s.status := rfl
@[simp] theorem State.setCtx_strands (s : State) (k : Nat) (v : Ctx) : (s.setCtx k v).strands = s.strands := rfl
@[simp] theorem State.setCtx_jobs (s : State) (k : Nat) (v : Ctx) : (s.setCtx k v).jobs = s.jobs := rfl
@[simp] theorem State.setCtx_tiles (s : State) (k : Nat) (v : Ctx) : (s.setCtx k v).tiles = s.tiles := rfl
@[simp] theorem State.setCtx_published (s : State) (k : Nat) (v : Ctx) : (s.setCtx k v).published = s.published := rfl
@[simp] theorem State.setCtx_rim (s : State) (k : Nat) (v : Ctx) : (s.setCtx k v).rim = s.rim := rfl
@[simp] theorem State.setCtx_rimfe (s : State) (k : Nat) (v : Ctx) : (s.setCtx k v).rimfe = s.rimfe := rfl
@[simp] theorem State.setCtx_hostMem (s : State) (k : Nat) (v : Ctx) : (s.setCtx k v).hostMem = s.hostMem := rfl
@[simp] theorem State.setCtx_peerMem (s : State) (k : Nat) (v : Ctx) : (s.setCtx k v).peerMem = s.peerMem := rfl
@[simp] theorem State.setCtx_waiters (s : State) (k : Nat) (v : Ctx) : (s.setCtx k v).waiters = s.waiters := rfl
@[simp] theorem State.setCtx_unfenced (s : State) (k : Nat) (v : Ctx) : (s.setCtx k v).unfenced = s.unfenced := rfl
@[simp] theorem State.setCtx_released (s : State) (k : Nat) (v : Ctx) : (s.setCtx k v).released = s.released := rfl
@[simp] theorem State.setCtx_range (s : State) (k : Nat) (v : Ctx) : (s.setCtx k v).range = s.range := rfl
@[simp] theorem State.setCtx_stackTab (s : State) (k : Nat) (v : Ctx) : (s.setCtx k v).stackTab = s.stackTab := rfl
@[simp] theorem State.setCtx_hq (s : State) (k : Nat) (v : Ctx) : (s.setCtx k v).hq = s.hq := rfl
@[simp] theorem State.setCtx_tenants (s : State) (k : Nat) (v : Ctx) : (s.setCtx k v).tenants = s.tenants := rfl
@[simp] theorem State.setCtx_cpTlb (s : State) (k : Nat) (v : Ctx) : (s.setCtx k v).cpTlb = s.cpTlb := rfl
@[simp] theorem State.setCtx_fault (s : State) (k : Nat) (v : Ctx) : (s.setCtx k v).fault = s.fault := rfl
@[simp] theorem State.setCtx_sched (s : State) (k : Nat) (v : Ctx) : (s.setCtx k v).sched = s.sched := rfl
@[simp] theorem State.setCtx_moves (s : State) (k : Nat) (v : Ctx) : (s.setCtx k v).moves = s.moves := rfl
@[simp] theorem State.setCtx_overhead (s : State) (k : Nat) (v : Ctx) : (s.setCtx k v).overhead = s.overhead := rfl
@[simp] theorem State.setCtx_power (s : State) (k : Nat) (v : Ctx) : (s.setCtx k v).power = s.power := rfl
@[simp] theorem State.setCtx_laroon (s : State) (k : Nat) (v : Ctx) : (s.setCtx k v).laroon = s.laroon := rfl
@[simp] theorem State.setCtx_links (s : State) (k : Nat) (v : Ctx) : (s.setCtx k v).links = s.links := rfl
@[simp] theorem State.setCtx_ports (s : State) (k : Nat) (v : Ctx) : (s.setCtx k v).ports = s.ports := rfl
@[simp] theorem State.setCtx_peers (s : State) (k : Nat) (v : Ctx) : (s.setCtx k v).peers = s.peers := rfl
@[simp] theorem State.setCtx_sent (s : State) (k : Nat) (v : Ctx) : (s.setCtx k v).sent = s.sent := rfl
@[simp] theorem State.setCtx_msix (s : State) (k : Nat) (v : Ctx) : (s.setCtx k v).msix = s.msix := rfl
@[simp] theorem State.setCtx_bankSeq (s : State) (k : Nat) (v : Ctx) : (s.setCtx k v).bankSeq = s.bankSeq := rfl
@[simp] theorem State.setCtx_rasAt (s : State) (k : Nat) (v : Ctx) : (s.setCtx k v).rasAt = s.rasAt := rfl
@[simp] theorem State.setCtx_saved (s : State) (k : Nat) (v : Ctx) : (s.setCtx k v).saved = s.saved := rfl
@[simp] theorem State.setCtx_nextHandle (s : State) (k : Nat) (v : Ctx) : (s.setCtx k v).nextHandle = s.nextHandle := rfl
@[simp] theorem State.setCtx_powerLost (s : State) (k : Nat) (v : Ctx) : (s.setCtx k v).powerLost = s.powerLost := rfl
@[simp] theorem State.setCtx_env (s : State) (k : Nat) (v : Ctx) : (s.setCtx k v).env = s.env := rfl
@[simp] theorem State.setCtx_agenda (s : State) (k : Nat) (v : Ctx) : (s.setCtx k v).agenda = s.agenda := rfl
@[simp] theorem State.setCtx_input (s : State) (k : Nat) (v : Ctx) : (s.setCtx k v).input = s.input := rfl
@[simp] theorem State.setCtx_phase (s : State) (k : Nat) (v : Ctx) : (s.setCtx k v).phase = s.phase := rfl
@[simp] theorem State.setCtx_focus (s : State) (k : Nat) (v : Ctx) : (s.setCtx k v).focus = s.focus := rfl
@[simp] theorem State.setCtx_free (s : State) (k : Nat) (v : Ctx) : (s.setCtx k v).free = s.free := rfl

/-! ### setJob -/

@[simp] theorem State.setJob_cycle (s : State) (k : Nat) (v : Job) : (s.setJob k v).cycle = s.cycle := rfl
@[simp] theorem State.setJob_ticks (s : State) (k : Nat) (v : Job) : (s.setJob k v).ticks = s.ticks := rfl
@[simp] theorem State.setJob_boot (s : State) (k : Nat) (v : Job) : (s.setJob k v).boot = s.boot := rfl
@[simp] theorem State.setJob_bootStopped (s : State) (k : Nat) (v : Job) : (s.setJob k v).bootStopped = s.bootStopped := rfl
@[simp] theorem State.setJob_status (s : State) (k : Nat) (v : Job) : (s.setJob k v).status = s.status := rfl
@[simp] theorem State.setJob_strands (s : State) (k : Nat) (v : Job) : (s.setJob k v).strands = s.strands := rfl
@[simp] theorem State.setJob_ctxs (s : State) (k : Nat) (v : Job) : (s.setJob k v).ctxs = s.ctxs := rfl
@[simp] theorem State.setJob_tiles (s : State) (k : Nat) (v : Job) : (s.setJob k v).tiles = s.tiles := rfl
@[simp] theorem State.setJob_published (s : State) (k : Nat) (v : Job) : (s.setJob k v).published = s.published := rfl
@[simp] theorem State.setJob_rim (s : State) (k : Nat) (v : Job) : (s.setJob k v).rim = s.rim := rfl
@[simp] theorem State.setJob_rimfe (s : State) (k : Nat) (v : Job) : (s.setJob k v).rimfe = s.rimfe := rfl
@[simp] theorem State.setJob_hostMem (s : State) (k : Nat) (v : Job) : (s.setJob k v).hostMem = s.hostMem := rfl
@[simp] theorem State.setJob_peerMem (s : State) (k : Nat) (v : Job) : (s.setJob k v).peerMem = s.peerMem := rfl
@[simp] theorem State.setJob_waiters (s : State) (k : Nat) (v : Job) : (s.setJob k v).waiters = s.waiters := rfl
@[simp] theorem State.setJob_unfenced (s : State) (k : Nat) (v : Job) : (s.setJob k v).unfenced = s.unfenced := rfl
@[simp] theorem State.setJob_released (s : State) (k : Nat) (v : Job) : (s.setJob k v).released = s.released := rfl
@[simp] theorem State.setJob_range (s : State) (k : Nat) (v : Job) : (s.setJob k v).range = s.range := rfl
@[simp] theorem State.setJob_stackTab (s : State) (k : Nat) (v : Job) : (s.setJob k v).stackTab = s.stackTab := rfl
@[simp] theorem State.setJob_hq (s : State) (k : Nat) (v : Job) : (s.setJob k v).hq = s.hq := rfl
@[simp] theorem State.setJob_tenants (s : State) (k : Nat) (v : Job) : (s.setJob k v).tenants = s.tenants := rfl
@[simp] theorem State.setJob_cpTlb (s : State) (k : Nat) (v : Job) : (s.setJob k v).cpTlb = s.cpTlb := rfl
@[simp] theorem State.setJob_fault (s : State) (k : Nat) (v : Job) : (s.setJob k v).fault = s.fault := rfl
@[simp] theorem State.setJob_sched (s : State) (k : Nat) (v : Job) : (s.setJob k v).sched = s.sched := rfl
@[simp] theorem State.setJob_moves (s : State) (k : Nat) (v : Job) : (s.setJob k v).moves = s.moves := rfl
@[simp] theorem State.setJob_overhead (s : State) (k : Nat) (v : Job) : (s.setJob k v).overhead = s.overhead := rfl
@[simp] theorem State.setJob_power (s : State) (k : Nat) (v : Job) : (s.setJob k v).power = s.power := rfl
@[simp] theorem State.setJob_laroon (s : State) (k : Nat) (v : Job) : (s.setJob k v).laroon = s.laroon := rfl
@[simp] theorem State.setJob_links (s : State) (k : Nat) (v : Job) : (s.setJob k v).links = s.links := rfl
@[simp] theorem State.setJob_ports (s : State) (k : Nat) (v : Job) : (s.setJob k v).ports = s.ports := rfl
@[simp] theorem State.setJob_peers (s : State) (k : Nat) (v : Job) : (s.setJob k v).peers = s.peers := rfl
@[simp] theorem State.setJob_sent (s : State) (k : Nat) (v : Job) : (s.setJob k v).sent = s.sent := rfl
@[simp] theorem State.setJob_msix (s : State) (k : Nat) (v : Job) : (s.setJob k v).msix = s.msix := rfl
@[simp] theorem State.setJob_bankSeq (s : State) (k : Nat) (v : Job) : (s.setJob k v).bankSeq = s.bankSeq := rfl
@[simp] theorem State.setJob_rasAt (s : State) (k : Nat) (v : Job) : (s.setJob k v).rasAt = s.rasAt := rfl
@[simp] theorem State.setJob_saved (s : State) (k : Nat) (v : Job) : (s.setJob k v).saved = s.saved := rfl
@[simp] theorem State.setJob_nextHandle (s : State) (k : Nat) (v : Job) : (s.setJob k v).nextHandle = s.nextHandle := rfl
@[simp] theorem State.setJob_powerLost (s : State) (k : Nat) (v : Job) : (s.setJob k v).powerLost = s.powerLost := rfl
@[simp] theorem State.setJob_env (s : State) (k : Nat) (v : Job) : (s.setJob k v).env = s.env := rfl
@[simp] theorem State.setJob_agenda (s : State) (k : Nat) (v : Job) : (s.setJob k v).agenda = s.agenda := rfl
@[simp] theorem State.setJob_input (s : State) (k : Nat) (v : Job) : (s.setJob k v).input = s.input := rfl
@[simp] theorem State.setJob_phase (s : State) (k : Nat) (v : Job) : (s.setJob k v).phase = s.phase := rfl
@[simp] theorem State.setJob_focus (s : State) (k : Nat) (v : Job) : (s.setJob k v).focus = s.focus := rfl
@[simp] theorem State.setJob_free (s : State) (k : Nat) (v : Job) : (s.setJob k v).free = s.free := rfl

/-! ### setTile -/

@[simp] theorem State.setTile_cycle (s : State) (k : Nat) (v : Tile) : (s.setTile k v).cycle = s.cycle := rfl
@[simp] theorem State.setTile_ticks (s : State) (k : Nat) (v : Tile) : (s.setTile k v).ticks = s.ticks := rfl
@[simp] theorem State.setTile_boot (s : State) (k : Nat) (v : Tile) : (s.setTile k v).boot = s.boot := rfl
@[simp] theorem State.setTile_bootStopped (s : State) (k : Nat) (v : Tile) : (s.setTile k v).bootStopped = s.bootStopped := rfl
@[simp] theorem State.setTile_status (s : State) (k : Nat) (v : Tile) : (s.setTile k v).status = s.status := rfl
@[simp] theorem State.setTile_strands (s : State) (k : Nat) (v : Tile) : (s.setTile k v).strands = s.strands := rfl
@[simp] theorem State.setTile_ctxs (s : State) (k : Nat) (v : Tile) : (s.setTile k v).ctxs = s.ctxs := rfl
@[simp] theorem State.setTile_jobs (s : State) (k : Nat) (v : Tile) : (s.setTile k v).jobs = s.jobs := rfl
@[simp] theorem State.setTile_published (s : State) (k : Nat) (v : Tile) : (s.setTile k v).published = s.published := rfl
@[simp] theorem State.setTile_rim (s : State) (k : Nat) (v : Tile) : (s.setTile k v).rim = s.rim := rfl
@[simp] theorem State.setTile_rimfe (s : State) (k : Nat) (v : Tile) : (s.setTile k v).rimfe = s.rimfe := rfl
@[simp] theorem State.setTile_hostMem (s : State) (k : Nat) (v : Tile) : (s.setTile k v).hostMem = s.hostMem := rfl
@[simp] theorem State.setTile_peerMem (s : State) (k : Nat) (v : Tile) : (s.setTile k v).peerMem = s.peerMem := rfl
@[simp] theorem State.setTile_waiters (s : State) (k : Nat) (v : Tile) : (s.setTile k v).waiters = s.waiters := rfl
@[simp] theorem State.setTile_unfenced (s : State) (k : Nat) (v : Tile) : (s.setTile k v).unfenced = s.unfenced := rfl
@[simp] theorem State.setTile_released (s : State) (k : Nat) (v : Tile) : (s.setTile k v).released = s.released := rfl
@[simp] theorem State.setTile_range (s : State) (k : Nat) (v : Tile) : (s.setTile k v).range = s.range := rfl
@[simp] theorem State.setTile_stackTab (s : State) (k : Nat) (v : Tile) : (s.setTile k v).stackTab = s.stackTab := rfl
@[simp] theorem State.setTile_hq (s : State) (k : Nat) (v : Tile) : (s.setTile k v).hq = s.hq := rfl
@[simp] theorem State.setTile_tenants (s : State) (k : Nat) (v : Tile) : (s.setTile k v).tenants = s.tenants := rfl
@[simp] theorem State.setTile_cpTlb (s : State) (k : Nat) (v : Tile) : (s.setTile k v).cpTlb = s.cpTlb := rfl
@[simp] theorem State.setTile_fault (s : State) (k : Nat) (v : Tile) : (s.setTile k v).fault = s.fault := rfl
@[simp] theorem State.setTile_sched (s : State) (k : Nat) (v : Tile) : (s.setTile k v).sched = s.sched := rfl
@[simp] theorem State.setTile_moves (s : State) (k : Nat) (v : Tile) : (s.setTile k v).moves = s.moves := rfl
@[simp] theorem State.setTile_overhead (s : State) (k : Nat) (v : Tile) : (s.setTile k v).overhead = s.overhead := rfl
@[simp] theorem State.setTile_power (s : State) (k : Nat) (v : Tile) : (s.setTile k v).power = s.power := rfl
@[simp] theorem State.setTile_laroon (s : State) (k : Nat) (v : Tile) : (s.setTile k v).laroon = s.laroon := rfl
@[simp] theorem State.setTile_links (s : State) (k : Nat) (v : Tile) : (s.setTile k v).links = s.links := rfl
@[simp] theorem State.setTile_ports (s : State) (k : Nat) (v : Tile) : (s.setTile k v).ports = s.ports := rfl
@[simp] theorem State.setTile_peers (s : State) (k : Nat) (v : Tile) : (s.setTile k v).peers = s.peers := rfl
@[simp] theorem State.setTile_sent (s : State) (k : Nat) (v : Tile) : (s.setTile k v).sent = s.sent := rfl
@[simp] theorem State.setTile_msix (s : State) (k : Nat) (v : Tile) : (s.setTile k v).msix = s.msix := rfl
@[simp] theorem State.setTile_bankSeq (s : State) (k : Nat) (v : Tile) : (s.setTile k v).bankSeq = s.bankSeq := rfl
@[simp] theorem State.setTile_rasAt (s : State) (k : Nat) (v : Tile) : (s.setTile k v).rasAt = s.rasAt := rfl
@[simp] theorem State.setTile_saved (s : State) (k : Nat) (v : Tile) : (s.setTile k v).saved = s.saved := rfl
@[simp] theorem State.setTile_nextHandle (s : State) (k : Nat) (v : Tile) : (s.setTile k v).nextHandle = s.nextHandle := rfl
@[simp] theorem State.setTile_powerLost (s : State) (k : Nat) (v : Tile) : (s.setTile k v).powerLost = s.powerLost := rfl
@[simp] theorem State.setTile_env (s : State) (k : Nat) (v : Tile) : (s.setTile k v).env = s.env := rfl
@[simp] theorem State.setTile_agenda (s : State) (k : Nat) (v : Tile) : (s.setTile k v).agenda = s.agenda := rfl
@[simp] theorem State.setTile_input (s : State) (k : Nat) (v : Tile) : (s.setTile k v).input = s.input := rfl
@[simp] theorem State.setTile_phase (s : State) (k : Nat) (v : Tile) : (s.setTile k v).phase = s.phase := rfl
@[simp] theorem State.setTile_focus (s : State) (k : Nat) (v : Tile) : (s.setTile k v).focus = s.focus := rfl
@[simp] theorem State.setTile_free (s : State) (k : Nat) (v : Tile) : (s.setTile k v).free = s.free := rfl

/-! ### setStack -/

@[simp] theorem State.setStack_cycle (s : State) (k : Nat) (v : Stack) : (s.setStack k v).cycle = s.cycle := rfl
@[simp] theorem State.setStack_ticks (s : State) (k : Nat) (v : Stack) : (s.setStack k v).ticks = s.ticks := rfl
@[simp] theorem State.setStack_boot (s : State) (k : Nat) (v : Stack) : (s.setStack k v).boot = s.boot := rfl
@[simp] theorem State.setStack_bootStopped (s : State) (k : Nat) (v : Stack) : (s.setStack k v).bootStopped = s.bootStopped := rfl
@[simp] theorem State.setStack_status (s : State) (k : Nat) (v : Stack) : (s.setStack k v).status = s.status := rfl
@[simp] theorem State.setStack_strands (s : State) (k : Nat) (v : Stack) : (s.setStack k v).strands = s.strands := rfl
@[simp] theorem State.setStack_ctxs (s : State) (k : Nat) (v : Stack) : (s.setStack k v).ctxs = s.ctxs := rfl
@[simp] theorem State.setStack_jobs (s : State) (k : Nat) (v : Stack) : (s.setStack k v).jobs = s.jobs := rfl
@[simp] theorem State.setStack_tiles (s : State) (k : Nat) (v : Stack) : (s.setStack k v).tiles = s.tiles := rfl
@[simp] theorem State.setStack_published (s : State) (k : Nat) (v : Stack) : (s.setStack k v).published = s.published := rfl
@[simp] theorem State.setStack_rim (s : State) (k : Nat) (v : Stack) : (s.setStack k v).rim = s.rim := rfl
@[simp] theorem State.setStack_rimfe (s : State) (k : Nat) (v : Stack) : (s.setStack k v).rimfe = s.rimfe := rfl
@[simp] theorem State.setStack_hostMem (s : State) (k : Nat) (v : Stack) : (s.setStack k v).hostMem = s.hostMem := rfl
@[simp] theorem State.setStack_peerMem (s : State) (k : Nat) (v : Stack) : (s.setStack k v).peerMem = s.peerMem := rfl
@[simp] theorem State.setStack_waiters (s : State) (k : Nat) (v : Stack) : (s.setStack k v).waiters = s.waiters := rfl
@[simp] theorem State.setStack_unfenced (s : State) (k : Nat) (v : Stack) : (s.setStack k v).unfenced = s.unfenced := rfl
@[simp] theorem State.setStack_released (s : State) (k : Nat) (v : Stack) : (s.setStack k v).released = s.released := rfl
@[simp] theorem State.setStack_range (s : State) (k : Nat) (v : Stack) : (s.setStack k v).range = s.range := rfl
@[simp] theorem State.setStack_hq (s : State) (k : Nat) (v : Stack) : (s.setStack k v).hq = s.hq := rfl
@[simp] theorem State.setStack_tenants (s : State) (k : Nat) (v : Stack) : (s.setStack k v).tenants = s.tenants := rfl
@[simp] theorem State.setStack_cpTlb (s : State) (k : Nat) (v : Stack) : (s.setStack k v).cpTlb = s.cpTlb := rfl
@[simp] theorem State.setStack_fault (s : State) (k : Nat) (v : Stack) : (s.setStack k v).fault = s.fault := rfl
@[simp] theorem State.setStack_sched (s : State) (k : Nat) (v : Stack) : (s.setStack k v).sched = s.sched := rfl
@[simp] theorem State.setStack_moves (s : State) (k : Nat) (v : Stack) : (s.setStack k v).moves = s.moves := rfl
@[simp] theorem State.setStack_overhead (s : State) (k : Nat) (v : Stack) : (s.setStack k v).overhead = s.overhead := rfl
@[simp] theorem State.setStack_power (s : State) (k : Nat) (v : Stack) : (s.setStack k v).power = s.power := rfl
@[simp] theorem State.setStack_laroon (s : State) (k : Nat) (v : Stack) : (s.setStack k v).laroon = s.laroon := rfl
@[simp] theorem State.setStack_links (s : State) (k : Nat) (v : Stack) : (s.setStack k v).links = s.links := rfl
@[simp] theorem State.setStack_ports (s : State) (k : Nat) (v : Stack) : (s.setStack k v).ports = s.ports := rfl
@[simp] theorem State.setStack_peers (s : State) (k : Nat) (v : Stack) : (s.setStack k v).peers = s.peers := rfl
@[simp] theorem State.setStack_sent (s : State) (k : Nat) (v : Stack) : (s.setStack k v).sent = s.sent := rfl
@[simp] theorem State.setStack_msix (s : State) (k : Nat) (v : Stack) : (s.setStack k v).msix = s.msix := rfl
@[simp] theorem State.setStack_bankSeq (s : State) (k : Nat) (v : Stack) : (s.setStack k v).bankSeq = s.bankSeq := rfl
@[simp] theorem State.setStack_rasAt (s : State) (k : Nat) (v : Stack) : (s.setStack k v).rasAt = s.rasAt := rfl
@[simp] theorem State.setStack_saved (s : State) (k : Nat) (v : Stack) : (s.setStack k v).saved = s.saved := rfl
@[simp] theorem State.setStack_nextHandle (s : State) (k : Nat) (v : Stack) : (s.setStack k v).nextHandle = s.nextHandle := rfl
@[simp] theorem State.setStack_powerLost (s : State) (k : Nat) (v : Stack) : (s.setStack k v).powerLost = s.powerLost := rfl
@[simp] theorem State.setStack_env (s : State) (k : Nat) (v : Stack) : (s.setStack k v).env = s.env := rfl
@[simp] theorem State.setStack_agenda (s : State) (k : Nat) (v : Stack) : (s.setStack k v).agenda = s.agenda := rfl
@[simp] theorem State.setStack_input (s : State) (k : Nat) (v : Stack) : (s.setStack k v).input = s.input := rfl
@[simp] theorem State.setStack_phase (s : State) (k : Nat) (v : Stack) : (s.setStack k v).phase = s.phase := rfl
@[simp] theorem State.setStack_focus (s : State) (k : Nat) (v : Stack) : (s.setStack k v).focus = s.focus := rfl
@[simp] theorem State.setStack_free (s : State) (k : Nat) (v : Stack) : (s.setStack k v).free = s.free := rfl

/-! ### setQueue -/

@[simp] theorem State.setQueue_cycle (s : State) (k : Nat) (v : HostQueue) : (s.setQueue k v).cycle = s.cycle := rfl
@[simp] theorem State.setQueue_ticks (s : State) (k : Nat) (v : HostQueue) : (s.setQueue k v).ticks = s.ticks := rfl
@[simp] theorem State.setQueue_boot (s : State) (k : Nat) (v : HostQueue) : (s.setQueue k v).boot = s.boot := rfl
@[simp] theorem State.setQueue_bootStopped (s : State) (k : Nat) (v : HostQueue) : (s.setQueue k v).bootStopped = s.bootStopped := rfl
@[simp] theorem State.setQueue_status (s : State) (k : Nat) (v : HostQueue) : (s.setQueue k v).status = s.status := rfl
@[simp] theorem State.setQueue_strands (s : State) (k : Nat) (v : HostQueue) : (s.setQueue k v).strands = s.strands := rfl
@[simp] theorem State.setQueue_ctxs (s : State) (k : Nat) (v : HostQueue) : (s.setQueue k v).ctxs = s.ctxs := rfl
@[simp] theorem State.setQueue_jobs (s : State) (k : Nat) (v : HostQueue) : (s.setQueue k v).jobs = s.jobs := rfl
@[simp] theorem State.setQueue_tiles (s : State) (k : Nat) (v : HostQueue) : (s.setQueue k v).tiles = s.tiles := rfl
@[simp] theorem State.setQueue_published (s : State) (k : Nat) (v : HostQueue) : (s.setQueue k v).published = s.published := rfl
@[simp] theorem State.setQueue_rim (s : State) (k : Nat) (v : HostQueue) : (s.setQueue k v).rim = s.rim := rfl
@[simp] theorem State.setQueue_rimfe (s : State) (k : Nat) (v : HostQueue) : (s.setQueue k v).rimfe = s.rimfe := rfl
@[simp] theorem State.setQueue_hostMem (s : State) (k : Nat) (v : HostQueue) : (s.setQueue k v).hostMem = s.hostMem := rfl
@[simp] theorem State.setQueue_peerMem (s : State) (k : Nat) (v : HostQueue) : (s.setQueue k v).peerMem = s.peerMem := rfl
@[simp] theorem State.setQueue_waiters (s : State) (k : Nat) (v : HostQueue) : (s.setQueue k v).waiters = s.waiters := rfl
@[simp] theorem State.setQueue_unfenced (s : State) (k : Nat) (v : HostQueue) : (s.setQueue k v).unfenced = s.unfenced := rfl
@[simp] theorem State.setQueue_released (s : State) (k : Nat) (v : HostQueue) : (s.setQueue k v).released = s.released := rfl
@[simp] theorem State.setQueue_range (s : State) (k : Nat) (v : HostQueue) : (s.setQueue k v).range = s.range := rfl
@[simp] theorem State.setQueue_stackTab (s : State) (k : Nat) (v : HostQueue) : (s.setQueue k v).stackTab = s.stackTab := rfl
@[simp] theorem State.setQueue_tenants (s : State) (k : Nat) (v : HostQueue) : (s.setQueue k v).tenants = s.tenants := rfl
@[simp] theorem State.setQueue_cpTlb (s : State) (k : Nat) (v : HostQueue) : (s.setQueue k v).cpTlb = s.cpTlb := rfl
@[simp] theorem State.setQueue_fault (s : State) (k : Nat) (v : HostQueue) : (s.setQueue k v).fault = s.fault := rfl
@[simp] theorem State.setQueue_sched (s : State) (k : Nat) (v : HostQueue) : (s.setQueue k v).sched = s.sched := rfl
@[simp] theorem State.setQueue_moves (s : State) (k : Nat) (v : HostQueue) : (s.setQueue k v).moves = s.moves := rfl
@[simp] theorem State.setQueue_overhead (s : State) (k : Nat) (v : HostQueue) : (s.setQueue k v).overhead = s.overhead := rfl
@[simp] theorem State.setQueue_power (s : State) (k : Nat) (v : HostQueue) : (s.setQueue k v).power = s.power := rfl
@[simp] theorem State.setQueue_laroon (s : State) (k : Nat) (v : HostQueue) : (s.setQueue k v).laroon = s.laroon := rfl
@[simp] theorem State.setQueue_links (s : State) (k : Nat) (v : HostQueue) : (s.setQueue k v).links = s.links := rfl
@[simp] theorem State.setQueue_ports (s : State) (k : Nat) (v : HostQueue) : (s.setQueue k v).ports = s.ports := rfl
@[simp] theorem State.setQueue_peers (s : State) (k : Nat) (v : HostQueue) : (s.setQueue k v).peers = s.peers := rfl
@[simp] theorem State.setQueue_sent (s : State) (k : Nat) (v : HostQueue) : (s.setQueue k v).sent = s.sent := rfl
@[simp] theorem State.setQueue_msix (s : State) (k : Nat) (v : HostQueue) : (s.setQueue k v).msix = s.msix := rfl
@[simp] theorem State.setQueue_bankSeq (s : State) (k : Nat) (v : HostQueue) : (s.setQueue k v).bankSeq = s.bankSeq := rfl
@[simp] theorem State.setQueue_rasAt (s : State) (k : Nat) (v : HostQueue) : (s.setQueue k v).rasAt = s.rasAt := rfl
@[simp] theorem State.setQueue_saved (s : State) (k : Nat) (v : HostQueue) : (s.setQueue k v).saved = s.saved := rfl
@[simp] theorem State.setQueue_nextHandle (s : State) (k : Nat) (v : HostQueue) : (s.setQueue k v).nextHandle = s.nextHandle := rfl
@[simp] theorem State.setQueue_powerLost (s : State) (k : Nat) (v : HostQueue) : (s.setQueue k v).powerLost = s.powerLost := rfl
@[simp] theorem State.setQueue_env (s : State) (k : Nat) (v : HostQueue) : (s.setQueue k v).env = s.env := rfl
@[simp] theorem State.setQueue_agenda (s : State) (k : Nat) (v : HostQueue) : (s.setQueue k v).agenda = s.agenda := rfl
@[simp] theorem State.setQueue_input (s : State) (k : Nat) (v : HostQueue) : (s.setQueue k v).input = s.input := rfl
@[simp] theorem State.setQueue_phase (s : State) (k : Nat) (v : HostQueue) : (s.setQueue k v).phase = s.phase := rfl
@[simp] theorem State.setQueue_focus (s : State) (k : Nat) (v : HostQueue) : (s.setQueue k v).focus = s.focus := rfl
@[simp] theorem State.setQueue_free (s : State) (k : Nat) (v : HostQueue) : (s.setQueue k v).free = s.free := rfl

/-! ### setTen -/

@[simp] theorem State.setTen_cycle (s : State) (k : Nat) (v : Tenant) : (s.setTen k v).cycle = s.cycle := rfl
@[simp] theorem State.setTen_ticks (s : State) (k : Nat) (v : Tenant) : (s.setTen k v).ticks = s.ticks := rfl
@[simp] theorem State.setTen_boot (s : State) (k : Nat) (v : Tenant) : (s.setTen k v).boot = s.boot := rfl
@[simp] theorem State.setTen_bootStopped (s : State) (k : Nat) (v : Tenant) : (s.setTen k v).bootStopped = s.bootStopped := rfl
@[simp] theorem State.setTen_status (s : State) (k : Nat) (v : Tenant) : (s.setTen k v).status = s.status := rfl
@[simp] theorem State.setTen_strands (s : State) (k : Nat) (v : Tenant) : (s.setTen k v).strands = s.strands := rfl
@[simp] theorem State.setTen_ctxs (s : State) (k : Nat) (v : Tenant) : (s.setTen k v).ctxs = s.ctxs := rfl
@[simp] theorem State.setTen_jobs (s : State) (k : Nat) (v : Tenant) : (s.setTen k v).jobs = s.jobs := rfl
@[simp] theorem State.setTen_tiles (s : State) (k : Nat) (v : Tenant) : (s.setTen k v).tiles = s.tiles := rfl
@[simp] theorem State.setTen_published (s : State) (k : Nat) (v : Tenant) : (s.setTen k v).published = s.published := rfl
@[simp] theorem State.setTen_rim (s : State) (k : Nat) (v : Tenant) : (s.setTen k v).rim = s.rim := rfl
@[simp] theorem State.setTen_rimfe (s : State) (k : Nat) (v : Tenant) : (s.setTen k v).rimfe = s.rimfe := rfl
@[simp] theorem State.setTen_hostMem (s : State) (k : Nat) (v : Tenant) : (s.setTen k v).hostMem = s.hostMem := rfl
@[simp] theorem State.setTen_peerMem (s : State) (k : Nat) (v : Tenant) : (s.setTen k v).peerMem = s.peerMem := rfl
@[simp] theorem State.setTen_waiters (s : State) (k : Nat) (v : Tenant) : (s.setTen k v).waiters = s.waiters := rfl
@[simp] theorem State.setTen_unfenced (s : State) (k : Nat) (v : Tenant) : (s.setTen k v).unfenced = s.unfenced := rfl
@[simp] theorem State.setTen_released (s : State) (k : Nat) (v : Tenant) : (s.setTen k v).released = s.released := rfl
@[simp] theorem State.setTen_range (s : State) (k : Nat) (v : Tenant) : (s.setTen k v).range = s.range := rfl
@[simp] theorem State.setTen_stackTab (s : State) (k : Nat) (v : Tenant) : (s.setTen k v).stackTab = s.stackTab := rfl
@[simp] theorem State.setTen_hq (s : State) (k : Nat) (v : Tenant) : (s.setTen k v).hq = s.hq := rfl
@[simp] theorem State.setTen_cpTlb (s : State) (k : Nat) (v : Tenant) : (s.setTen k v).cpTlb = s.cpTlb := rfl
@[simp] theorem State.setTen_fault (s : State) (k : Nat) (v : Tenant) : (s.setTen k v).fault = s.fault := rfl
@[simp] theorem State.setTen_sched (s : State) (k : Nat) (v : Tenant) : (s.setTen k v).sched = s.sched := rfl
@[simp] theorem State.setTen_moves (s : State) (k : Nat) (v : Tenant) : (s.setTen k v).moves = s.moves := rfl
@[simp] theorem State.setTen_overhead (s : State) (k : Nat) (v : Tenant) : (s.setTen k v).overhead = s.overhead := rfl
@[simp] theorem State.setTen_power (s : State) (k : Nat) (v : Tenant) : (s.setTen k v).power = s.power := rfl
@[simp] theorem State.setTen_laroon (s : State) (k : Nat) (v : Tenant) : (s.setTen k v).laroon = s.laroon := rfl
@[simp] theorem State.setTen_links (s : State) (k : Nat) (v : Tenant) : (s.setTen k v).links = s.links := rfl
@[simp] theorem State.setTen_ports (s : State) (k : Nat) (v : Tenant) : (s.setTen k v).ports = s.ports := rfl
@[simp] theorem State.setTen_peers (s : State) (k : Nat) (v : Tenant) : (s.setTen k v).peers = s.peers := rfl
@[simp] theorem State.setTen_sent (s : State) (k : Nat) (v : Tenant) : (s.setTen k v).sent = s.sent := rfl
@[simp] theorem State.setTen_msix (s : State) (k : Nat) (v : Tenant) : (s.setTen k v).msix = s.msix := rfl
@[simp] theorem State.setTen_bankSeq (s : State) (k : Nat) (v : Tenant) : (s.setTen k v).bankSeq = s.bankSeq := rfl
@[simp] theorem State.setTen_rasAt (s : State) (k : Nat) (v : Tenant) : (s.setTen k v).rasAt = s.rasAt := rfl
@[simp] theorem State.setTen_saved (s : State) (k : Nat) (v : Tenant) : (s.setTen k v).saved = s.saved := rfl
@[simp] theorem State.setTen_nextHandle (s : State) (k : Nat) (v : Tenant) : (s.setTen k v).nextHandle = s.nextHandle := rfl
@[simp] theorem State.setTen_powerLost (s : State) (k : Nat) (v : Tenant) : (s.setTen k v).powerLost = s.powerLost := rfl
@[simp] theorem State.setTen_env (s : State) (k : Nat) (v : Tenant) : (s.setTen k v).env = s.env := rfl
@[simp] theorem State.setTen_agenda (s : State) (k : Nat) (v : Tenant) : (s.setTen k v).agenda = s.agenda := rfl
@[simp] theorem State.setTen_input (s : State) (k : Nat) (v : Tenant) : (s.setTen k v).input = s.input := rfl
@[simp] theorem State.setTen_phase (s : State) (k : Nat) (v : Tenant) : (s.setTen k v).phase = s.phase := rfl
@[simp] theorem State.setTen_focus (s : State) (k : Nat) (v : Tenant) : (s.setTen k v).focus = s.focus := rfl
@[simp] theorem State.setTen_free (s : State) (k : Nat) (v : Tenant) : (s.setTen k v).free = s.free := rfl

/-! ### setRing -/

@[simp] theorem State.setRing_cycle (s : State) (k : Nat) (v : FaultRing) : (s.setRing k v).cycle = s.cycle := rfl
@[simp] theorem State.setRing_ticks (s : State) (k : Nat) (v : FaultRing) : (s.setRing k v).ticks = s.ticks := rfl
@[simp] theorem State.setRing_boot (s : State) (k : Nat) (v : FaultRing) : (s.setRing k v).boot = s.boot := rfl
@[simp] theorem State.setRing_bootStopped (s : State) (k : Nat) (v : FaultRing) : (s.setRing k v).bootStopped = s.bootStopped := rfl
@[simp] theorem State.setRing_status (s : State) (k : Nat) (v : FaultRing) : (s.setRing k v).status = s.status := rfl
@[simp] theorem State.setRing_strands (s : State) (k : Nat) (v : FaultRing) : (s.setRing k v).strands = s.strands := rfl
@[simp] theorem State.setRing_ctxs (s : State) (k : Nat) (v : FaultRing) : (s.setRing k v).ctxs = s.ctxs := rfl
@[simp] theorem State.setRing_jobs (s : State) (k : Nat) (v : FaultRing) : (s.setRing k v).jobs = s.jobs := rfl
@[simp] theorem State.setRing_tiles (s : State) (k : Nat) (v : FaultRing) : (s.setRing k v).tiles = s.tiles := rfl
@[simp] theorem State.setRing_published (s : State) (k : Nat) (v : FaultRing) : (s.setRing k v).published = s.published := rfl
@[simp] theorem State.setRing_rim (s : State) (k : Nat) (v : FaultRing) : (s.setRing k v).rim = s.rim := rfl
@[simp] theorem State.setRing_rimfe (s : State) (k : Nat) (v : FaultRing) : (s.setRing k v).rimfe = s.rimfe := rfl
@[simp] theorem State.setRing_hostMem (s : State) (k : Nat) (v : FaultRing) : (s.setRing k v).hostMem = s.hostMem := rfl
@[simp] theorem State.setRing_peerMem (s : State) (k : Nat) (v : FaultRing) : (s.setRing k v).peerMem = s.peerMem := rfl
@[simp] theorem State.setRing_waiters (s : State) (k : Nat) (v : FaultRing) : (s.setRing k v).waiters = s.waiters := rfl
@[simp] theorem State.setRing_unfenced (s : State) (k : Nat) (v : FaultRing) : (s.setRing k v).unfenced = s.unfenced := rfl
@[simp] theorem State.setRing_released (s : State) (k : Nat) (v : FaultRing) : (s.setRing k v).released = s.released := rfl
@[simp] theorem State.setRing_range (s : State) (k : Nat) (v : FaultRing) : (s.setRing k v).range = s.range := rfl
@[simp] theorem State.setRing_stackTab (s : State) (k : Nat) (v : FaultRing) : (s.setRing k v).stackTab = s.stackTab := rfl
@[simp] theorem State.setRing_hq (s : State) (k : Nat) (v : FaultRing) : (s.setRing k v).hq = s.hq := rfl
@[simp] theorem State.setRing_tenants (s : State) (k : Nat) (v : FaultRing) : (s.setRing k v).tenants = s.tenants := rfl
@[simp] theorem State.setRing_cpTlb (s : State) (k : Nat) (v : FaultRing) : (s.setRing k v).cpTlb = s.cpTlb := rfl
@[simp] theorem State.setRing_sched (s : State) (k : Nat) (v : FaultRing) : (s.setRing k v).sched = s.sched := rfl
@[simp] theorem State.setRing_moves (s : State) (k : Nat) (v : FaultRing) : (s.setRing k v).moves = s.moves := rfl
@[simp] theorem State.setRing_overhead (s : State) (k : Nat) (v : FaultRing) : (s.setRing k v).overhead = s.overhead := rfl
@[simp] theorem State.setRing_power (s : State) (k : Nat) (v : FaultRing) : (s.setRing k v).power = s.power := rfl
@[simp] theorem State.setRing_laroon (s : State) (k : Nat) (v : FaultRing) : (s.setRing k v).laroon = s.laroon := rfl
@[simp] theorem State.setRing_links (s : State) (k : Nat) (v : FaultRing) : (s.setRing k v).links = s.links := rfl
@[simp] theorem State.setRing_ports (s : State) (k : Nat) (v : FaultRing) : (s.setRing k v).ports = s.ports := rfl
@[simp] theorem State.setRing_peers (s : State) (k : Nat) (v : FaultRing) : (s.setRing k v).peers = s.peers := rfl
@[simp] theorem State.setRing_sent (s : State) (k : Nat) (v : FaultRing) : (s.setRing k v).sent = s.sent := rfl
@[simp] theorem State.setRing_msix (s : State) (k : Nat) (v : FaultRing) : (s.setRing k v).msix = s.msix := rfl
@[simp] theorem State.setRing_bankSeq (s : State) (k : Nat) (v : FaultRing) : (s.setRing k v).bankSeq = s.bankSeq := rfl
@[simp] theorem State.setRing_rasAt (s : State) (k : Nat) (v : FaultRing) : (s.setRing k v).rasAt = s.rasAt := rfl
@[simp] theorem State.setRing_saved (s : State) (k : Nat) (v : FaultRing) : (s.setRing k v).saved = s.saved := rfl
@[simp] theorem State.setRing_nextHandle (s : State) (k : Nat) (v : FaultRing) : (s.setRing k v).nextHandle = s.nextHandle := rfl
@[simp] theorem State.setRing_powerLost (s : State) (k : Nat) (v : FaultRing) : (s.setRing k v).powerLost = s.powerLost := rfl
@[simp] theorem State.setRing_env (s : State) (k : Nat) (v : FaultRing) : (s.setRing k v).env = s.env := rfl
@[simp] theorem State.setRing_agenda (s : State) (k : Nat) (v : FaultRing) : (s.setRing k v).agenda = s.agenda := rfl
@[simp] theorem State.setRing_input (s : State) (k : Nat) (v : FaultRing) : (s.setRing k v).input = s.input := rfl
@[simp] theorem State.setRing_phase (s : State) (k : Nat) (v : FaultRing) : (s.setRing k v).phase = s.phase := rfl
@[simp] theorem State.setRing_focus (s : State) (k : Nat) (v : FaultRing) : (s.setRing k v).focus = s.focus := rfl
@[simp] theorem State.setRing_free (s : State) (k : Nat) (v : FaultRing) : (s.setRing k v).free = s.free := rfl

/-! ### modPeer -/

@[simp] theorem State.modPeer_cycle (s : State) (k : Nat) (f : Peer → Peer) : (s.modPeer k f).cycle = s.cycle := rfl
@[simp] theorem State.modPeer_ticks (s : State) (k : Nat) (f : Peer → Peer) : (s.modPeer k f).ticks = s.ticks := rfl
@[simp] theorem State.modPeer_boot (s : State) (k : Nat) (f : Peer → Peer) : (s.modPeer k f).boot = s.boot := rfl
@[simp] theorem State.modPeer_bootStopped (s : State) (k : Nat) (f : Peer → Peer) : (s.modPeer k f).bootStopped = s.bootStopped := rfl
@[simp] theorem State.modPeer_status (s : State) (k : Nat) (f : Peer → Peer) : (s.modPeer k f).status = s.status := rfl
@[simp] theorem State.modPeer_strands (s : State) (k : Nat) (f : Peer → Peer) : (s.modPeer k f).strands = s.strands := rfl
@[simp] theorem State.modPeer_ctxs (s : State) (k : Nat) (f : Peer → Peer) : (s.modPeer k f).ctxs = s.ctxs := rfl
@[simp] theorem State.modPeer_jobs (s : State) (k : Nat) (f : Peer → Peer) : (s.modPeer k f).jobs = s.jobs := rfl
@[simp] theorem State.modPeer_tiles (s : State) (k : Nat) (f : Peer → Peer) : (s.modPeer k f).tiles = s.tiles := rfl
@[simp] theorem State.modPeer_published (s : State) (k : Nat) (f : Peer → Peer) : (s.modPeer k f).published = s.published := rfl
@[simp] theorem State.modPeer_rim (s : State) (k : Nat) (f : Peer → Peer) : (s.modPeer k f).rim = s.rim := rfl
@[simp] theorem State.modPeer_rimfe (s : State) (k : Nat) (f : Peer → Peer) : (s.modPeer k f).rimfe = s.rimfe := rfl
@[simp] theorem State.modPeer_hostMem (s : State) (k : Nat) (f : Peer → Peer) : (s.modPeer k f).hostMem = s.hostMem := rfl
@[simp] theorem State.modPeer_peerMem (s : State) (k : Nat) (f : Peer → Peer) : (s.modPeer k f).peerMem = s.peerMem := rfl
@[simp] theorem State.modPeer_waiters (s : State) (k : Nat) (f : Peer → Peer) : (s.modPeer k f).waiters = s.waiters := rfl
@[simp] theorem State.modPeer_unfenced (s : State) (k : Nat) (f : Peer → Peer) : (s.modPeer k f).unfenced = s.unfenced := rfl
@[simp] theorem State.modPeer_released (s : State) (k : Nat) (f : Peer → Peer) : (s.modPeer k f).released = s.released := rfl
@[simp] theorem State.modPeer_range (s : State) (k : Nat) (f : Peer → Peer) : (s.modPeer k f).range = s.range := rfl
@[simp] theorem State.modPeer_stackTab (s : State) (k : Nat) (f : Peer → Peer) : (s.modPeer k f).stackTab = s.stackTab := rfl
@[simp] theorem State.modPeer_hq (s : State) (k : Nat) (f : Peer → Peer) : (s.modPeer k f).hq = s.hq := rfl
@[simp] theorem State.modPeer_tenants (s : State) (k : Nat) (f : Peer → Peer) : (s.modPeer k f).tenants = s.tenants := rfl
@[simp] theorem State.modPeer_cpTlb (s : State) (k : Nat) (f : Peer → Peer) : (s.modPeer k f).cpTlb = s.cpTlb := rfl
@[simp] theorem State.modPeer_fault (s : State) (k : Nat) (f : Peer → Peer) : (s.modPeer k f).fault = s.fault := rfl
@[simp] theorem State.modPeer_sched (s : State) (k : Nat) (f : Peer → Peer) : (s.modPeer k f).sched = s.sched := rfl
@[simp] theorem State.modPeer_moves (s : State) (k : Nat) (f : Peer → Peer) : (s.modPeer k f).moves = s.moves := rfl
@[simp] theorem State.modPeer_overhead (s : State) (k : Nat) (f : Peer → Peer) : (s.modPeer k f).overhead = s.overhead := rfl
@[simp] theorem State.modPeer_power (s : State) (k : Nat) (f : Peer → Peer) : (s.modPeer k f).power = s.power := rfl
@[simp] theorem State.modPeer_laroon (s : State) (k : Nat) (f : Peer → Peer) : (s.modPeer k f).laroon = s.laroon := rfl
@[simp] theorem State.modPeer_links (s : State) (k : Nat) (f : Peer → Peer) : (s.modPeer k f).links = s.links := rfl
@[simp] theorem State.modPeer_ports (s : State) (k : Nat) (f : Peer → Peer) : (s.modPeer k f).ports = s.ports := rfl
@[simp] theorem State.modPeer_sent (s : State) (k : Nat) (f : Peer → Peer) : (s.modPeer k f).sent = s.sent := rfl
@[simp] theorem State.modPeer_msix (s : State) (k : Nat) (f : Peer → Peer) : (s.modPeer k f).msix = s.msix := rfl
@[simp] theorem State.modPeer_bankSeq (s : State) (k : Nat) (f : Peer → Peer) : (s.modPeer k f).bankSeq = s.bankSeq := rfl
@[simp] theorem State.modPeer_rasAt (s : State) (k : Nat) (f : Peer → Peer) : (s.modPeer k f).rasAt = s.rasAt := rfl
@[simp] theorem State.modPeer_saved (s : State) (k : Nat) (f : Peer → Peer) : (s.modPeer k f).saved = s.saved := rfl
@[simp] theorem State.modPeer_nextHandle (s : State) (k : Nat) (f : Peer → Peer) : (s.modPeer k f).nextHandle = s.nextHandle := rfl
@[simp] theorem State.modPeer_powerLost (s : State) (k : Nat) (f : Peer → Peer) : (s.modPeer k f).powerLost = s.powerLost := rfl
@[simp] theorem State.modPeer_env (s : State) (k : Nat) (f : Peer → Peer) : (s.modPeer k f).env = s.env := rfl
@[simp] theorem State.modPeer_agenda (s : State) (k : Nat) (f : Peer → Peer) : (s.modPeer k f).agenda = s.agenda := rfl
@[simp] theorem State.modPeer_input (s : State) (k : Nat) (f : Peer → Peer) : (s.modPeer k f).input = s.input := rfl
@[simp] theorem State.modPeer_phase (s : State) (k : Nat) (f : Peer → Peer) : (s.modPeer k f).phase = s.phase := rfl
@[simp] theorem State.modPeer_focus (s : State) (k : Nat) (f : Peer → Peer) : (s.modPeer k f).focus = s.focus := rfl
@[simp] theorem State.modPeer_free (s : State) (k : Nat) (f : Peer → Peer) : (s.modPeer k f).free = s.free := rfl

/-! ### modLink -/

@[simp] theorem State.modLink_cycle (s : State) (k : Nat) (f : Link → Link) : (s.modLink k f).cycle = s.cycle := rfl
@[simp] theorem State.modLink_ticks (s : State) (k : Nat) (f : Link → Link) : (s.modLink k f).ticks = s.ticks := rfl
@[simp] theorem State.modLink_boot (s : State) (k : Nat) (f : Link → Link) : (s.modLink k f).boot = s.boot := rfl
@[simp] theorem State.modLink_bootStopped (s : State) (k : Nat) (f : Link → Link) : (s.modLink k f).bootStopped = s.bootStopped := rfl
@[simp] theorem State.modLink_status (s : State) (k : Nat) (f : Link → Link) : (s.modLink k f).status = s.status := rfl
@[simp] theorem State.modLink_strands (s : State) (k : Nat) (f : Link → Link) : (s.modLink k f).strands = s.strands := rfl
@[simp] theorem State.modLink_ctxs (s : State) (k : Nat) (f : Link → Link) : (s.modLink k f).ctxs = s.ctxs := rfl
@[simp] theorem State.modLink_jobs (s : State) (k : Nat) (f : Link → Link) : (s.modLink k f).jobs = s.jobs := rfl
@[simp] theorem State.modLink_tiles (s : State) (k : Nat) (f : Link → Link) : (s.modLink k f).tiles = s.tiles := rfl
@[simp] theorem State.modLink_published (s : State) (k : Nat) (f : Link → Link) : (s.modLink k f).published = s.published := rfl
@[simp] theorem State.modLink_rim (s : State) (k : Nat) (f : Link → Link) : (s.modLink k f).rim = s.rim := rfl
@[simp] theorem State.modLink_rimfe (s : State) (k : Nat) (f : Link → Link) : (s.modLink k f).rimfe = s.rimfe := rfl
@[simp] theorem State.modLink_hostMem (s : State) (k : Nat) (f : Link → Link) : (s.modLink k f).hostMem = s.hostMem := rfl
@[simp] theorem State.modLink_peerMem (s : State) (k : Nat) (f : Link → Link) : (s.modLink k f).peerMem = s.peerMem := rfl
@[simp] theorem State.modLink_waiters (s : State) (k : Nat) (f : Link → Link) : (s.modLink k f).waiters = s.waiters := rfl
@[simp] theorem State.modLink_unfenced (s : State) (k : Nat) (f : Link → Link) : (s.modLink k f).unfenced = s.unfenced := rfl
@[simp] theorem State.modLink_released (s : State) (k : Nat) (f : Link → Link) : (s.modLink k f).released = s.released := rfl
@[simp] theorem State.modLink_range (s : State) (k : Nat) (f : Link → Link) : (s.modLink k f).range = s.range := rfl
@[simp] theorem State.modLink_stackTab (s : State) (k : Nat) (f : Link → Link) : (s.modLink k f).stackTab = s.stackTab := rfl
@[simp] theorem State.modLink_hq (s : State) (k : Nat) (f : Link → Link) : (s.modLink k f).hq = s.hq := rfl
@[simp] theorem State.modLink_tenants (s : State) (k : Nat) (f : Link → Link) : (s.modLink k f).tenants = s.tenants := rfl
@[simp] theorem State.modLink_cpTlb (s : State) (k : Nat) (f : Link → Link) : (s.modLink k f).cpTlb = s.cpTlb := rfl
@[simp] theorem State.modLink_fault (s : State) (k : Nat) (f : Link → Link) : (s.modLink k f).fault = s.fault := rfl
@[simp] theorem State.modLink_sched (s : State) (k : Nat) (f : Link → Link) : (s.modLink k f).sched = s.sched := rfl
@[simp] theorem State.modLink_moves (s : State) (k : Nat) (f : Link → Link) : (s.modLink k f).moves = s.moves := rfl
@[simp] theorem State.modLink_overhead (s : State) (k : Nat) (f : Link → Link) : (s.modLink k f).overhead = s.overhead := rfl
@[simp] theorem State.modLink_power (s : State) (k : Nat) (f : Link → Link) : (s.modLink k f).power = s.power := rfl
@[simp] theorem State.modLink_laroon (s : State) (k : Nat) (f : Link → Link) : (s.modLink k f).laroon = s.laroon := rfl
@[simp] theorem State.modLink_ports (s : State) (k : Nat) (f : Link → Link) : (s.modLink k f).ports = s.ports := rfl
@[simp] theorem State.modLink_peers (s : State) (k : Nat) (f : Link → Link) : (s.modLink k f).peers = s.peers := rfl
@[simp] theorem State.modLink_sent (s : State) (k : Nat) (f : Link → Link) : (s.modLink k f).sent = s.sent := rfl
@[simp] theorem State.modLink_msix (s : State) (k : Nat) (f : Link → Link) : (s.modLink k f).msix = s.msix := rfl
@[simp] theorem State.modLink_bankSeq (s : State) (k : Nat) (f : Link → Link) : (s.modLink k f).bankSeq = s.bankSeq := rfl
@[simp] theorem State.modLink_rasAt (s : State) (k : Nat) (f : Link → Link) : (s.modLink k f).rasAt = s.rasAt := rfl
@[simp] theorem State.modLink_saved (s : State) (k : Nat) (f : Link → Link) : (s.modLink k f).saved = s.saved := rfl
@[simp] theorem State.modLink_nextHandle (s : State) (k : Nat) (f : Link → Link) : (s.modLink k f).nextHandle = s.nextHandle := rfl
@[simp] theorem State.modLink_powerLost (s : State) (k : Nat) (f : Link → Link) : (s.modLink k f).powerLost = s.powerLost := rfl
@[simp] theorem State.modLink_env (s : State) (k : Nat) (f : Link → Link) : (s.modLink k f).env = s.env := rfl
@[simp] theorem State.modLink_agenda (s : State) (k : Nat) (f : Link → Link) : (s.modLink k f).agenda = s.agenda := rfl
@[simp] theorem State.modLink_input (s : State) (k : Nat) (f : Link → Link) : (s.modLink k f).input = s.input := rfl
@[simp] theorem State.modLink_phase (s : State) (k : Nat) (f : Link → Link) : (s.modLink k f).phase = s.phase := rfl
@[simp] theorem State.modLink_focus (s : State) (k : Nat) (f : Link → Link) : (s.modLink k f).focus = s.focus := rfl
@[simp] theorem State.modLink_free (s : State) (k : Nat) (f : Link → Link) : (s.modLink k f).free = s.free := rfl

/-! ### modStrand -/

@[simp] theorem State.modStrand_cycle (s : State) (k : Nat) (f : Strand → Strand) : (s.modStrand k f).cycle = s.cycle := rfl
@[simp] theorem State.modStrand_ticks (s : State) (k : Nat) (f : Strand → Strand) : (s.modStrand k f).ticks = s.ticks := rfl
@[simp] theorem State.modStrand_boot (s : State) (k : Nat) (f : Strand → Strand) : (s.modStrand k f).boot = s.boot := rfl
@[simp] theorem State.modStrand_bootStopped (s : State) (k : Nat) (f : Strand → Strand) : (s.modStrand k f).bootStopped = s.bootStopped := rfl
@[simp] theorem State.modStrand_status (s : State) (k : Nat) (f : Strand → Strand) : (s.modStrand k f).status = s.status := rfl
@[simp] theorem State.modStrand_ctxs (s : State) (k : Nat) (f : Strand → Strand) : (s.modStrand k f).ctxs = s.ctxs := rfl
@[simp] theorem State.modStrand_jobs (s : State) (k : Nat) (f : Strand → Strand) : (s.modStrand k f).jobs = s.jobs := rfl
@[simp] theorem State.modStrand_tiles (s : State) (k : Nat) (f : Strand → Strand) : (s.modStrand k f).tiles = s.tiles := rfl
@[simp] theorem State.modStrand_published (s : State) (k : Nat) (f : Strand → Strand) : (s.modStrand k f).published = s.published := rfl
@[simp] theorem State.modStrand_rim (s : State) (k : Nat) (f : Strand → Strand) : (s.modStrand k f).rim = s.rim := rfl
@[simp] theorem State.modStrand_rimfe (s : State) (k : Nat) (f : Strand → Strand) : (s.modStrand k f).rimfe = s.rimfe := rfl
@[simp] theorem State.modStrand_hostMem (s : State) (k : Nat) (f : Strand → Strand) : (s.modStrand k f).hostMem = s.hostMem := rfl
@[simp] theorem State.modStrand_peerMem (s : State) (k : Nat) (f : Strand → Strand) : (s.modStrand k f).peerMem = s.peerMem := rfl
@[simp] theorem State.modStrand_waiters (s : State) (k : Nat) (f : Strand → Strand) : (s.modStrand k f).waiters = s.waiters := rfl
@[simp] theorem State.modStrand_unfenced (s : State) (k : Nat) (f : Strand → Strand) : (s.modStrand k f).unfenced = s.unfenced := rfl
@[simp] theorem State.modStrand_released (s : State) (k : Nat) (f : Strand → Strand) : (s.modStrand k f).released = s.released := rfl
@[simp] theorem State.modStrand_range (s : State) (k : Nat) (f : Strand → Strand) : (s.modStrand k f).range = s.range := rfl
@[simp] theorem State.modStrand_stackTab (s : State) (k : Nat) (f : Strand → Strand) : (s.modStrand k f).stackTab = s.stackTab := rfl
@[simp] theorem State.modStrand_hq (s : State) (k : Nat) (f : Strand → Strand) : (s.modStrand k f).hq = s.hq := rfl
@[simp] theorem State.modStrand_tenants (s : State) (k : Nat) (f : Strand → Strand) : (s.modStrand k f).tenants = s.tenants := rfl
@[simp] theorem State.modStrand_cpTlb (s : State) (k : Nat) (f : Strand → Strand) : (s.modStrand k f).cpTlb = s.cpTlb := rfl
@[simp] theorem State.modStrand_fault (s : State) (k : Nat) (f : Strand → Strand) : (s.modStrand k f).fault = s.fault := rfl
@[simp] theorem State.modStrand_sched (s : State) (k : Nat) (f : Strand → Strand) : (s.modStrand k f).sched = s.sched := rfl
@[simp] theorem State.modStrand_moves (s : State) (k : Nat) (f : Strand → Strand) : (s.modStrand k f).moves = s.moves := rfl
@[simp] theorem State.modStrand_overhead (s : State) (k : Nat) (f : Strand → Strand) : (s.modStrand k f).overhead = s.overhead := rfl
@[simp] theorem State.modStrand_power (s : State) (k : Nat) (f : Strand → Strand) : (s.modStrand k f).power = s.power := rfl
@[simp] theorem State.modStrand_laroon (s : State) (k : Nat) (f : Strand → Strand) : (s.modStrand k f).laroon = s.laroon := rfl
@[simp] theorem State.modStrand_links (s : State) (k : Nat) (f : Strand → Strand) : (s.modStrand k f).links = s.links := rfl
@[simp] theorem State.modStrand_ports (s : State) (k : Nat) (f : Strand → Strand) : (s.modStrand k f).ports = s.ports := rfl
@[simp] theorem State.modStrand_peers (s : State) (k : Nat) (f : Strand → Strand) : (s.modStrand k f).peers = s.peers := rfl
@[simp] theorem State.modStrand_sent (s : State) (k : Nat) (f : Strand → Strand) : (s.modStrand k f).sent = s.sent := rfl
@[simp] theorem State.modStrand_msix (s : State) (k : Nat) (f : Strand → Strand) : (s.modStrand k f).msix = s.msix := rfl
@[simp] theorem State.modStrand_bankSeq (s : State) (k : Nat) (f : Strand → Strand) : (s.modStrand k f).bankSeq = s.bankSeq := rfl
@[simp] theorem State.modStrand_rasAt (s : State) (k : Nat) (f : Strand → Strand) : (s.modStrand k f).rasAt = s.rasAt := rfl
@[simp] theorem State.modStrand_saved (s : State) (k : Nat) (f : Strand → Strand) : (s.modStrand k f).saved = s.saved := rfl
@[simp] theorem State.modStrand_nextHandle (s : State) (k : Nat) (f : Strand → Strand) : (s.modStrand k f).nextHandle = s.nextHandle := rfl
@[simp] theorem State.modStrand_powerLost (s : State) (k : Nat) (f : Strand → Strand) : (s.modStrand k f).powerLost = s.powerLost := rfl
@[simp] theorem State.modStrand_env (s : State) (k : Nat) (f : Strand → Strand) : (s.modStrand k f).env = s.env := rfl
@[simp] theorem State.modStrand_agenda (s : State) (k : Nat) (f : Strand → Strand) : (s.modStrand k f).agenda = s.agenda := rfl
@[simp] theorem State.modStrand_input (s : State) (k : Nat) (f : Strand → Strand) : (s.modStrand k f).input = s.input := rfl
@[simp] theorem State.modStrand_phase (s : State) (k : Nat) (f : Strand → Strand) : (s.modStrand k f).phase = s.phase := rfl
@[simp] theorem State.modStrand_focus (s : State) (k : Nat) (f : Strand → Strand) : (s.modStrand k f).focus = s.focus := rfl
@[simp] theorem State.modStrand_free (s : State) (k : Nat) (f : Strand → Strand) : (s.modStrand k f).free = s.free := rfl

/-! ### modCtx -/

@[simp] theorem State.modCtx_cycle (s : State) (k : Nat) (f : Ctx → Ctx) : (s.modCtx k f).cycle = s.cycle := rfl
@[simp] theorem State.modCtx_ticks (s : State) (k : Nat) (f : Ctx → Ctx) : (s.modCtx k f).ticks = s.ticks := rfl
@[simp] theorem State.modCtx_boot (s : State) (k : Nat) (f : Ctx → Ctx) : (s.modCtx k f).boot = s.boot := rfl
@[simp] theorem State.modCtx_bootStopped (s : State) (k : Nat) (f : Ctx → Ctx) : (s.modCtx k f).bootStopped = s.bootStopped := rfl
@[simp] theorem State.modCtx_status (s : State) (k : Nat) (f : Ctx → Ctx) : (s.modCtx k f).status = s.status := rfl
@[simp] theorem State.modCtx_strands (s : State) (k : Nat) (f : Ctx → Ctx) : (s.modCtx k f).strands = s.strands := rfl
@[simp] theorem State.modCtx_jobs (s : State) (k : Nat) (f : Ctx → Ctx) : (s.modCtx k f).jobs = s.jobs := rfl
@[simp] theorem State.modCtx_tiles (s : State) (k : Nat) (f : Ctx → Ctx) : (s.modCtx k f).tiles = s.tiles := rfl
@[simp] theorem State.modCtx_published (s : State) (k : Nat) (f : Ctx → Ctx) : (s.modCtx k f).published = s.published := rfl
@[simp] theorem State.modCtx_rim (s : State) (k : Nat) (f : Ctx → Ctx) : (s.modCtx k f).rim = s.rim := rfl
@[simp] theorem State.modCtx_rimfe (s : State) (k : Nat) (f : Ctx → Ctx) : (s.modCtx k f).rimfe = s.rimfe := rfl
@[simp] theorem State.modCtx_hostMem (s : State) (k : Nat) (f : Ctx → Ctx) : (s.modCtx k f).hostMem = s.hostMem := rfl
@[simp] theorem State.modCtx_peerMem (s : State) (k : Nat) (f : Ctx → Ctx) : (s.modCtx k f).peerMem = s.peerMem := rfl
@[simp] theorem State.modCtx_waiters (s : State) (k : Nat) (f : Ctx → Ctx) : (s.modCtx k f).waiters = s.waiters := rfl
@[simp] theorem State.modCtx_unfenced (s : State) (k : Nat) (f : Ctx → Ctx) : (s.modCtx k f).unfenced = s.unfenced := rfl
@[simp] theorem State.modCtx_released (s : State) (k : Nat) (f : Ctx → Ctx) : (s.modCtx k f).released = s.released := rfl
@[simp] theorem State.modCtx_range (s : State) (k : Nat) (f : Ctx → Ctx) : (s.modCtx k f).range = s.range := rfl
@[simp] theorem State.modCtx_stackTab (s : State) (k : Nat) (f : Ctx → Ctx) : (s.modCtx k f).stackTab = s.stackTab := rfl
@[simp] theorem State.modCtx_hq (s : State) (k : Nat) (f : Ctx → Ctx) : (s.modCtx k f).hq = s.hq := rfl
@[simp] theorem State.modCtx_tenants (s : State) (k : Nat) (f : Ctx → Ctx) : (s.modCtx k f).tenants = s.tenants := rfl
@[simp] theorem State.modCtx_cpTlb (s : State) (k : Nat) (f : Ctx → Ctx) : (s.modCtx k f).cpTlb = s.cpTlb := rfl
@[simp] theorem State.modCtx_fault (s : State) (k : Nat) (f : Ctx → Ctx) : (s.modCtx k f).fault = s.fault := rfl
@[simp] theorem State.modCtx_sched (s : State) (k : Nat) (f : Ctx → Ctx) : (s.modCtx k f).sched = s.sched := rfl
@[simp] theorem State.modCtx_moves (s : State) (k : Nat) (f : Ctx → Ctx) : (s.modCtx k f).moves = s.moves := rfl
@[simp] theorem State.modCtx_overhead (s : State) (k : Nat) (f : Ctx → Ctx) : (s.modCtx k f).overhead = s.overhead := rfl
@[simp] theorem State.modCtx_power (s : State) (k : Nat) (f : Ctx → Ctx) : (s.modCtx k f).power = s.power := rfl
@[simp] theorem State.modCtx_laroon (s : State) (k : Nat) (f : Ctx → Ctx) : (s.modCtx k f).laroon = s.laroon := rfl
@[simp] theorem State.modCtx_links (s : State) (k : Nat) (f : Ctx → Ctx) : (s.modCtx k f).links = s.links := rfl
@[simp] theorem State.modCtx_ports (s : State) (k : Nat) (f : Ctx → Ctx) : (s.modCtx k f).ports = s.ports := rfl
@[simp] theorem State.modCtx_peers (s : State) (k : Nat) (f : Ctx → Ctx) : (s.modCtx k f).peers = s.peers := rfl
@[simp] theorem State.modCtx_sent (s : State) (k : Nat) (f : Ctx → Ctx) : (s.modCtx k f).sent = s.sent := rfl
@[simp] theorem State.modCtx_msix (s : State) (k : Nat) (f : Ctx → Ctx) : (s.modCtx k f).msix = s.msix := rfl
@[simp] theorem State.modCtx_bankSeq (s : State) (k : Nat) (f : Ctx → Ctx) : (s.modCtx k f).bankSeq = s.bankSeq := rfl
@[simp] theorem State.modCtx_rasAt (s : State) (k : Nat) (f : Ctx → Ctx) : (s.modCtx k f).rasAt = s.rasAt := rfl
@[simp] theorem State.modCtx_saved (s : State) (k : Nat) (f : Ctx → Ctx) : (s.modCtx k f).saved = s.saved := rfl
@[simp] theorem State.modCtx_nextHandle (s : State) (k : Nat) (f : Ctx → Ctx) : (s.modCtx k f).nextHandle = s.nextHandle := rfl
@[simp] theorem State.modCtx_powerLost (s : State) (k : Nat) (f : Ctx → Ctx) : (s.modCtx k f).powerLost = s.powerLost := rfl
@[simp] theorem State.modCtx_env (s : State) (k : Nat) (f : Ctx → Ctx) : (s.modCtx k f).env = s.env := rfl
@[simp] theorem State.modCtx_agenda (s : State) (k : Nat) (f : Ctx → Ctx) : (s.modCtx k f).agenda = s.agenda := rfl
@[simp] theorem State.modCtx_input (s : State) (k : Nat) (f : Ctx → Ctx) : (s.modCtx k f).input = s.input := rfl
@[simp] theorem State.modCtx_phase (s : State) (k : Nat) (f : Ctx → Ctx) : (s.modCtx k f).phase = s.phase := rfl
@[simp] theorem State.modCtx_focus (s : State) (k : Nat) (f : Ctx → Ctx) : (s.modCtx k f).focus = s.focus := rfl
@[simp] theorem State.modCtx_free (s : State) (k : Nat) (f : Ctx → Ctx) : (s.modCtx k f).free = s.free := rfl

/-! ### modJob -/

@[simp] theorem State.modJob_cycle (s : State) (k : Nat) (f : Job → Job) : (s.modJob k f).cycle = s.cycle := rfl
@[simp] theorem State.modJob_ticks (s : State) (k : Nat) (f : Job → Job) : (s.modJob k f).ticks = s.ticks := rfl
@[simp] theorem State.modJob_boot (s : State) (k : Nat) (f : Job → Job) : (s.modJob k f).boot = s.boot := rfl
@[simp] theorem State.modJob_bootStopped (s : State) (k : Nat) (f : Job → Job) : (s.modJob k f).bootStopped = s.bootStopped := rfl
@[simp] theorem State.modJob_status (s : State) (k : Nat) (f : Job → Job) : (s.modJob k f).status = s.status := rfl
@[simp] theorem State.modJob_strands (s : State) (k : Nat) (f : Job → Job) : (s.modJob k f).strands = s.strands := rfl
@[simp] theorem State.modJob_ctxs (s : State) (k : Nat) (f : Job → Job) : (s.modJob k f).ctxs = s.ctxs := rfl
@[simp] theorem State.modJob_tiles (s : State) (k : Nat) (f : Job → Job) : (s.modJob k f).tiles = s.tiles := rfl
@[simp] theorem State.modJob_published (s : State) (k : Nat) (f : Job → Job) : (s.modJob k f).published = s.published := rfl
@[simp] theorem State.modJob_rim (s : State) (k : Nat) (f : Job → Job) : (s.modJob k f).rim = s.rim := rfl
@[simp] theorem State.modJob_rimfe (s : State) (k : Nat) (f : Job → Job) : (s.modJob k f).rimfe = s.rimfe := rfl
@[simp] theorem State.modJob_hostMem (s : State) (k : Nat) (f : Job → Job) : (s.modJob k f).hostMem = s.hostMem := rfl
@[simp] theorem State.modJob_peerMem (s : State) (k : Nat) (f : Job → Job) : (s.modJob k f).peerMem = s.peerMem := rfl
@[simp] theorem State.modJob_waiters (s : State) (k : Nat) (f : Job → Job) : (s.modJob k f).waiters = s.waiters := rfl
@[simp] theorem State.modJob_unfenced (s : State) (k : Nat) (f : Job → Job) : (s.modJob k f).unfenced = s.unfenced := rfl
@[simp] theorem State.modJob_released (s : State) (k : Nat) (f : Job → Job) : (s.modJob k f).released = s.released := rfl
@[simp] theorem State.modJob_range (s : State) (k : Nat) (f : Job → Job) : (s.modJob k f).range = s.range := rfl
@[simp] theorem State.modJob_stackTab (s : State) (k : Nat) (f : Job → Job) : (s.modJob k f).stackTab = s.stackTab := rfl
@[simp] theorem State.modJob_hq (s : State) (k : Nat) (f : Job → Job) : (s.modJob k f).hq = s.hq := rfl
@[simp] theorem State.modJob_tenants (s : State) (k : Nat) (f : Job → Job) : (s.modJob k f).tenants = s.tenants := rfl
@[simp] theorem State.modJob_cpTlb (s : State) (k : Nat) (f : Job → Job) : (s.modJob k f).cpTlb = s.cpTlb := rfl
@[simp] theorem State.modJob_fault (s : State) (k : Nat) (f : Job → Job) : (s.modJob k f).fault = s.fault := rfl
@[simp] theorem State.modJob_sched (s : State) (k : Nat) (f : Job → Job) : (s.modJob k f).sched = s.sched := rfl
@[simp] theorem State.modJob_moves (s : State) (k : Nat) (f : Job → Job) : (s.modJob k f).moves = s.moves := rfl
@[simp] theorem State.modJob_overhead (s : State) (k : Nat) (f : Job → Job) : (s.modJob k f).overhead = s.overhead := rfl
@[simp] theorem State.modJob_power (s : State) (k : Nat) (f : Job → Job) : (s.modJob k f).power = s.power := rfl
@[simp] theorem State.modJob_laroon (s : State) (k : Nat) (f : Job → Job) : (s.modJob k f).laroon = s.laroon := rfl
@[simp] theorem State.modJob_links (s : State) (k : Nat) (f : Job → Job) : (s.modJob k f).links = s.links := rfl
@[simp] theorem State.modJob_ports (s : State) (k : Nat) (f : Job → Job) : (s.modJob k f).ports = s.ports := rfl
@[simp] theorem State.modJob_peers (s : State) (k : Nat) (f : Job → Job) : (s.modJob k f).peers = s.peers := rfl
@[simp] theorem State.modJob_sent (s : State) (k : Nat) (f : Job → Job) : (s.modJob k f).sent = s.sent := rfl
@[simp] theorem State.modJob_msix (s : State) (k : Nat) (f : Job → Job) : (s.modJob k f).msix = s.msix := rfl
@[simp] theorem State.modJob_bankSeq (s : State) (k : Nat) (f : Job → Job) : (s.modJob k f).bankSeq = s.bankSeq := rfl
@[simp] theorem State.modJob_rasAt (s : State) (k : Nat) (f : Job → Job) : (s.modJob k f).rasAt = s.rasAt := rfl
@[simp] theorem State.modJob_saved (s : State) (k : Nat) (f : Job → Job) : (s.modJob k f).saved = s.saved := rfl
@[simp] theorem State.modJob_nextHandle (s : State) (k : Nat) (f : Job → Job) : (s.modJob k f).nextHandle = s.nextHandle := rfl
@[simp] theorem State.modJob_powerLost (s : State) (k : Nat) (f : Job → Job) : (s.modJob k f).powerLost = s.powerLost := rfl
@[simp] theorem State.modJob_env (s : State) (k : Nat) (f : Job → Job) : (s.modJob k f).env = s.env := rfl
@[simp] theorem State.modJob_agenda (s : State) (k : Nat) (f : Job → Job) : (s.modJob k f).agenda = s.agenda := rfl
@[simp] theorem State.modJob_input (s : State) (k : Nat) (f : Job → Job) : (s.modJob k f).input = s.input := rfl
@[simp] theorem State.modJob_phase (s : State) (k : Nat) (f : Job → Job) : (s.modJob k f).phase = s.phase := rfl
@[simp] theorem State.modJob_focus (s : State) (k : Nat) (f : Job → Job) : (s.modJob k f).focus = s.focus := rfl
@[simp] theorem State.modJob_free (s : State) (k : Nat) (f : Job → Job) : (s.modJob k f).free = s.free := rfl

/-! ### modTile -/

@[simp] theorem State.modTile_cycle (s : State) (k : Nat) (f : Tile → Tile) : (s.modTile k f).cycle = s.cycle := rfl
@[simp] theorem State.modTile_ticks (s : State) (k : Nat) (f : Tile → Tile) : (s.modTile k f).ticks = s.ticks := rfl
@[simp] theorem State.modTile_boot (s : State) (k : Nat) (f : Tile → Tile) : (s.modTile k f).boot = s.boot := rfl
@[simp] theorem State.modTile_bootStopped (s : State) (k : Nat) (f : Tile → Tile) : (s.modTile k f).bootStopped = s.bootStopped := rfl
@[simp] theorem State.modTile_status (s : State) (k : Nat) (f : Tile → Tile) : (s.modTile k f).status = s.status := rfl
@[simp] theorem State.modTile_strands (s : State) (k : Nat) (f : Tile → Tile) : (s.modTile k f).strands = s.strands := rfl
@[simp] theorem State.modTile_ctxs (s : State) (k : Nat) (f : Tile → Tile) : (s.modTile k f).ctxs = s.ctxs := rfl
@[simp] theorem State.modTile_jobs (s : State) (k : Nat) (f : Tile → Tile) : (s.modTile k f).jobs = s.jobs := rfl
@[simp] theorem State.modTile_published (s : State) (k : Nat) (f : Tile → Tile) : (s.modTile k f).published = s.published := rfl
@[simp] theorem State.modTile_rim (s : State) (k : Nat) (f : Tile → Tile) : (s.modTile k f).rim = s.rim := rfl
@[simp] theorem State.modTile_rimfe (s : State) (k : Nat) (f : Tile → Tile) : (s.modTile k f).rimfe = s.rimfe := rfl
@[simp] theorem State.modTile_hostMem (s : State) (k : Nat) (f : Tile → Tile) : (s.modTile k f).hostMem = s.hostMem := rfl
@[simp] theorem State.modTile_peerMem (s : State) (k : Nat) (f : Tile → Tile) : (s.modTile k f).peerMem = s.peerMem := rfl
@[simp] theorem State.modTile_waiters (s : State) (k : Nat) (f : Tile → Tile) : (s.modTile k f).waiters = s.waiters := rfl
@[simp] theorem State.modTile_unfenced (s : State) (k : Nat) (f : Tile → Tile) : (s.modTile k f).unfenced = s.unfenced := rfl
@[simp] theorem State.modTile_released (s : State) (k : Nat) (f : Tile → Tile) : (s.modTile k f).released = s.released := rfl
@[simp] theorem State.modTile_range (s : State) (k : Nat) (f : Tile → Tile) : (s.modTile k f).range = s.range := rfl
@[simp] theorem State.modTile_stackTab (s : State) (k : Nat) (f : Tile → Tile) : (s.modTile k f).stackTab = s.stackTab := rfl
@[simp] theorem State.modTile_hq (s : State) (k : Nat) (f : Tile → Tile) : (s.modTile k f).hq = s.hq := rfl
@[simp] theorem State.modTile_tenants (s : State) (k : Nat) (f : Tile → Tile) : (s.modTile k f).tenants = s.tenants := rfl
@[simp] theorem State.modTile_cpTlb (s : State) (k : Nat) (f : Tile → Tile) : (s.modTile k f).cpTlb = s.cpTlb := rfl
@[simp] theorem State.modTile_fault (s : State) (k : Nat) (f : Tile → Tile) : (s.modTile k f).fault = s.fault := rfl
@[simp] theorem State.modTile_sched (s : State) (k : Nat) (f : Tile → Tile) : (s.modTile k f).sched = s.sched := rfl
@[simp] theorem State.modTile_moves (s : State) (k : Nat) (f : Tile → Tile) : (s.modTile k f).moves = s.moves := rfl
@[simp] theorem State.modTile_overhead (s : State) (k : Nat) (f : Tile → Tile) : (s.modTile k f).overhead = s.overhead := rfl
@[simp] theorem State.modTile_power (s : State) (k : Nat) (f : Tile → Tile) : (s.modTile k f).power = s.power := rfl
@[simp] theorem State.modTile_laroon (s : State) (k : Nat) (f : Tile → Tile) : (s.modTile k f).laroon = s.laroon := rfl
@[simp] theorem State.modTile_links (s : State) (k : Nat) (f : Tile → Tile) : (s.modTile k f).links = s.links := rfl
@[simp] theorem State.modTile_ports (s : State) (k : Nat) (f : Tile → Tile) : (s.modTile k f).ports = s.ports := rfl
@[simp] theorem State.modTile_peers (s : State) (k : Nat) (f : Tile → Tile) : (s.modTile k f).peers = s.peers := rfl
@[simp] theorem State.modTile_sent (s : State) (k : Nat) (f : Tile → Tile) : (s.modTile k f).sent = s.sent := rfl
@[simp] theorem State.modTile_msix (s : State) (k : Nat) (f : Tile → Tile) : (s.modTile k f).msix = s.msix := rfl
@[simp] theorem State.modTile_bankSeq (s : State) (k : Nat) (f : Tile → Tile) : (s.modTile k f).bankSeq = s.bankSeq := rfl
@[simp] theorem State.modTile_rasAt (s : State) (k : Nat) (f : Tile → Tile) : (s.modTile k f).rasAt = s.rasAt := rfl
@[simp] theorem State.modTile_saved (s : State) (k : Nat) (f : Tile → Tile) : (s.modTile k f).saved = s.saved := rfl
@[simp] theorem State.modTile_nextHandle (s : State) (k : Nat) (f : Tile → Tile) : (s.modTile k f).nextHandle = s.nextHandle := rfl
@[simp] theorem State.modTile_powerLost (s : State) (k : Nat) (f : Tile → Tile) : (s.modTile k f).powerLost = s.powerLost := rfl
@[simp] theorem State.modTile_env (s : State) (k : Nat) (f : Tile → Tile) : (s.modTile k f).env = s.env := rfl
@[simp] theorem State.modTile_agenda (s : State) (k : Nat) (f : Tile → Tile) : (s.modTile k f).agenda = s.agenda := rfl
@[simp] theorem State.modTile_input (s : State) (k : Nat) (f : Tile → Tile) : (s.modTile k f).input = s.input := rfl
@[simp] theorem State.modTile_phase (s : State) (k : Nat) (f : Tile → Tile) : (s.modTile k f).phase = s.phase := rfl
@[simp] theorem State.modTile_focus (s : State) (k : Nat) (f : Tile → Tile) : (s.modTile k f).focus = s.focus := rfl
@[simp] theorem State.modTile_free (s : State) (k : Nat) (f : Tile → Tile) : (s.modTile k f).free = s.free := rfl

/-! ### modStack -/

@[simp] theorem State.modStack_cycle (s : State) (k : Nat) (f : Stack → Stack) : (s.modStack k f).cycle = s.cycle := rfl
@[simp] theorem State.modStack_ticks (s : State) (k : Nat) (f : Stack → Stack) : (s.modStack k f).ticks = s.ticks := rfl
@[simp] theorem State.modStack_boot (s : State) (k : Nat) (f : Stack → Stack) : (s.modStack k f).boot = s.boot := rfl
@[simp] theorem State.modStack_bootStopped (s : State) (k : Nat) (f : Stack → Stack) : (s.modStack k f).bootStopped = s.bootStopped := rfl
@[simp] theorem State.modStack_status (s : State) (k : Nat) (f : Stack → Stack) : (s.modStack k f).status = s.status := rfl
@[simp] theorem State.modStack_strands (s : State) (k : Nat) (f : Stack → Stack) : (s.modStack k f).strands = s.strands := rfl
@[simp] theorem State.modStack_ctxs (s : State) (k : Nat) (f : Stack → Stack) : (s.modStack k f).ctxs = s.ctxs := rfl
@[simp] theorem State.modStack_jobs (s : State) (k : Nat) (f : Stack → Stack) : (s.modStack k f).jobs = s.jobs := rfl
@[simp] theorem State.modStack_tiles (s : State) (k : Nat) (f : Stack → Stack) : (s.modStack k f).tiles = s.tiles := rfl
@[simp] theorem State.modStack_published (s : State) (k : Nat) (f : Stack → Stack) : (s.modStack k f).published = s.published := rfl
@[simp] theorem State.modStack_rim (s : State) (k : Nat) (f : Stack → Stack) : (s.modStack k f).rim = s.rim := rfl
@[simp] theorem State.modStack_rimfe (s : State) (k : Nat) (f : Stack → Stack) : (s.modStack k f).rimfe = s.rimfe := rfl
@[simp] theorem State.modStack_hostMem (s : State) (k : Nat) (f : Stack → Stack) : (s.modStack k f).hostMem = s.hostMem := rfl
@[simp] theorem State.modStack_peerMem (s : State) (k : Nat) (f : Stack → Stack) : (s.modStack k f).peerMem = s.peerMem := rfl
@[simp] theorem State.modStack_waiters (s : State) (k : Nat) (f : Stack → Stack) : (s.modStack k f).waiters = s.waiters := rfl
@[simp] theorem State.modStack_unfenced (s : State) (k : Nat) (f : Stack → Stack) : (s.modStack k f).unfenced = s.unfenced := rfl
@[simp] theorem State.modStack_released (s : State) (k : Nat) (f : Stack → Stack) : (s.modStack k f).released = s.released := rfl
@[simp] theorem State.modStack_range (s : State) (k : Nat) (f : Stack → Stack) : (s.modStack k f).range = s.range := rfl
@[simp] theorem State.modStack_hq (s : State) (k : Nat) (f : Stack → Stack) : (s.modStack k f).hq = s.hq := rfl
@[simp] theorem State.modStack_tenants (s : State) (k : Nat) (f : Stack → Stack) : (s.modStack k f).tenants = s.tenants := rfl
@[simp] theorem State.modStack_cpTlb (s : State) (k : Nat) (f : Stack → Stack) : (s.modStack k f).cpTlb = s.cpTlb := rfl
@[simp] theorem State.modStack_fault (s : State) (k : Nat) (f : Stack → Stack) : (s.modStack k f).fault = s.fault := rfl
@[simp] theorem State.modStack_sched (s : State) (k : Nat) (f : Stack → Stack) : (s.modStack k f).sched = s.sched := rfl
@[simp] theorem State.modStack_moves (s : State) (k : Nat) (f : Stack → Stack) : (s.modStack k f).moves = s.moves := rfl
@[simp] theorem State.modStack_overhead (s : State) (k : Nat) (f : Stack → Stack) : (s.modStack k f).overhead = s.overhead := rfl
@[simp] theorem State.modStack_power (s : State) (k : Nat) (f : Stack → Stack) : (s.modStack k f).power = s.power := rfl
@[simp] theorem State.modStack_laroon (s : State) (k : Nat) (f : Stack → Stack) : (s.modStack k f).laroon = s.laroon := rfl
@[simp] theorem State.modStack_links (s : State) (k : Nat) (f : Stack → Stack) : (s.modStack k f).links = s.links := rfl
@[simp] theorem State.modStack_ports (s : State) (k : Nat) (f : Stack → Stack) : (s.modStack k f).ports = s.ports := rfl
@[simp] theorem State.modStack_peers (s : State) (k : Nat) (f : Stack → Stack) : (s.modStack k f).peers = s.peers := rfl
@[simp] theorem State.modStack_sent (s : State) (k : Nat) (f : Stack → Stack) : (s.modStack k f).sent = s.sent := rfl
@[simp] theorem State.modStack_msix (s : State) (k : Nat) (f : Stack → Stack) : (s.modStack k f).msix = s.msix := rfl
@[simp] theorem State.modStack_bankSeq (s : State) (k : Nat) (f : Stack → Stack) : (s.modStack k f).bankSeq = s.bankSeq := rfl
@[simp] theorem State.modStack_rasAt (s : State) (k : Nat) (f : Stack → Stack) : (s.modStack k f).rasAt = s.rasAt := rfl
@[simp] theorem State.modStack_saved (s : State) (k : Nat) (f : Stack → Stack) : (s.modStack k f).saved = s.saved := rfl
@[simp] theorem State.modStack_nextHandle (s : State) (k : Nat) (f : Stack → Stack) : (s.modStack k f).nextHandle = s.nextHandle := rfl
@[simp] theorem State.modStack_powerLost (s : State) (k : Nat) (f : Stack → Stack) : (s.modStack k f).powerLost = s.powerLost := rfl
@[simp] theorem State.modStack_env (s : State) (k : Nat) (f : Stack → Stack) : (s.modStack k f).env = s.env := rfl
@[simp] theorem State.modStack_agenda (s : State) (k : Nat) (f : Stack → Stack) : (s.modStack k f).agenda = s.agenda := rfl
@[simp] theorem State.modStack_input (s : State) (k : Nat) (f : Stack → Stack) : (s.modStack k f).input = s.input := rfl
@[simp] theorem State.modStack_phase (s : State) (k : Nat) (f : Stack → Stack) : (s.modStack k f).phase = s.phase := rfl
@[simp] theorem State.modStack_focus (s : State) (k : Nat) (f : Stack → Stack) : (s.modStack k f).focus = s.focus := rfl
@[simp] theorem State.modStack_free (s : State) (k : Nat) (f : Stack → Stack) : (s.modStack k f).free = s.free := rfl

/-! ### modQueue -/

@[simp] theorem State.modQueue_cycle (s : State) (k : Nat) (f : HostQueue → HostQueue) : (s.modQueue k f).cycle = s.cycle := rfl
@[simp] theorem State.modQueue_ticks (s : State) (k : Nat) (f : HostQueue → HostQueue) : (s.modQueue k f).ticks = s.ticks := rfl
@[simp] theorem State.modQueue_boot (s : State) (k : Nat) (f : HostQueue → HostQueue) : (s.modQueue k f).boot = s.boot := rfl
@[simp] theorem State.modQueue_bootStopped (s : State) (k : Nat) (f : HostQueue → HostQueue) : (s.modQueue k f).bootStopped = s.bootStopped := rfl
@[simp] theorem State.modQueue_status (s : State) (k : Nat) (f : HostQueue → HostQueue) : (s.modQueue k f).status = s.status := rfl
@[simp] theorem State.modQueue_strands (s : State) (k : Nat) (f : HostQueue → HostQueue) : (s.modQueue k f).strands = s.strands := rfl
@[simp] theorem State.modQueue_ctxs (s : State) (k : Nat) (f : HostQueue → HostQueue) : (s.modQueue k f).ctxs = s.ctxs := rfl
@[simp] theorem State.modQueue_jobs (s : State) (k : Nat) (f : HostQueue → HostQueue) : (s.modQueue k f).jobs = s.jobs := rfl
@[simp] theorem State.modQueue_tiles (s : State) (k : Nat) (f : HostQueue → HostQueue) : (s.modQueue k f).tiles = s.tiles := rfl
@[simp] theorem State.modQueue_published (s : State) (k : Nat) (f : HostQueue → HostQueue) : (s.modQueue k f).published = s.published := rfl
@[simp] theorem State.modQueue_rim (s : State) (k : Nat) (f : HostQueue → HostQueue) : (s.modQueue k f).rim = s.rim := rfl
@[simp] theorem State.modQueue_rimfe (s : State) (k : Nat) (f : HostQueue → HostQueue) : (s.modQueue k f).rimfe = s.rimfe := rfl
@[simp] theorem State.modQueue_hostMem (s : State) (k : Nat) (f : HostQueue → HostQueue) : (s.modQueue k f).hostMem = s.hostMem := rfl
@[simp] theorem State.modQueue_peerMem (s : State) (k : Nat) (f : HostQueue → HostQueue) : (s.modQueue k f).peerMem = s.peerMem := rfl
@[simp] theorem State.modQueue_waiters (s : State) (k : Nat) (f : HostQueue → HostQueue) : (s.modQueue k f).waiters = s.waiters := rfl
@[simp] theorem State.modQueue_unfenced (s : State) (k : Nat) (f : HostQueue → HostQueue) : (s.modQueue k f).unfenced = s.unfenced := rfl
@[simp] theorem State.modQueue_released (s : State) (k : Nat) (f : HostQueue → HostQueue) : (s.modQueue k f).released = s.released := rfl
@[simp] theorem State.modQueue_range (s : State) (k : Nat) (f : HostQueue → HostQueue) : (s.modQueue k f).range = s.range := rfl
@[simp] theorem State.modQueue_stackTab (s : State) (k : Nat) (f : HostQueue → HostQueue) : (s.modQueue k f).stackTab = s.stackTab := rfl
@[simp] theorem State.modQueue_tenants (s : State) (k : Nat) (f : HostQueue → HostQueue) : (s.modQueue k f).tenants = s.tenants := rfl
@[simp] theorem State.modQueue_cpTlb (s : State) (k : Nat) (f : HostQueue → HostQueue) : (s.modQueue k f).cpTlb = s.cpTlb := rfl
@[simp] theorem State.modQueue_fault (s : State) (k : Nat) (f : HostQueue → HostQueue) : (s.modQueue k f).fault = s.fault := rfl
@[simp] theorem State.modQueue_sched (s : State) (k : Nat) (f : HostQueue → HostQueue) : (s.modQueue k f).sched = s.sched := rfl
@[simp] theorem State.modQueue_moves (s : State) (k : Nat) (f : HostQueue → HostQueue) : (s.modQueue k f).moves = s.moves := rfl
@[simp] theorem State.modQueue_overhead (s : State) (k : Nat) (f : HostQueue → HostQueue) : (s.modQueue k f).overhead = s.overhead := rfl
@[simp] theorem State.modQueue_power (s : State) (k : Nat) (f : HostQueue → HostQueue) : (s.modQueue k f).power = s.power := rfl
@[simp] theorem State.modQueue_laroon (s : State) (k : Nat) (f : HostQueue → HostQueue) : (s.modQueue k f).laroon = s.laroon := rfl
@[simp] theorem State.modQueue_links (s : State) (k : Nat) (f : HostQueue → HostQueue) : (s.modQueue k f).links = s.links := rfl
@[simp] theorem State.modQueue_ports (s : State) (k : Nat) (f : HostQueue → HostQueue) : (s.modQueue k f).ports = s.ports := rfl
@[simp] theorem State.modQueue_peers (s : State) (k : Nat) (f : HostQueue → HostQueue) : (s.modQueue k f).peers = s.peers := rfl
@[simp] theorem State.modQueue_sent (s : State) (k : Nat) (f : HostQueue → HostQueue) : (s.modQueue k f).sent = s.sent := rfl
@[simp] theorem State.modQueue_msix (s : State) (k : Nat) (f : HostQueue → HostQueue) : (s.modQueue k f).msix = s.msix := rfl
@[simp] theorem State.modQueue_bankSeq (s : State) (k : Nat) (f : HostQueue → HostQueue) : (s.modQueue k f).bankSeq = s.bankSeq := rfl
@[simp] theorem State.modQueue_rasAt (s : State) (k : Nat) (f : HostQueue → HostQueue) : (s.modQueue k f).rasAt = s.rasAt := rfl
@[simp] theorem State.modQueue_saved (s : State) (k : Nat) (f : HostQueue → HostQueue) : (s.modQueue k f).saved = s.saved := rfl
@[simp] theorem State.modQueue_nextHandle (s : State) (k : Nat) (f : HostQueue → HostQueue) : (s.modQueue k f).nextHandle = s.nextHandle := rfl
@[simp] theorem State.modQueue_powerLost (s : State) (k : Nat) (f : HostQueue → HostQueue) : (s.modQueue k f).powerLost = s.powerLost := rfl
@[simp] theorem State.modQueue_env (s : State) (k : Nat) (f : HostQueue → HostQueue) : (s.modQueue k f).env = s.env := rfl
@[simp] theorem State.modQueue_agenda (s : State) (k : Nat) (f : HostQueue → HostQueue) : (s.modQueue k f).agenda = s.agenda := rfl
@[simp] theorem State.modQueue_input (s : State) (k : Nat) (f : HostQueue → HostQueue) : (s.modQueue k f).input = s.input := rfl
@[simp] theorem State.modQueue_phase (s : State) (k : Nat) (f : HostQueue → HostQueue) : (s.modQueue k f).phase = s.phase := rfl
@[simp] theorem State.modQueue_focus (s : State) (k : Nat) (f : HostQueue → HostQueue) : (s.modQueue k f).focus = s.focus := rfl
@[simp] theorem State.modQueue_free (s : State) (k : Nat) (f : HostQueue → HostQueue) : (s.modQueue k f).free = s.free := rfl

/-! ### modTen -/

@[simp] theorem State.modTen_cycle (s : State) (k : Nat) (f : Tenant → Tenant) : (s.modTen k f).cycle = s.cycle := rfl
@[simp] theorem State.modTen_ticks (s : State) (k : Nat) (f : Tenant → Tenant) : (s.modTen k f).ticks = s.ticks := rfl
@[simp] theorem State.modTen_boot (s : State) (k : Nat) (f : Tenant → Tenant) : (s.modTen k f).boot = s.boot := rfl
@[simp] theorem State.modTen_bootStopped (s : State) (k : Nat) (f : Tenant → Tenant) : (s.modTen k f).bootStopped = s.bootStopped := rfl
@[simp] theorem State.modTen_status (s : State) (k : Nat) (f : Tenant → Tenant) : (s.modTen k f).status = s.status := rfl
@[simp] theorem State.modTen_strands (s : State) (k : Nat) (f : Tenant → Tenant) : (s.modTen k f).strands = s.strands := rfl
@[simp] theorem State.modTen_ctxs (s : State) (k : Nat) (f : Tenant → Tenant) : (s.modTen k f).ctxs = s.ctxs := rfl
@[simp] theorem State.modTen_jobs (s : State) (k : Nat) (f : Tenant → Tenant) : (s.modTen k f).jobs = s.jobs := rfl
@[simp] theorem State.modTen_tiles (s : State) (k : Nat) (f : Tenant → Tenant) : (s.modTen k f).tiles = s.tiles := rfl
@[simp] theorem State.modTen_published (s : State) (k : Nat) (f : Tenant → Tenant) : (s.modTen k f).published = s.published := rfl
@[simp] theorem State.modTen_rim (s : State) (k : Nat) (f : Tenant → Tenant) : (s.modTen k f).rim = s.rim := rfl
@[simp] theorem State.modTen_rimfe (s : State) (k : Nat) (f : Tenant → Tenant) : (s.modTen k f).rimfe = s.rimfe := rfl
@[simp] theorem State.modTen_hostMem (s : State) (k : Nat) (f : Tenant → Tenant) : (s.modTen k f).hostMem = s.hostMem := rfl
@[simp] theorem State.modTen_peerMem (s : State) (k : Nat) (f : Tenant → Tenant) : (s.modTen k f).peerMem = s.peerMem := rfl
@[simp] theorem State.modTen_waiters (s : State) (k : Nat) (f : Tenant → Tenant) : (s.modTen k f).waiters = s.waiters := rfl
@[simp] theorem State.modTen_unfenced (s : State) (k : Nat) (f : Tenant → Tenant) : (s.modTen k f).unfenced = s.unfenced := rfl
@[simp] theorem State.modTen_released (s : State) (k : Nat) (f : Tenant → Tenant) : (s.modTen k f).released = s.released := rfl
@[simp] theorem State.modTen_range (s : State) (k : Nat) (f : Tenant → Tenant) : (s.modTen k f).range = s.range := rfl
@[simp] theorem State.modTen_stackTab (s : State) (k : Nat) (f : Tenant → Tenant) : (s.modTen k f).stackTab = s.stackTab := rfl
@[simp] theorem State.modTen_hq (s : State) (k : Nat) (f : Tenant → Tenant) : (s.modTen k f).hq = s.hq := rfl
@[simp] theorem State.modTen_cpTlb (s : State) (k : Nat) (f : Tenant → Tenant) : (s.modTen k f).cpTlb = s.cpTlb := rfl
@[simp] theorem State.modTen_fault (s : State) (k : Nat) (f : Tenant → Tenant) : (s.modTen k f).fault = s.fault := rfl
@[simp] theorem State.modTen_sched (s : State) (k : Nat) (f : Tenant → Tenant) : (s.modTen k f).sched = s.sched := rfl
@[simp] theorem State.modTen_moves (s : State) (k : Nat) (f : Tenant → Tenant) : (s.modTen k f).moves = s.moves := rfl
@[simp] theorem State.modTen_overhead (s : State) (k : Nat) (f : Tenant → Tenant) : (s.modTen k f).overhead = s.overhead := rfl
@[simp] theorem State.modTen_power (s : State) (k : Nat) (f : Tenant → Tenant) : (s.modTen k f).power = s.power := rfl
@[simp] theorem State.modTen_laroon (s : State) (k : Nat) (f : Tenant → Tenant) : (s.modTen k f).laroon = s.laroon := rfl
@[simp] theorem State.modTen_links (s : State) (k : Nat) (f : Tenant → Tenant) : (s.modTen k f).links = s.links := rfl
@[simp] theorem State.modTen_ports (s : State) (k : Nat) (f : Tenant → Tenant) : (s.modTen k f).ports = s.ports := rfl
@[simp] theorem State.modTen_peers (s : State) (k : Nat) (f : Tenant → Tenant) : (s.modTen k f).peers = s.peers := rfl
@[simp] theorem State.modTen_sent (s : State) (k : Nat) (f : Tenant → Tenant) : (s.modTen k f).sent = s.sent := rfl
@[simp] theorem State.modTen_msix (s : State) (k : Nat) (f : Tenant → Tenant) : (s.modTen k f).msix = s.msix := rfl
@[simp] theorem State.modTen_bankSeq (s : State) (k : Nat) (f : Tenant → Tenant) : (s.modTen k f).bankSeq = s.bankSeq := rfl
@[simp] theorem State.modTen_rasAt (s : State) (k : Nat) (f : Tenant → Tenant) : (s.modTen k f).rasAt = s.rasAt := rfl
@[simp] theorem State.modTen_saved (s : State) (k : Nat) (f : Tenant → Tenant) : (s.modTen k f).saved = s.saved := rfl
@[simp] theorem State.modTen_nextHandle (s : State) (k : Nat) (f : Tenant → Tenant) : (s.modTen k f).nextHandle = s.nextHandle := rfl
@[simp] theorem State.modTen_powerLost (s : State) (k : Nat) (f : Tenant → Tenant) : (s.modTen k f).powerLost = s.powerLost := rfl
@[simp] theorem State.modTen_env (s : State) (k : Nat) (f : Tenant → Tenant) : (s.modTen k f).env = s.env := rfl
@[simp] theorem State.modTen_agenda (s : State) (k : Nat) (f : Tenant → Tenant) : (s.modTen k f).agenda = s.agenda := rfl
@[simp] theorem State.modTen_input (s : State) (k : Nat) (f : Tenant → Tenant) : (s.modTen k f).input = s.input := rfl
@[simp] theorem State.modTen_phase (s : State) (k : Nat) (f : Tenant → Tenant) : (s.modTen k f).phase = s.phase := rfl
@[simp] theorem State.modTen_focus (s : State) (k : Nat) (f : Tenant → Tenant) : (s.modTen k f).focus = s.focus := rfl
@[simp] theorem State.modTen_free (s : State) (k : Nat) (f : Tenant → Tenant) : (s.modTen k f).free = s.free := rfl

/-! ### modRing -/

@[simp] theorem State.modRing_cycle (s : State) (k : Nat) (f : FaultRing → FaultRing) : (s.modRing k f).cycle = s.cycle := rfl
@[simp] theorem State.modRing_ticks (s : State) (k : Nat) (f : FaultRing → FaultRing) : (s.modRing k f).ticks = s.ticks := rfl
@[simp] theorem State.modRing_boot (s : State) (k : Nat) (f : FaultRing → FaultRing) : (s.modRing k f).boot = s.boot := rfl
@[simp] theorem State.modRing_bootStopped (s : State) (k : Nat) (f : FaultRing → FaultRing) : (s.modRing k f).bootStopped = s.bootStopped := rfl
@[simp] theorem State.modRing_status (s : State) (k : Nat) (f : FaultRing → FaultRing) : (s.modRing k f).status = s.status := rfl
@[simp] theorem State.modRing_strands (s : State) (k : Nat) (f : FaultRing → FaultRing) : (s.modRing k f).strands = s.strands := rfl
@[simp] theorem State.modRing_ctxs (s : State) (k : Nat) (f : FaultRing → FaultRing) : (s.modRing k f).ctxs = s.ctxs := rfl
@[simp] theorem State.modRing_jobs (s : State) (k : Nat) (f : FaultRing → FaultRing) : (s.modRing k f).jobs = s.jobs := rfl
@[simp] theorem State.modRing_tiles (s : State) (k : Nat) (f : FaultRing → FaultRing) : (s.modRing k f).tiles = s.tiles := rfl
@[simp] theorem State.modRing_published (s : State) (k : Nat) (f : FaultRing → FaultRing) : (s.modRing k f).published = s.published := rfl
@[simp] theorem State.modRing_rim (s : State) (k : Nat) (f : FaultRing → FaultRing) : (s.modRing k f).rim = s.rim := rfl
@[simp] theorem State.modRing_rimfe (s : State) (k : Nat) (f : FaultRing → FaultRing) : (s.modRing k f).rimfe = s.rimfe := rfl
@[simp] theorem State.modRing_hostMem (s : State) (k : Nat) (f : FaultRing → FaultRing) : (s.modRing k f).hostMem = s.hostMem := rfl
@[simp] theorem State.modRing_peerMem (s : State) (k : Nat) (f : FaultRing → FaultRing) : (s.modRing k f).peerMem = s.peerMem := rfl
@[simp] theorem State.modRing_waiters (s : State) (k : Nat) (f : FaultRing → FaultRing) : (s.modRing k f).waiters = s.waiters := rfl
@[simp] theorem State.modRing_unfenced (s : State) (k : Nat) (f : FaultRing → FaultRing) : (s.modRing k f).unfenced = s.unfenced := rfl
@[simp] theorem State.modRing_released (s : State) (k : Nat) (f : FaultRing → FaultRing) : (s.modRing k f).released = s.released := rfl
@[simp] theorem State.modRing_range (s : State) (k : Nat) (f : FaultRing → FaultRing) : (s.modRing k f).range = s.range := rfl
@[simp] theorem State.modRing_stackTab (s : State) (k : Nat) (f : FaultRing → FaultRing) : (s.modRing k f).stackTab = s.stackTab := rfl
@[simp] theorem State.modRing_hq (s : State) (k : Nat) (f : FaultRing → FaultRing) : (s.modRing k f).hq = s.hq := rfl
@[simp] theorem State.modRing_tenants (s : State) (k : Nat) (f : FaultRing → FaultRing) : (s.modRing k f).tenants = s.tenants := rfl
@[simp] theorem State.modRing_cpTlb (s : State) (k : Nat) (f : FaultRing → FaultRing) : (s.modRing k f).cpTlb = s.cpTlb := rfl
@[simp] theorem State.modRing_sched (s : State) (k : Nat) (f : FaultRing → FaultRing) : (s.modRing k f).sched = s.sched := rfl
@[simp] theorem State.modRing_moves (s : State) (k : Nat) (f : FaultRing → FaultRing) : (s.modRing k f).moves = s.moves := rfl
@[simp] theorem State.modRing_overhead (s : State) (k : Nat) (f : FaultRing → FaultRing) : (s.modRing k f).overhead = s.overhead := rfl
@[simp] theorem State.modRing_power (s : State) (k : Nat) (f : FaultRing → FaultRing) : (s.modRing k f).power = s.power := rfl
@[simp] theorem State.modRing_laroon (s : State) (k : Nat) (f : FaultRing → FaultRing) : (s.modRing k f).laroon = s.laroon := rfl
@[simp] theorem State.modRing_links (s : State) (k : Nat) (f : FaultRing → FaultRing) : (s.modRing k f).links = s.links := rfl
@[simp] theorem State.modRing_ports (s : State) (k : Nat) (f : FaultRing → FaultRing) : (s.modRing k f).ports = s.ports := rfl
@[simp] theorem State.modRing_peers (s : State) (k : Nat) (f : FaultRing → FaultRing) : (s.modRing k f).peers = s.peers := rfl
@[simp] theorem State.modRing_sent (s : State) (k : Nat) (f : FaultRing → FaultRing) : (s.modRing k f).sent = s.sent := rfl
@[simp] theorem State.modRing_msix (s : State) (k : Nat) (f : FaultRing → FaultRing) : (s.modRing k f).msix = s.msix := rfl
@[simp] theorem State.modRing_bankSeq (s : State) (k : Nat) (f : FaultRing → FaultRing) : (s.modRing k f).bankSeq = s.bankSeq := rfl
@[simp] theorem State.modRing_rasAt (s : State) (k : Nat) (f : FaultRing → FaultRing) : (s.modRing k f).rasAt = s.rasAt := rfl
@[simp] theorem State.modRing_saved (s : State) (k : Nat) (f : FaultRing → FaultRing) : (s.modRing k f).saved = s.saved := rfl
@[simp] theorem State.modRing_nextHandle (s : State) (k : Nat) (f : FaultRing → FaultRing) : (s.modRing k f).nextHandle = s.nextHandle := rfl
@[simp] theorem State.modRing_powerLost (s : State) (k : Nat) (f : FaultRing → FaultRing) : (s.modRing k f).powerLost = s.powerLost := rfl
@[simp] theorem State.modRing_env (s : State) (k : Nat) (f : FaultRing → FaultRing) : (s.modRing k f).env = s.env := rfl
@[simp] theorem State.modRing_agenda (s : State) (k : Nat) (f : FaultRing → FaultRing) : (s.modRing k f).agenda = s.agenda := rfl
@[simp] theorem State.modRing_input (s : State) (k : Nat) (f : FaultRing → FaultRing) : (s.modRing k f).input = s.input := rfl
@[simp] theorem State.modRing_phase (s : State) (k : Nat) (f : FaultRing → FaultRing) : (s.modRing k f).phase = s.phase := rfl
@[simp] theorem State.modRing_focus (s : State) (k : Nat) (f : FaultRing → FaultRing) : (s.modRing k f).focus = s.focus := rfl
@[simp] theorem State.modRing_free (s : State) (k : Nat) (f : FaultRing → FaultRing) : (s.modRing k f).free = s.free := rfl

/-! ### Read after write -/

theorem State.strand_setStrand (s : State) (k j : Nat) (v : Strand) : (s.setStrand k v).strand j = if j = k then v else s.strand j := tableGet_set _ _ _ _ _
@[simp] theorem State.strand_setStrand_self (s : State) (k : Nat) (v : Strand) : (s.setStrand k v).strand k = v := tableGet_set_self _ _ _ _
theorem State.ctx_setCtx (s : State) (k j : Nat) (v : Ctx) : (s.setCtx k v).ctx j = if j = k then v else s.ctx j := tableGet_set _ _ _ _ _
@[simp] theorem State.ctx_setCtx_self (s : State) (k : Nat) (v : Ctx) : (s.setCtx k v).ctx k = v := tableGet_set_self _ _ _ _
theorem State.job_setJob (s : State) (k j : Nat) (v : Job) : (s.setJob k v).job j = if j = k then v else s.job j := tableGet_set _ _ _ _ _
@[simp] theorem State.job_setJob_self (s : State) (k : Nat) (v : Job) : (s.setJob k v).job k = v := tableGet_set_self _ _ _ _
theorem State.tile_setTile (s : State) (k j : Nat) (v : Tile) : (s.setTile k v).tile j = if j = k then v else s.tile j := tableGet_set _ _ _ _ _
@[simp] theorem State.tile_setTile_self (s : State) (k : Nat) (v : Tile) : (s.setTile k v).tile k = v := tableGet_set_self _ _ _ _
theorem State.stack_setStack (s : State) (k j : Nat) (v : Stack) : (s.setStack k v).stack j = if j = k then v else s.stack j := tableGet_set _ _ _ _ _
@[simp] theorem State.stack_setStack_self (s : State) (k : Nat) (v : Stack) : (s.setStack k v).stack k = v := tableGet_set_self _ _ _ _
theorem State.queue_setQueue (s : State) (k j : Nat) (v : HostQueue) : (s.setQueue k v).queue j = if j = k then v else s.queue j := tableGet_set _ _ _ _ _
@[simp] theorem State.queue_setQueue_self (s : State) (k : Nat) (v : HostQueue) : (s.setQueue k v).queue k = v := tableGet_set_self _ _ _ _
theorem State.ten_setTen (s : State) (k j : Nat) (v : Tenant) : (s.setTen k v).ten j = if j = k then v else s.ten j := tableGet_set _ _ _ _ _
@[simp] theorem State.ten_setTen_self (s : State) (k : Nat) (v : Tenant) : (s.setTen k v).ten k = v := tableGet_set_self _ _ _ _
theorem State.ring_setRing (s : State) (k j : Nat) (v : FaultRing) : (s.setRing k v).ring j = if j = k then v else s.ring j := tableGet_set _ _ _ _ _
@[simp] theorem State.ring_setRing_self (s : State) (k : Nat) (v : FaultRing) : (s.setRing k v).ring k = v := tableGet_set_self _ _ _ _
theorem State.strand_modStrand (s : State) (k j : Nat) (f : Strand → Strand) : (s.modStrand k f).strand j = if j = k then f (s.strand k) else s.strand j := tableGet_set _ _ _ _ _
@[simp] theorem State.strand_modStrand_self (s : State) (k : Nat) (f : Strand → Strand) : (s.modStrand k f).strand k = f (s.strand k) := tableGet_set_self _ _ _ _
theorem State.ctx_modCtx (s : State) (k j : Nat) (f : Ctx → Ctx) : (s.modCtx k f).ctx j = if j = k then f (s.ctx k) else s.ctx j := tableGet_set _ _ _ _ _
@[simp] theorem State.ctx_modCtx_self (s : State) (k : Nat) (f : Ctx → Ctx) : (s.modCtx k f).ctx k = f (s.ctx k) := tableGet_set_self _ _ _ _
theorem State.job_modJob (s : State) (k j : Nat) (f : Job → Job) : (s.modJob k f).job j = if j = k then f (s.job k) else s.job j := tableGet_set _ _ _ _ _
@[simp] theorem State.job_modJob_self (s : State) (k : Nat) (f : Job → Job) : (s.modJob k f).job k = f (s.job k) := tableGet_set_self _ _ _ _
theorem State.tile_modTile (s : State) (k j : Nat) (f : Tile → Tile) : (s.modTile k f).tile j = if j = k then f (s.tile k) else s.tile j := tableGet_set _ _ _ _ _
@[simp] theorem State.tile_modTile_self (s : State) (k : Nat) (f : Tile → Tile) : (s.modTile k f).tile k = f (s.tile k) := tableGet_set_self _ _ _ _
theorem State.stack_modStack (s : State) (k j : Nat) (f : Stack → Stack) : (s.modStack k f).stack j = if j = k then f (s.stack k) else s.stack j := tableGet_set _ _ _ _ _
@[simp] theorem State.stack_modStack_self (s : State) (k : Nat) (f : Stack → Stack) : (s.modStack k f).stack k = f (s.stack k) := tableGet_set_self _ _ _ _
theorem State.queue_modQueue (s : State) (k j : Nat) (f : HostQueue → HostQueue) : (s.modQueue k f).queue j = if j = k then f (s.queue k) else s.queue j := tableGet_set _ _ _ _ _
@[simp] theorem State.queue_modQueue_self (s : State) (k : Nat) (f : HostQueue → HostQueue) : (s.modQueue k f).queue k = f (s.queue k) := tableGet_set_self _ _ _ _
theorem State.ten_modTen (s : State) (k j : Nat) (f : Tenant → Tenant) : (s.modTen k f).ten j = if j = k then f (s.ten k) else s.ten j := tableGet_set _ _ _ _ _
@[simp] theorem State.ten_modTen_self (s : State) (k : Nat) (f : Tenant → Tenant) : (s.modTen k f).ten k = f (s.ten k) := tableGet_set_self _ _ _ _
theorem State.ring_modRing (s : State) (k j : Nat) (f : FaultRing → FaultRing) : (s.modRing k f).ring j = if j = k then f (s.ring k) else s.ring j := tableGet_set _ _ _ _ _
@[simp] theorem State.ring_modRing_self (s : State) (k : Nat) (f : FaultRing → FaultRing) : (s.modRing k f).ring k = f (s.ring k) := tableGet_set_self _ _ _ _
@[simp] theorem State.setStrand_ctx_other (s : State) (k j : Nat) (v : Strand) : (s.setStrand k v).ctx j = s.ctx j := rfl
@[simp] theorem State.setStrand_job_other (s : State) (k j : Nat) (v : Strand) : (s.setStrand k v).job j = s.job j := rfl
@[simp] theorem State.setStrand_tile_other (s : State) (k j : Nat) (v : Strand) : (s.setStrand k v).tile j = s.tile j := rfl
@[simp] theorem State.setStrand_stack_other (s : State) (k j : Nat) (v : Strand) : (s.setStrand k v).stack j = s.stack j := rfl
@[simp] theorem State.setStrand_queue_other (s : State) (k j : Nat) (v : Strand) : (s.setStrand k v).queue j = s.queue j := rfl
@[simp] theorem State.setStrand_ten_other (s : State) (k j : Nat) (v : Strand) : (s.setStrand k v).ten j = s.ten j := rfl
@[simp] theorem State.setStrand_ring_other (s : State) (k j : Nat) (v : Strand) : (s.setStrand k v).ring j = s.ring j := rfl
@[simp] theorem State.setCtx_strand_other (s : State) (k j : Nat) (v : Ctx) : (s.setCtx k v).strand j = s.strand j := rfl
@[simp] theorem State.setCtx_job_other (s : State) (k j : Nat) (v : Ctx) : (s.setCtx k v).job j = s.job j := rfl
@[simp] theorem State.setCtx_tile_other (s : State) (k j : Nat) (v : Ctx) : (s.setCtx k v).tile j = s.tile j := rfl
@[simp] theorem State.setCtx_stack_other (s : State) (k j : Nat) (v : Ctx) : (s.setCtx k v).stack j = s.stack j := rfl
@[simp] theorem State.setCtx_queue_other (s : State) (k j : Nat) (v : Ctx) : (s.setCtx k v).queue j = s.queue j := rfl
@[simp] theorem State.setCtx_ten_other (s : State) (k j : Nat) (v : Ctx) : (s.setCtx k v).ten j = s.ten j := rfl
@[simp] theorem State.setCtx_ring_other (s : State) (k j : Nat) (v : Ctx) : (s.setCtx k v).ring j = s.ring j := rfl
@[simp] theorem State.setJob_strand_other (s : State) (k j : Nat) (v : Job) : (s.setJob k v).strand j = s.strand j := rfl
@[simp] theorem State.setJob_ctx_other (s : State) (k j : Nat) (v : Job) : (s.setJob k v).ctx j = s.ctx j := rfl
@[simp] theorem State.setJob_tile_other (s : State) (k j : Nat) (v : Job) : (s.setJob k v).tile j = s.tile j := rfl
@[simp] theorem State.setJob_stack_other (s : State) (k j : Nat) (v : Job) : (s.setJob k v).stack j = s.stack j := rfl
@[simp] theorem State.setJob_queue_other (s : State) (k j : Nat) (v : Job) : (s.setJob k v).queue j = s.queue j := rfl
@[simp] theorem State.setJob_ten_other (s : State) (k j : Nat) (v : Job) : (s.setJob k v).ten j = s.ten j := rfl
@[simp] theorem State.setJob_ring_other (s : State) (k j : Nat) (v : Job) : (s.setJob k v).ring j = s.ring j := rfl
@[simp] theorem State.setTile_strand_other (s : State) (k j : Nat) (v : Tile) : (s.setTile k v).strand j = s.strand j := rfl
@[simp] theorem State.setTile_ctx_other (s : State) (k j : Nat) (v : Tile) : (s.setTile k v).ctx j = s.ctx j := rfl
@[simp] theorem State.setTile_job_other (s : State) (k j : Nat) (v : Tile) : (s.setTile k v).job j = s.job j := rfl
@[simp] theorem State.setTile_stack_other (s : State) (k j : Nat) (v : Tile) : (s.setTile k v).stack j = s.stack j := rfl
@[simp] theorem State.setTile_queue_other (s : State) (k j : Nat) (v : Tile) : (s.setTile k v).queue j = s.queue j := rfl
@[simp] theorem State.setTile_ten_other (s : State) (k j : Nat) (v : Tile) : (s.setTile k v).ten j = s.ten j := rfl
@[simp] theorem State.setTile_ring_other (s : State) (k j : Nat) (v : Tile) : (s.setTile k v).ring j = s.ring j := rfl
@[simp] theorem State.setStack_strand_other (s : State) (k j : Nat) (v : Stack) : (s.setStack k v).strand j = s.strand j := rfl
@[simp] theorem State.setStack_ctx_other (s : State) (k j : Nat) (v : Stack) : (s.setStack k v).ctx j = s.ctx j := rfl
@[simp] theorem State.setStack_job_other (s : State) (k j : Nat) (v : Stack) : (s.setStack k v).job j = s.job j := rfl
@[simp] theorem State.setStack_tile_other (s : State) (k j : Nat) (v : Stack) : (s.setStack k v).tile j = s.tile j := rfl
@[simp] theorem State.setStack_queue_other (s : State) (k j : Nat) (v : Stack) : (s.setStack k v).queue j = s.queue j := rfl
@[simp] theorem State.setStack_ten_other (s : State) (k j : Nat) (v : Stack) : (s.setStack k v).ten j = s.ten j := rfl
@[simp] theorem State.setStack_ring_other (s : State) (k j : Nat) (v : Stack) : (s.setStack k v).ring j = s.ring j := rfl
@[simp] theorem State.setQueue_strand_other (s : State) (k j : Nat) (v : HostQueue) : (s.setQueue k v).strand j = s.strand j := rfl
@[simp] theorem State.setQueue_ctx_other (s : State) (k j : Nat) (v : HostQueue) : (s.setQueue k v).ctx j = s.ctx j := rfl
@[simp] theorem State.setQueue_job_other (s : State) (k j : Nat) (v : HostQueue) : (s.setQueue k v).job j = s.job j := rfl
@[simp] theorem State.setQueue_tile_other (s : State) (k j : Nat) (v : HostQueue) : (s.setQueue k v).tile j = s.tile j := rfl
@[simp] theorem State.setQueue_stack_other (s : State) (k j : Nat) (v : HostQueue) : (s.setQueue k v).stack j = s.stack j := rfl
@[simp] theorem State.setQueue_ten_other (s : State) (k j : Nat) (v : HostQueue) : (s.setQueue k v).ten j = s.ten j := rfl
@[simp] theorem State.setQueue_ring_other (s : State) (k j : Nat) (v : HostQueue) : (s.setQueue k v).ring j = s.ring j := rfl
@[simp] theorem State.setTen_strand_other (s : State) (k j : Nat) (v : Tenant) : (s.setTen k v).strand j = s.strand j := rfl
@[simp] theorem State.setTen_ctx_other (s : State) (k j : Nat) (v : Tenant) : (s.setTen k v).ctx j = s.ctx j := rfl
@[simp] theorem State.setTen_job_other (s : State) (k j : Nat) (v : Tenant) : (s.setTen k v).job j = s.job j := rfl
@[simp] theorem State.setTen_tile_other (s : State) (k j : Nat) (v : Tenant) : (s.setTen k v).tile j = s.tile j := rfl
@[simp] theorem State.setTen_stack_other (s : State) (k j : Nat) (v : Tenant) : (s.setTen k v).stack j = s.stack j := rfl
@[simp] theorem State.setTen_queue_other (s : State) (k j : Nat) (v : Tenant) : (s.setTen k v).queue j = s.queue j := rfl
@[simp] theorem State.setTen_ring_other (s : State) (k j : Nat) (v : Tenant) : (s.setTen k v).ring j = s.ring j := rfl
@[simp] theorem State.setRing_strand_other (s : State) (k j : Nat) (v : FaultRing) : (s.setRing k v).strand j = s.strand j := rfl
@[simp] theorem State.setRing_ctx_other (s : State) (k j : Nat) (v : FaultRing) : (s.setRing k v).ctx j = s.ctx j := rfl
@[simp] theorem State.setRing_job_other (s : State) (k j : Nat) (v : FaultRing) : (s.setRing k v).job j = s.job j := rfl
@[simp] theorem State.setRing_tile_other (s : State) (k j : Nat) (v : FaultRing) : (s.setRing k v).tile j = s.tile j := rfl
@[simp] theorem State.setRing_stack_other (s : State) (k j : Nat) (v : FaultRing) : (s.setRing k v).stack j = s.stack j := rfl
@[simp] theorem State.setRing_queue_other (s : State) (k j : Nat) (v : FaultRing) : (s.setRing k v).queue j = s.queue j := rfl
@[simp] theorem State.setRing_ten_other (s : State) (k j : Nat) (v : FaultRing) : (s.setRing k v).ten j = s.ten j := rfl
@[simp] theorem State.modStrand_ctx_other (s : State) (k j : Nat) (f : Strand → Strand) : (s.modStrand k f).ctx j = s.ctx j := rfl
@[simp] theorem State.modStrand_job_other (s : State) (k j : Nat) (f : Strand → Strand) : (s.modStrand k f).job j = s.job j := rfl
@[simp] theorem State.modStrand_tile_other (s : State) (k j : Nat) (f : Strand → Strand) : (s.modStrand k f).tile j = s.tile j := rfl
@[simp] theorem State.modStrand_stack_other (s : State) (k j : Nat) (f : Strand → Strand) : (s.modStrand k f).stack j = s.stack j := rfl
@[simp] theorem State.modStrand_queue_other (s : State) (k j : Nat) (f : Strand → Strand) : (s.modStrand k f).queue j = s.queue j := rfl
@[simp] theorem State.modStrand_ten_other (s : State) (k j : Nat) (f : Strand → Strand) : (s.modStrand k f).ten j = s.ten j := rfl
@[simp] theorem State.modStrand_ring_other (s : State) (k j : Nat) (f : Strand → Strand) : (s.modStrand k f).ring j = s.ring j := rfl
@[simp] theorem State.modCtx_strand_other (s : State) (k j : Nat) (f : Ctx → Ctx) : (s.modCtx k f).strand j = s.strand j := rfl
@[simp] theorem State.modCtx_job_other (s : State) (k j : Nat) (f : Ctx → Ctx) : (s.modCtx k f).job j = s.job j := rfl
@[simp] theorem State.modCtx_tile_other (s : State) (k j : Nat) (f : Ctx → Ctx) : (s.modCtx k f).tile j = s.tile j := rfl
@[simp] theorem State.modCtx_stack_other (s : State) (k j : Nat) (f : Ctx → Ctx) : (s.modCtx k f).stack j = s.stack j := rfl
@[simp] theorem State.modCtx_queue_other (s : State) (k j : Nat) (f : Ctx → Ctx) : (s.modCtx k f).queue j = s.queue j := rfl
@[simp] theorem State.modCtx_ten_other (s : State) (k j : Nat) (f : Ctx → Ctx) : (s.modCtx k f).ten j = s.ten j := rfl
@[simp] theorem State.modCtx_ring_other (s : State) (k j : Nat) (f : Ctx → Ctx) : (s.modCtx k f).ring j = s.ring j := rfl
@[simp] theorem State.modJob_strand_other (s : State) (k j : Nat) (f : Job → Job) : (s.modJob k f).strand j = s.strand j := rfl
@[simp] theorem State.modJob_ctx_other (s : State) (k j : Nat) (f : Job → Job) : (s.modJob k f).ctx j = s.ctx j := rfl
@[simp] theorem State.modJob_tile_other (s : State) (k j : Nat) (f : Job → Job) : (s.modJob k f).tile j = s.tile j := rfl
@[simp] theorem State.modJob_stack_other (s : State) (k j : Nat) (f : Job → Job) : (s.modJob k f).stack j = s.stack j := rfl
@[simp] theorem State.modJob_queue_other (s : State) (k j : Nat) (f : Job → Job) : (s.modJob k f).queue j = s.queue j := rfl
@[simp] theorem State.modJob_ten_other (s : State) (k j : Nat) (f : Job → Job) : (s.modJob k f).ten j = s.ten j := rfl
@[simp] theorem State.modJob_ring_other (s : State) (k j : Nat) (f : Job → Job) : (s.modJob k f).ring j = s.ring j := rfl
@[simp] theorem State.modTile_strand_other (s : State) (k j : Nat) (f : Tile → Tile) : (s.modTile k f).strand j = s.strand j := rfl
@[simp] theorem State.modTile_ctx_other (s : State) (k j : Nat) (f : Tile → Tile) : (s.modTile k f).ctx j = s.ctx j := rfl
@[simp] theorem State.modTile_job_other (s : State) (k j : Nat) (f : Tile → Tile) : (s.modTile k f).job j = s.job j := rfl
@[simp] theorem State.modTile_stack_other (s : State) (k j : Nat) (f : Tile → Tile) : (s.modTile k f).stack j = s.stack j := rfl
@[simp] theorem State.modTile_queue_other (s : State) (k j : Nat) (f : Tile → Tile) : (s.modTile k f).queue j = s.queue j := rfl
@[simp] theorem State.modTile_ten_other (s : State) (k j : Nat) (f : Tile → Tile) : (s.modTile k f).ten j = s.ten j := rfl
@[simp] theorem State.modTile_ring_other (s : State) (k j : Nat) (f : Tile → Tile) : (s.modTile k f).ring j = s.ring j := rfl
@[simp] theorem State.modStack_strand_other (s : State) (k j : Nat) (f : Stack → Stack) : (s.modStack k f).strand j = s.strand j := rfl
@[simp] theorem State.modStack_ctx_other (s : State) (k j : Nat) (f : Stack → Stack) : (s.modStack k f).ctx j = s.ctx j := rfl
@[simp] theorem State.modStack_job_other (s : State) (k j : Nat) (f : Stack → Stack) : (s.modStack k f).job j = s.job j := rfl
@[simp] theorem State.modStack_tile_other (s : State) (k j : Nat) (f : Stack → Stack) : (s.modStack k f).tile j = s.tile j := rfl
@[simp] theorem State.modStack_queue_other (s : State) (k j : Nat) (f : Stack → Stack) : (s.modStack k f).queue j = s.queue j := rfl
@[simp] theorem State.modStack_ten_other (s : State) (k j : Nat) (f : Stack → Stack) : (s.modStack k f).ten j = s.ten j := rfl
@[simp] theorem State.modStack_ring_other (s : State) (k j : Nat) (f : Stack → Stack) : (s.modStack k f).ring j = s.ring j := rfl
@[simp] theorem State.modQueue_strand_other (s : State) (k j : Nat) (f : HostQueue → HostQueue) : (s.modQueue k f).strand j = s.strand j := rfl
@[simp] theorem State.modQueue_ctx_other (s : State) (k j : Nat) (f : HostQueue → HostQueue) : (s.modQueue k f).ctx j = s.ctx j := rfl
@[simp] theorem State.modQueue_job_other (s : State) (k j : Nat) (f : HostQueue → HostQueue) : (s.modQueue k f).job j = s.job j := rfl
@[simp] theorem State.modQueue_tile_other (s : State) (k j : Nat) (f : HostQueue → HostQueue) : (s.modQueue k f).tile j = s.tile j := rfl
@[simp] theorem State.modQueue_stack_other (s : State) (k j : Nat) (f : HostQueue → HostQueue) : (s.modQueue k f).stack j = s.stack j := rfl
@[simp] theorem State.modQueue_ten_other (s : State) (k j : Nat) (f : HostQueue → HostQueue) : (s.modQueue k f).ten j = s.ten j := rfl
@[simp] theorem State.modQueue_ring_other (s : State) (k j : Nat) (f : HostQueue → HostQueue) : (s.modQueue k f).ring j = s.ring j := rfl
@[simp] theorem State.modTen_strand_other (s : State) (k j : Nat) (f : Tenant → Tenant) : (s.modTen k f).strand j = s.strand j := rfl
@[simp] theorem State.modTen_ctx_other (s : State) (k j : Nat) (f : Tenant → Tenant) : (s.modTen k f).ctx j = s.ctx j := rfl
@[simp] theorem State.modTen_job_other (s : State) (k j : Nat) (f : Tenant → Tenant) : (s.modTen k f).job j = s.job j := rfl
@[simp] theorem State.modTen_tile_other (s : State) (k j : Nat) (f : Tenant → Tenant) : (s.modTen k f).tile j = s.tile j := rfl
@[simp] theorem State.modTen_stack_other (s : State) (k j : Nat) (f : Tenant → Tenant) : (s.modTen k f).stack j = s.stack j := rfl
@[simp] theorem State.modTen_queue_other (s : State) (k j : Nat) (f : Tenant → Tenant) : (s.modTen k f).queue j = s.queue j := rfl
@[simp] theorem State.modTen_ring_other (s : State) (k j : Nat) (f : Tenant → Tenant) : (s.modTen k f).ring j = s.ring j := rfl
@[simp] theorem State.modRing_strand_other (s : State) (k j : Nat) (f : FaultRing → FaultRing) : (s.modRing k f).strand j = s.strand j := rfl
@[simp] theorem State.modRing_ctx_other (s : State) (k j : Nat) (f : FaultRing → FaultRing) : (s.modRing k f).ctx j = s.ctx j := rfl
@[simp] theorem State.modRing_job_other (s : State) (k j : Nat) (f : FaultRing → FaultRing) : (s.modRing k f).job j = s.job j := rfl
@[simp] theorem State.modRing_tile_other (s : State) (k j : Nat) (f : FaultRing → FaultRing) : (s.modRing k f).tile j = s.tile j := rfl
@[simp] theorem State.modRing_stack_other (s : State) (k j : Nat) (f : FaultRing → FaultRing) : (s.modRing k f).stack j = s.stack j := rfl
@[simp] theorem State.modRing_queue_other (s : State) (k j : Nat) (f : FaultRing → FaultRing) : (s.modRing k f).queue j = s.queue j := rfl
@[simp] theorem State.modRing_ten_other (s : State) (k j : Nat) (f : FaultRing → FaultRing) : (s.modRing k f).ten j = s.ten j := rfl

/-! ### Registers (R152) -/

@[simp] theorem Strand.rg_zero (st : Strand) : st.rg 0#5 = 0#64 := rfl

theorem Strand.rg_setG (st : Strand) (d r : BitVec 5) (x : Word) :
    (st.setG d x).rg r = if r = d ∧ d ≠ 0#5 then x else st.rg r := by
  by_cases hd : d = 0#5
  · simp [Strand.setG, hd]
  · by_cases hr : r = 0#5
    · subst hr; have : ¬ (0#5 = d) := fun e => hd e.symm
      simp [Strand.rg, this]
    · simp only [Strand.setG, hd, if_false, Strand.rg, hr, tableGet_set]
      by_cases h : r = d
      · simp [h, hd]
      · have : r.toNat ≠ d.toNat := fun e => h (BitVec.eq_of_toNat_eq e)
        simp [h, this]

theorem Strand.rv_setV (st : Strand) (d r : BitVec 4) (x : Row) : (st.setV d x).rv r = if r = d then x else st.rv r := by
  simp only [Strand.setV, Strand.rv, tableGet_set]
  by_cases h : r = d
  · simp [h]
  · have : r.toNat ≠ d.toNat := fun e => h (BitVec.eq_of_toNat_eq e)
    simp [h, this]

theorem Strand.rk_setK (st : Strand) (d r : BitVec 3) (x : Pred) :
    (st.setK d x).rk r = if r = d ∧ d ≠ 0#3 then x else st.rk r := by
  by_cases hd : d = 0#3
  · simp [Strand.setK, hd]
  · by_cases hr : r = 0#3
    · subst hr; have : ¬ (0#3 = d) := fun e => hd e.symm
      simp [Strand.rk, this]
    · simp only [Strand.setK, hd, if_false, Strand.rk, hr, tableGet_set]
      by_cases h : r = d
      · simp [h, hd]
      · have : r.toNat ≠ d.toNat := fun e => h (BitVec.eq_of_toNat_eq e)
        simp [h, this]

end Sys2Proof.Machine
end

