-- ==== Sys2Proof/Laws/Strand.lean ====
section
/-! SUPPORT. What the shared ends of an instruction do: one lemma for each says what the strand then holds, one that nothing else changes. -/

namespace Sys2Proof.Machine

/-! ### The strand -/

theorem Strand.advance_eq (st : Strand) :
    st.advance = { st with pc := st.advance.pc, loops := st.advance.loops, lstat := st.advance.lstat } := by
  unfold Strand.advance redirect0; split <;> (try split) <;> (try split) <;> (try split) <;> rfl

theorem Strand.setG_eq (st : Strand) (d : BitVec 5) (x : Word) : st.setG d x = { st with g := (st.setG d x).g } := by
  unfold Strand.setG; split <;> rfl

theorem Strand.setK_eq (st : Strand) (d : BitVec 3) (x : Pred) : st.setK d x = { st with k := (st.setK d x).k } := by
  unfold Strand.setK; split <;> rfl

theorem Strand.rg_congr (a b : Strand) (h : a.g = b.g) (r : BitVec 5) : a.rg r = b.rg r := by simp [Strand.rg, h]
theorem Strand.rv_congr (a b : Strand) (h : a.v = b.v) (r : BitVec 4) : a.rv r = b.rv r := by simp [Strand.rv, h]
theorem Strand.rk_congr (a b : Strand) (h : a.k = b.k) (r : BitVec 3) : a.rk r = b.rk r := by simp [Strand.rk, h]

/-- The redirect looks at the PC, the loop registers and LSTAT alone, and changes nothing else. -/
theorem Strand.advance_congr (a b : Strand) (h1 : a.pc = b.pc) (h2 : a.loops = b.loops) (h3 : a.lstat = b.lstat) :
    a.advance.pc = b.advance.pc ∧ a.advance.loops = b.advance.loops ∧ a.advance.lstat = b.advance.lstat := by
  unfold Strand.advance redirect0
  simp only [h1, h2, h3]
  split <;> (try split) <;> (try split) <;> (try split) <;> simp_all

@[simp] theorem Strand.advance_g (st : Strand) : st.advance.g = st.g := by rw [Strand.advance_eq]
@[simp] theorem Strand.advance_v (st : Strand) : st.advance.v = st.v := by rw [Strand.advance_eq]
@[simp] theorem Strand.advance_k (st : Strand) : st.advance.k = st.k := by rw [Strand.advance_eq]
@[simp] theorem Strand.advance_out (st : Strand) : st.advance.out = st.out := by rw [Strand.advance_eq]
@[simp] theorem Strand.advance_fflags (st : Strand) : st.advance.fflags = st.fflags := by rw [Strand.advance_eq]
@[simp] theorem Strand.advance_fen (st : Strand) : st.advance.fen = st.fen := by rw [Strand.advance_eq]
@[simp] theorem Strand.advance_trap (st : Strand) : st.advance.trap = st.trap := by rw [Strand.advance_eq]
@[simp] theorem Strand.advance_joint (st : Strand) : st.advance.joint = st.joint := by rw [Strand.advance_eq]
@[simp] theorem Strand.advance_special (st : Strand) : st.advance.special = st.special := by rw [Strand.advance_eq]; rfl

@[simp] theorem Strand.done_pc (st : Strand) (c : Nat) : (st.done c).pc = st.pc := rfl
@[simp] theorem Strand.done_g (st : Strand) (c : Nat) : (st.done c).g = st.g := rfl
@[simp] theorem Strand.done_v (st : Strand) (c : Nat) : (st.done c).v = st.v := rfl
@[simp] theorem Strand.done_k (st : Strand) (c : Nat) : (st.done c).k = st.k := rfl
@[simp] theorem Strand.done_loops (st : Strand) (c : Nat) : (st.done c).loops = st.loops := rfl
@[simp] theorem Strand.done_lstat (st : Strand) (c : Nat) : (st.done c).lstat = st.lstat := rfl
@[simp] theorem Strand.done_fflags (st : Strand) (c : Nat) : (st.done c).fflags = st.fflags := rfl
@[simp] theorem Strand.done_fen (st : Strand) (c : Nat) : (st.done c).fen = st.fen := rfl
@[simp] theorem Strand.done_trap (st : Strand) (c : Nat) : (st.done c).trap = st.trap := rfl
@[simp] theorem Strand.done_joint (st : Strand) (c : Nat) : (st.done c).joint = st.joint := rfl
@[simp] theorem Strand.done_special (st : Strand) (c : Nat) : (st.done c).special = st.special := rfl

/-- The end of an instruction: what `x` held is held still, with the PC moved on. -/
theorem Strand.frame_done (x : Strand) (c : Nat) : x.frame (x.advance.done c) [] [] [] ∧ x.movesOn (x.advance.done c) :=
  ⟨⟨by simp, fun _ _ => Strand.rg_congr _ _ (by simp) _, fun _ _ => Strand.rv_congr _ _ (by simp) _,
    fun _ _ => Strand.rk_congr _ _ (by simp) _⟩, rfl, rfl, rfl⟩

/-! ### The state -/

theorem State.modJob_progress_job (s : State) (h j : Nat) :
    (s.progress h).job j = { s.job j with progress := ((s.progress h).job j).progress } := by
  unfold State.progress; rw [State.job_modJob]; split
  · next e => subst e; rfl
  · rfl

/-- A change of the executing strand alone. -/
theorem State.modStrand_only (s : State) (f : Strand → Strand) : s.onlyStrand (s.modStrand s.cur f) := by
  refine ⟨rfl, fun k hk => by simp [State.strand_modStrand, hk], fun h => rfl, fun l => ?_⟩
  cases l <;> exact ⟨rfl, rfl⟩

/-- The same, with a note of progress. -/
theorem State.progress_only (s : State) (f : Strand → Strand) (h : Nat) : s.onlyStrand ((s.modStrand s.cur f).progress h) := by
  refine ⟨rfl, fun k hk => ?_, fun j => ?_, fun l => ?_⟩
  · show (s.modStrand s.cur f).strand k = _; simp [State.strand_modStrand, hk]
  · exact State.modJob_progress_job _ _ _
  · cases l <;> exact ⟨rfl, rfl⟩

theorem State.modStrand_then (s : State) (f : Strand → Strand) : s.then (s.modStrand s.cur f) = f s.me := by
  simp [State.then, State.me]

theorem State.progress_then (s : State) (f : Strand → Strand) (h : Nat) : s.then ((s.modStrand s.cur f).progress h) = f s.me := by
  show (s.modStrand s.cur f).strand s.cur = _; simp [State.me]

theorem State.retireWith_only (s : State) (f : Strand → Strand) : s.onlyStrand (s.retireWith s.cur f) := s.progress_only _ _
theorem State.retireWith_then (s : State) (f : Strand → Strand) : s.then (s.retireWith s.cur f) = (f s.me).advance.done s.cycle :=
  s.progress_then _ _

theorem State.retireAfter_only (s : State) (f : Strand → Strand) : s.onlyStrand (s.retireAfter s.cur f) := s.progress_only _ _
theorem State.retireAfter_then (s : State) (f : Strand → Strand) : s.then (s.retireAfter s.cur f) = (f s.me.advance).done s.cycle :=
  s.progress_then _ _

theorem State.jumpWith_only (s : State) (pc : Word) (f : Strand → Strand) : s.onlyStrand (s.jumpWith s.cur pc f) := s.progress_only _ _
theorem State.jumpWith_then (s : State) (pc : Word) (f : Strand → Strand) :
    s.then (s.jumpWith s.cur pc f) = ({ f s.me with pc := pc } : Strand).done s.cycle := s.progress_then _ _

theorem State.block_waits (s : State) (st : StrandState) (w : Wait) : s.waitsIn (s.block s.cur st w) st w :=
  ⟨s.modStrand_only _, s.modStrand_then _⟩

/-- An instruction that retires with its strand as `f` leaves it. -/
theorem State.retireWith_leaves (s : State) (f : Strand → Strand) : s.leaves (s.retireWith s.cur f) (f s.me) [] := by
  unfold State.leaves; rw [State.retireWith_then]
  exact ⟨(Strand.frame_done _ _).1, by simp, (Strand.frame_done _ _).2⟩

/-- A result in a general register. -/
theorem State.retireWith_setG (s : State) (d : BitVec 5) (x : Word) :
    s.leaves (s.retireWith s.cur (fun st => st.setG d x)) s.me [d] ∧ (s.then (s.retireWith s.cur (fun st => st.setG d x))).holdsG d x := by
  obtain ⟨⟨h1, h2, h3, h4⟩, h5, h6⟩ := s.retireWith_leaves (fun st => st.setG d x)
  refine ⟨⟨⟨?_, ?_, ?_, ?_⟩, ?_, ?_⟩, ?_⟩
  · rw [h1, Strand.setG_eq]; rfl
  · intro r hr
    have hne : r ≠ d := by simpa using hr
    rw [h2 r (by simp), Strand.rg_setG]; simp [hne]
  · intro r hr; rw [h3 r (by simp), Strand.setG_eq]; rfl
  · intro r hr; rw [h4 r (by simp), Strand.setG_eq]; rfl
  · rw [h5, Strand.setG_eq]
  · have h := Strand.advance_congr (s.me.setG d x) s.me (by rw [Strand.setG_eq]) (by rw [Strand.setG_eq]) (by rw [Strand.setG_eq])
    exact ⟨h6.1.trans h.1, h6.2.1.trans h.2.1, h6.2.2.trans h.2.2⟩
  · show _ = _
    rw [h2 d (by simp), Strand.rg_setG]; by_cases hd : d = 0#5 <;> simp [hd]

theorem State.writeG_computes (s : State) (d : BitVec 5) (x : Word) :
    s.computes (s.writeG d x) [d] ∧ (s.then (s.writeG d x)).holdsG d x :=
  ⟨⟨s.retireWith_only _, (s.retireWith_setG d x).1⟩, (s.retireWith_setG d x).2⟩

end Sys2Proof.Machine
end

