-- ==== Sys2Proof/Laws/Issue.lean ====
section
/-! SUPPORT. Issuing an operation (R149–R151): what settling it does to the strand, and what `issueLong` leaves, for every operation with at
most one result of a kind. -/

namespace Sys2Proof.Machine

theorem Strand.setV_eq (st : Strand) (d : BitVec 4) (x : Row) : st.setV d x = { st with v := (st.setV d x).v } := rfl

theorem foldl_setG_eq (l : List (BitVec 5 × Word)) (st : Strand) :
    l.foldl (fun x p => x.setG p.1 p.2) st = { st with g := (l.foldl (fun x p => x.setG p.1 p.2) st).g } := by
  induction l generalizing st with
  | nil => rfl
  | cons p t ih => simp only [List.foldl]; rw [ih, Strand.setG_eq]

theorem foldl_setV_eq (l : List (BitVec 4 × Row)) (st : Strand) :
    l.foldl (fun x p => x.setV p.1 p.2) st = { st with v := (l.foldl (fun x p => x.setV p.1 p.2) st).v } := by
  induction l generalizing st with
  | nil => rfl
  | cons p t ih => simp only [List.foldl]; rw [ih, Strand.setV_eq]

theorem foldl_setK_eq (l : List (BitVec 3 × Pred)) (st : Strand) :
    l.foldl (fun x p => x.setK p.1 p.2) st = { st with k := (l.foldl (fun x p => x.setK p.1 p.2) st).k } := by
  induction l generalizing st with
  | nil => rfl
  | cons p t ih => simp only [List.foldl]; rw [ih, Strand.setK_eq]

theorem settle_aux (st A B C : Strand) (f : BitVec 6) (e1 : A = { st with g := A.g }) (e2 : B = { A with v := B.v })
    (e3 : C = { B with k := C.k }) :
    ({ C with fflags := B.fflags ||| f } : Strand) = { st with g := C.g, v := C.v, k := C.k, fflags := st.fflags ||| f } := by
  simp only [Strand.mk.injEq, true_and]
  (repeat' constructor) <;> first | rw [e3, e2, e1] | rw [e2, e1]

/-- Settling an operation changes registers and flags alone. -/
theorem Strand.settle_eq (st : Strand) (o : OutOp) :
    st.settle o = { st with g := (st.settle o).g, v := (st.settle o).v, k := (st.settle o).k, fflags := st.fflags ||| o.flags } := by
  exact settle_aux st _ _ _ _ (foldl_setG_eq o.gw st) (foldl_setV_eq o.vw _) (foldl_setK_eq o.kw _)

theorem rg_setV (st : Strand) (d : BitVec 4) (x : Row) (r) : (st.setV d x).rg r = st.rg r := rfl
theorem rg_setK (st : Strand) (d : BitVec 3) (x : Pred) (r) : (st.setK d x).rg r = st.rg r := by rw [Strand.setK_eq]; rfl
theorem rv_setG (st : Strand) (d : BitVec 5) (x : Word) (r) : (st.setG d x).rv r = st.rv r := by rw [Strand.setG_eq]; rfl
theorem rv_setK (st : Strand) (d : BitVec 3) (x : Pred) (r) : (st.setK d x).rv r = st.rv r := by rw [Strand.setK_eq]; rfl
theorem rk_setG (st : Strand) (d : BitVec 5) (x : Word) (r) : (st.setG d x).rk r = st.rk r := by rw [Strand.setG_eq]; rfl
theorem rk_setV (st : Strand) (d : BitVec 4) (x : Row) (r) : (st.setV d x).rk r = st.rk r := rfl

theorem foldl_rg_other {α} (f : Strand → α → Strand) (hf : ∀ st a r, (f st a).rg r = st.rg r) (l : List α) (st : Strand) (r) :
    (l.foldl f st).rg r = st.rg r := by
  induction l generalizing st with
  | nil => rfl
  | cons p t ih => simp only [List.foldl]; rw [ih, hf]
theorem foldl_rv_other {α} (f : Strand → α → Strand) (hf : ∀ st a r, (f st a).rv r = st.rv r) (l : List α) (st : Strand) (r) :
    (l.foldl f st).rv r = st.rv r := by
  induction l generalizing st with
  | nil => rfl
  | cons p t ih => simp only [List.foldl]; rw [ih, hf]
theorem foldl_rk_other {α} (f : Strand → α → Strand) (hf : ∀ st a r, (f st a).rk r = st.rk r) (l : List α) (st : Strand) (r) :
    (l.foldl f st).rk r = st.rk r := by
  induction l generalizing st with
  | nil => rfl
  | cons p t ih => simp only [List.foldl]; rw [ih, hf]

theorem Strand.settle_rg (st : Strand) (o : OutOp) (r) : (st.settle o).rg r = (o.gw.foldl (fun x p => x.setG p.1 p.2) st).rg r := by
  show Strand.rg (o.kw.foldl (fun x p => x.setK p.1 p.2) (o.vw.foldl (fun x p => x.setV p.1 p.2) (o.gw.foldl (fun x p => x.setG p.1 p.2) st))) r = _
  rw [foldl_rg_other _ (fun st a r => rg_setK st _ _ r), foldl_rg_other _ (fun st a r => rg_setV st _ _ r)]
theorem Strand.settle_rv (st : Strand) (o : OutOp) (r) : (st.settle o).rv r = (o.vw.foldl (fun x p => x.setV p.1 p.2) st).rv r := by
  show Strand.rv (o.kw.foldl (fun x p => x.setK p.1 p.2) (o.vw.foldl (fun x p => x.setV p.1 p.2) (o.gw.foldl (fun x p => x.setG p.1 p.2) st))) r = _
  rw [foldl_rv_other _ (fun st a r => rv_setK st _ _ r)]
  have : ∀ (l : List (BitVec 4 × Row)) (a b : Strand), (a.v = b.v) → (l.foldl (fun x p => x.setV p.1 p.2) a).v = (l.foldl (fun x p => x.setV p.1 p.2) b).v := by
    intro l; induction l with
    | nil => intro a b h; exact h
    | cons p t ih => intro a b h; exact ih _ _ (by simp [Strand.setV, h])
  exact Strand.rv_congr _ _ (this _ _ _ (by rw [foldl_setG_eq])) _
theorem Strand.settle_rk (st : Strand) (o : OutOp) (r) : (st.settle o).rk r = (o.kw.foldl (fun x p => x.setK p.1 p.2) st).rk r := by
  show Strand.rk (o.kw.foldl (fun x p => x.setK p.1 p.2) (o.vw.foldl (fun x p => x.setV p.1 p.2) (o.gw.foldl (fun x p => x.setG p.1 p.2) st))) r = _
  have : ∀ (l : List (BitVec 3 × Pred)) (a b : Strand), (a.k = b.k) → (l.foldl (fun x p => x.setK p.1 p.2) a).k = (l.foldl (fun x p => x.setK p.1 p.2) b).k := by
    intro l; induction l with
    | nil => intro a b h; exact h
    | cons p t ih => intro a b h; exact ih _ _ (by show (a.setK p.1 p.2).k = (b.setK p.1 p.2).k; unfold Strand.setK; split <;> simp [h])
  exact Strand.rk_congr _ _ (this _ _ _ (by rw [foldl_setV_eq, foldl_setG_eq])) _

/-- Settled operations of which each has at most one result of a kind, all of them equal. -/
theorem foldl_settle (o : OutOp) (hg : o.gw.length ≤ 1) (hv : o.vw.length ≤ 1) (hk : o.kw.length ≤ 1) (l : List OutOp)
    (hl : ∀ x ∈ l, x = o) (hne : l ≠ []) (st : Strand) :
    let y := l.foldl Strand.settle st
    y = { st with g := y.g, v := y.v, k := y.k, fflags := st.fflags ||| o.flags } ∧ (∀ r, r ∉ o.gw.map (·.1) → y.rg r = st.rg r)
      ∧ (∀ r, r ∉ o.vw.map (·.1) → y.rv r = st.rv r) ∧ (∀ r, r ∉ o.kw.map (·.1) → y.rk r = st.rk r)
      ∧ (∀ p ∈ o.gw, y.holdsG p.1 p.2) ∧ (∀ p ∈ o.vw, y.rv p.1 = p.2) ∧ (∀ p ∈ o.kw, y.holdsK p.1 p.2) := by
  have one : ∀ st : Strand, let y := st.settle o
    y = { st with g := y.g, v := y.v, k := y.k, fflags := st.fflags ||| o.flags } ∧ (∀ r, r ∉ o.gw.map (·.1) → y.rg r = st.rg r)
      ∧ (∀ r, r ∉ o.vw.map (·.1) → y.rv r = st.rv r) ∧ (∀ r, r ∉ o.kw.map (·.1) → y.rk r = st.rk r)
      ∧ (∀ p ∈ o.gw, y.holdsG p.1 p.2) ∧ (∀ p ∈ o.vw, y.rv p.1 = p.2) ∧ (∀ p ∈ o.kw, y.holdsK p.1 p.2) := by
    intro st
    refine ⟨Strand.settle_eq st o, ?_, ?_, ?_, ?_, ?_, ?_⟩
    · intro r hr; rw [Strand.settle_rg]
      rcases h : o.gw with _ | ⟨⟨g, x⟩, _ | _⟩
      · rfl
      · simp [h] at hr; simp [Strand.rg_setG, hr]
      · simp [h] at hg
    · intro r hr; rw [Strand.settle_rv]
      rcases h : o.vw with _ | ⟨⟨g, x⟩, _ | _⟩
      · rfl
      · simp [h] at hr; simp [Strand.rv_setV, hr]
      · simp [h] at hv
    · intro r hr; rw [Strand.settle_rk]
      rcases h : o.kw with _ | ⟨⟨g, x⟩, _ | _⟩
      · rfl
      · simp [h] at hr; simp [Strand.rk_setK, hr]
      · simp [h] at hk
    · intro p hp; unfold Strand.holdsG; rw [Strand.settle_rg]
      rcases h : o.gw with _ | ⟨⟨g, x⟩, _ | _⟩
      · simp [h] at hp
      · simp [h] at hp; subst hp; simp only [List.foldl, Strand.rg_setG]; by_cases hd : g = 0#5 <;> simp [hd]
      · simp [h] at hg
    · intro p hp; rw [Strand.settle_rv]
      rcases h : o.vw with _ | ⟨⟨g, x⟩, _ | _⟩
      · simp [h] at hp
      · simp [h] at hp; subst hp; simp [Strand.rv_setV]
      · simp [h] at hv
    · intro p hp; unfold Strand.holdsK; rw [Strand.settle_rk]
      rcases h : o.kw with _ | ⟨⟨g, x⟩, _ | _⟩
      · simp [h] at hp
      · simp [h] at hp; subst hp; simp only [List.foldl, Strand.rk_setK]; by_cases hd : g = 0#3 <;> simp [hd, Strand.rk]
      · simp [h] at hk
  induction l generalizing st with
  | nil => exact absurd rfl hne
  | cons x t ih =>
    have hx : x = o := hl x (by simp)
    subst hx
    by_cases ht : t = []
    · subst ht; exact one st
    · obtain ⟨e, a1, a2, a3, b1, b2, b3⟩ := ih (fun y hy => hl y (by simp [hy])) ht (st.settle x)
      obtain ⟨f, c1, c2, c3, _⟩ := one st
      have hfl : (st.settle x).fflags ||| x.flags = st.fflags ||| x.flags := by
        rw [f]; simp only; rw [BitVec.or_assoc, BitVec.or_self]
      refine ⟨?_, fun r hr => (a1 r hr).trans (c1 r hr), fun r hr => (a2 r hr).trans (c2 r hr), fun r hr => (a3 r hr).trans (c3 r hr), b1, b2, b3⟩
      simp only [List.foldl]
      rw [e, hfl, f]

theorem filter_tablePlace (m : Table β) (k : Nat) (v : β) (hm : ∀ p ∈ m, p.1 ≠ k) :
    (tablePlace m k v).filter (fun p => p.1 ≠ k) = m := by
  induction m with
  | nil => simp [tablePlace]
  | cons p t ih =>
    obtain ⟨k', v'⟩ := p
    have hk : k' ≠ k := hm (k', v') (by simp)
    have ht : t.filter (fun p => p.1 ≠ k) = t := by
      rw [List.filter_eq_self]; intro q hq; simpa using hm q (by simp [hq])
    by_cases hlt : k < k'
    · simp only [tablePlace, hlt, if_true, List.filter_cons]; simp [hk]
      simpa using ht
    · simp only [tablePlace, hlt, if_false, List.filter_cons]; simp [hk]
      simpa using ih (fun q hq => hm q (by simp [hq]))

/-- A second write to a key replaces the first. -/
theorem tableSet_tableSet [DecidableEq β] (d : β) (m : Table β) (k : Nat) (v w : β) :
    tableSet d (tableSet d m k v) k w = tableSet d m k w := by
  have h : (tableSet d m k v).filter (fun p => p.1 ≠ k) = m.filter (fun p => p.1 ≠ k) := by
    unfold tableSet
    simp only
    split
    · rw [List.filter_filter]; simp
    · exact filter_tablePlace _ _ _ (fun p hp => by simpa using (List.mem_filter.mp hp).2)
  unfold tableSet at h ⊢
  simp only at h ⊢
  rw [h]

theorem State.modStrand_modStrand (s : State) (k : Nat) (f g : Strand → Strand) :
    (s.modStrand k f).modStrand k g = s.modStrand k (fun st => g (f st)) := by
  unfold State.modStrand State.setStrand State.strand
  simp only [tableGet_set_self, tableSet_tableSet]

theorem State.progress_modStrand (s : State) (h k : Nat) (g : Strand → Strand) :
    (s.progress h).modStrand k g = (s.modStrand k g).progress h := rfl

theorem State.modStrand_set (s : State) (k : Nat) (f : Strand → Strand) (v : Strand) :
    (s.modStrand k f).setStrand k v = s.modStrand k (fun _ => v) := by
  rw [show (s.modStrand k f).setStrand k v = (s.modStrand k f).modStrand k (fun _ => v) from rfl, State.modStrand_modStrand]

theorem State.performOut_none (s : State) (k : Nat) (o : OutOp) (h : o.stuck = false) : s.performOut k o = s := by
  unfold State.performOut; simp [h]

theorem foldl_performOut (l : List OutOp) (h : ∀ o ∈ l, o.stuck = false) (s : State) (k : Nat) :
    l.foldl (fun x o => x.performOut k o) s = s := by
  induction l generalizing s with
  | nil => rfl
  | cons o t ih =>
    simp only [List.foldl]
    rw [State.performOut_none s k o (h o (by simp))]; exact ih (fun x hx => h x (by simp [hx])) s

/-- Nothing is performed where every operation the test selects has been. -/
theorem State.force_performed (s : State) (k : Nat) (p : OutOp → Bool) (h : ∀ o ∈ (s.strand k).out, p o = true → o.stuck = false) :
    s.force k p = s :=
  foldl_performOut _ (fun o ho => h o (List.mem_filter.mp ho).1 (List.mem_filter.mp ho).2) s k

/-- Operations that are all equal to one performed one, with flags that do not trap, complete together. -/
theorem State.completeOps_same (s : State) (k : Nat) (op : OutOp) (ha : op.stuck = false) (hf : op.flags &&& (s.strand k).fen = 0#6) :
    s.completeOps k (fun x => decide (x = op)) =
      (s.setStrand k { ((s.strand k).out.filter (fun x => decide (x = op))).foldl Strand.settle (s.strand k) with
        out := (s.strand k).out.filter (fun x => !decide (x = op)) }, false) := by
  unfold State.completeOps
  rw [State.force_performed s k _ (by intro o _ ho; simp at ho; rw [ho]; exact ha)]
  have e : ∀ o : OutOp, (decide (o = op) && !o.stuck) = decide (o = op) := by
    intro o
    by_cases h : o = op
    · subst h; simp [ha]
    · simp [h]
  simp only [e]
  rw [if_neg]
  intro h
  simp only [List.any_eq_true, List.mem_filter, decide_eq_true_eq] at h
  obtain ⟨o, ⟨_, rfl⟩, h⟩ := h
  simp [OutOp.traps, hf] at h

/-- ISSUING AN OPERATION (R149–R151), where nothing it raises traps and it is performed or has a window. -/
theorem State.issueLong_issued (s : State) (lam : Nat) (l : BitVec 4) (o : OutOp) (hg : o.gw.length ≤ 1) (hv : o.vw.length ≤ 1)
    (hk : o.kw.length ≤ 1) (hf : s.quietFlags l o.flags) (ha : l ≠ 0#4 ∨ o.access = none) (he : o.elems = []) :
    s.onlyStrand (s.issueLong s.cur lam l o) ∧ s.issued (s.issueLong s.cur lam l o) lam l o.gw o.vw o.kw o.flags o.access := by
  by_cases hl : l = 0#4
  · subst hl
    have ha' : o.access = none := by rcases ha with h | h; exact absurd rfl h; exact h
    have hf' : o.flags &&& s.me.fen = 0#6 := by rcases hf with h | h; exact absurd rfl h; exact h
    unfold State.issueLong
    simp only [if_true]
    set op : OutOp := { o with pc := (s.strand s.cur).pc, window := (0#4).toNat, doneAt := s.cycle + lam } with hop
    rw [State.retireWith, State.progress_modStrand, State.modStrand_modStrand]
    set y : Strand := { s.me.advance.done s.cycle with out := (s.me.advance.done s.cycle).out ++ [op] } with hy
    set u := (s.modStrand s.cur (fun st => { (id st).advance.done s.cycle with out := ((id st).advance.done s.cycle).out ++ [op] })).progress
      (jobOf (ctxOf s.cur)) with hu
    have hyu : u.strand s.cur = y := s.progress_then _ _
    have hyo : y.out = (s.me.out.map (fun p => { p with window := p.window - 1 })) ++ [op] := by simp [hy, Strand.done]
    rw [State.completeOps_same u s.cur op (by simp [OutOp.stuck, hop, ha', he]) (by rw [hyu]; simpa [hy] using hf')]
    simp only [hyu]
    set L := y.out.filter (fun x => decide (x = op)) with hL
    have hL1 : ∀ x ∈ L, x = op := fun x hx => by simpa using (List.mem_filter.mp hx).2
    have hL2 : L ≠ [] := List.ne_nil_of_mem (List.mem_filter.mpr ⟨by rw [hyo]; simp, by simp⟩ : op ∈ L)
    obtain ⟨e, a1, a2, a3, b1, b2, b3⟩ := foldl_settle op hg hv hk L hL1 hL2 y
    set z := L.foldl Strand.settle y with hz
    clear_value z
    rw [hu, show ∀ v, ((s.modStrand s.cur (fun st => { (id st).advance.done s.cycle with out := ((id st).advance.done s.cycle).out ++ [op] })).progress
      (jobOf (ctxOf s.cur))).setStrand s.cur v = ((s.modStrand s.cur (fun st => { (id st).advance.done s.cycle with
        out := ((id st).advance.done s.cycle).out ++ [op] })).setStrand s.cur v).progress (jobOf (ctxOf s.cur)) from fun _ => rfl,
      State.modStrand_set]
    unfold State.delay
    rw [State.progress_modStrand, State.modStrand_modStrand]
    refine ⟨s.progress_only _ _, ?_⟩
    unfold State.issued
    rw [s.progress_then]
    simp only [if_true]
    set q : Strand := { z with out := y.out.filter (fun x => !decide (x = op)) } with hq
    have hw : ∀ w : Strand, w = (if lam ≤ 16 ∨ q.state ≠ .ready then { q with readyAt := Nat.max q.readyAt (s.cycle + lam) }
        else { q with state := (if o.kind = .long ∨ o.kind = .vector then StrandState.engwait else .memwait), wait := .timed,
                      readyAt := Nat.max q.readyAt (s.cycle + lam) }) →
        w.special = q.special ∧ w.g = q.g ∧ w.v = q.v ∧ w.k = q.k ∧ w.pc = q.pc ∧ w.loops = q.loops ∧ w.lstat = q.lstat ∧ w.fflags = q.fflags
          ∧ s.cycle + lam ≤ w.readyAt := by
      intro w h; rw [h]; split <;> exact ⟨rfl, rfl, rfl, rfl, rfl, rfl, rfl, rfl, Nat.le_max_right _ _⟩
    obtain ⟨c1, c2, c3, c4, c5, c6, c7, c8, c9⟩ := hw _ rfl
    obtain ⟨⟨h1, h2, h3, h4⟩, h5⟩ := Strand.frame_done s.me s.cycle
    have ez : z.special = s.me.special ∧ z.pc = s.me.advance.pc ∧ z.loops = s.me.advance.loops ∧ z.lstat = s.me.advance.lstat
        ∧ z.fflags = s.me.fflags ||| o.flags := by
      rw [e]; exact ⟨h1, rfl, rfl, rfl, by simp [hy, hop]⟩
    have g1 : ∀ r, q.rg r = z.rg r := fun _ => rfl
    have g2 : ∀ r, q.rv r = z.rv r := fun _ => rfl
    have g3 : ∀ r, q.rk r = z.rk r := fun _ => rfl
    have y1 : ∀ r, y.rg r = s.me.rg r := fun r => h2 r (by simp)
    have y2 : ∀ r, y.rv r = s.me.rv r := fun r => h3 r (by simp)
    have y3 : ∀ r, y.rk r = s.me.rk r := fun r => h4 r (by simp)
    refine ⟨⟨c5.trans ez.2.1, c6.trans ez.2.2.1, c7.trans ez.2.2.2.1⟩,
      ⟨c1.trans ez.1, fun r hr => ?_, fun r hr => ?_, fun r hr => ?_⟩, fun p hp => ?_, fun p hp => ?_, fun p hp => ?_,
      c8.trans ez.2.2.2.2, c9⟩
    · exact (Strand.rg_congr _ q c2 r).trans ((g1 r).trans ((a1 r hr).trans (y1 r)))
    · exact (Strand.rv_congr _ q c3 r).trans ((g2 r).trans ((a2 r hr).trans (y2 r)))
    · exact (Strand.rk_congr _ q c4 r).trans ((g3 r).trans ((a3 r hr).trans (y3 r)))
    · exact ((Strand.rg_congr _ q c2 p.1).trans (g1 p.1)).trans (b1 p hp)
    · exact ((Strand.rv_congr _ q c3 p.1).trans (g2 p.1)).trans (b2 p hp)
    · exact ((Strand.rk_congr _ q c4 p.1).trans (g3 p.1)).trans (b3 p hp)
  · unfold State.issueLong
    simp only [hl, if_false]
    set op : OutOp := { o with pc := (s.strand s.cur).pc, window := l.toNat, doneAt := s.cycle + lam } with hop
    have e : ((s.retireWith s.cur id).modStrand s.cur (fun st => { st with out := st.out ++ [op] })) =
        (s.modStrand s.cur (fun st => { st.advance.done s.cycle with out := (st.advance.done s.cycle).out ++ [op] })).progress (jobOf (ctxOf s.cur)) := by
      rw [State.retireWith, State.progress_modStrand, State.modStrand_modStrand]; rfl
    rw [e]
    refine ⟨s.progress_only _ _, ?_⟩
    unfold State.issued
    rw [s.progress_then]
    simp only [hl, if_false]
    obtain ⟨⟨h1, h2, h3, h4⟩, h5⟩ := Strand.frame_done s.me s.cycle
    refine ⟨h5, ⟨h1, h2, h3, h4⟩, by simp, op, ?_, rfl, rfl, rfl, rfl, rfl, rfl, rfl, rfl, he⟩
    simp [Strand.done]
end Sys2Proof.Machine
end

