-- ==== Sys2Proof/Laws/Access.lean ====
section
/-! SUPPORT. Accesses (R183, R194): one that meets no earlier access still outstanding and whose place is reachable is performed at once. -/

namespace Sys2Proof.Machine

theorem State.withTlb_tiles (s : State) (c : Nat) (tlb) : s.withTlb c tlb = { s with tiles := (s.withTlb c tlb).tiles } := by
  unfold State.withTlb; split <;> rfl

theorem State.performed_of (s : State) (h : s.performed) (p : OutOp → Bool) : s.force s.cur p = s := by
  apply State.force_performed
  intro o ho _
  have := h
  unfold State.performed State.unperformed at this
  rw [List.any_eq_false] at this
  simpa using this o ho

/-- An access that meets no earlier one and reaches its place. -/
theorem State.accessAt_here (s : State) (lam : Nat) (r : Req) (a : Access) (h : s.performed)
    (hr : s.reachable a.loc a.op.bytes) :
    s.accessAt s.cur lam r a = s.accessHere s.cur lam r a := by
  have hf : ∀ p, s.force s.cur p = s := s.performed_of h
  have hn : (s.strand s.cur).out.any (fun o => o.before a && (o.waits || !s.joins s.cur r a)) = false := by
    rw [List.any_eq_false]; intro o ho
    have := h; unfold State.performed State.unperformed at this; rw [List.any_eq_false] at this
    have := this o ho
    have h0 : o.pending = [] := by
      simp only [OutOp.stuck, Bool.or_eq_true, not_or, Bool.not_eq_true, Option.isSome_eq_false_iff, Option.isNone_iff_eq_none,
        Bool.not_eq_false', List.isEmpty_iff] at this
      simp [OutOp.pending, this.1, this.2]
    unfold OutOp.before; simp [h0]
  obtain ⟨hl, _, hr⟩ := hr
  unfold State.accessAt
  simp only [hf, hn, Bool.false_eq_true, if_false, hl]
  rcases h2 : a.loc with ⟨c, o⟩ | ⟨k, b⟩ | ⟨p, k⟩ | ⟨p, k⟩ <;> simp only [h2] at hr ⊢
  · by_cases hc : c = ctxOf s.cur
    · simp [hc]
    · simp only [hc, if_false, false_or] at hr ⊢; rw [hr]
  · simp [hr]

end Sys2Proof.Machine
end

