-- ==== Sys2Proof/Laws/Bits.lean ====
section
/-! SUPPORT. Fields of words put together from fields: what the decoder reads from what the encoder packs. -/

namespace Sys2Proof

theorem fieldAt_append_lo {m n : Nat} (x : BitVec m) (y : BitVec n) (lo w : Nat) (h : lo + w ≤ n) :
    fieldAt lo w (x ++ y) = fieldAt lo w y := by
  apply BitVec.eq_of_getLsbD_eq; intro i hi
  simp [fieldAt, BitVec.getLsbD_append, hi]; intro; omega

theorem fieldAt_append_hi {m n : Nat} (x : BitVec m) (y : BitVec n) (lo w : Nat) (h : n ≤ lo) :
    fieldAt lo w (x ++ y) = fieldAt (lo - n) w x := by
  apply BitVec.eq_of_getLsbD_eq; intro i hi
  simp [fieldAt, BitVec.getLsbD_append, hi]
  have : ¬ (lo + i < n) := by omega
  simp [this]; congr 1; omega

theorem fieldAt_full {n : Nat} (y : BitVec n) : fieldAt 0 n y = y := by
  apply BitVec.eq_of_getLsbD_eq; intro i hi
  simp [fieldAt, hi]

theorem natAt_eq {n : Nat} (lo w : Nat) (x : BitVec n) : natAt lo w x = (fieldAt lo w x).toNat := by
  simp [natAt, fieldAt]

end Sys2Proof
end

