-- ==== Sys2Proof/Laws/Memory.lean ====
section
/-! SUPPORT. The laws of the memories: reset has them in their canonical form, every operation keeps it, in the scratchpads too, and a byte
reads after a write as written there and as before elsewhere. -/

namespace Sys2Proof.Machine

/-- Every memory is in its canonical form, those of the contexts among them. -/
def State.memsWf (s : State) : Prop :=
  s.memWf = true ∧ ∀ c, Memory.wf (s.ctx c).spm = true ∧ tableWf true (s.ctx c).spfe = true

theorem reset_memsWf : State.reset.memsWf := ⟨rfl, fun _ => ⟨rfl, rfl⟩⟩

/-- What does not touch the memories keeps their form. -/
theorem State.memsWf_of (s t : State) (h : s.memsWf) (e : t = { s with
    strands := t.strands, jobs := t.jobs, tiles := t.tiles, unfenced := t.unfenced, waiters := t.waiters }) : t.memsWf := by
  rw [e]; exact h

/-! ### Writes keep the form -/

theorem State.setByte_memsWf (s : State) (l : Loc) (b : Byte) (h : s.memsWf) : (s.setByte l b).memsWf := by
  obtain ⟨h1, h2⟩ := h
  simp only [State.memWf, Memory.wf, Bool.and_eq_true] at h1
  obtain ⟨⟨⟨ha, hb⟩, hc⟩, hd⟩ := h1
  cases l with
  | spm c o =>
    refine ⟨by simp [State.setByte, State.memWf, Memory.wf, State.modCtx, State.setCtx, ha, hb, hc, hd], fun k => ?_⟩
    simp only [State.setByte, State.ctx_modCtx]
    split
    · exact ⟨tableSet_wf _ _ _ _ (h2 c).1, (h2 c).2⟩
    · exact h2 k
  | rim a x => exact ⟨by simp [State.setByte, State.memWf, Memory.wf, tableSet_wf _ _ _ _ ha, hb, hc, hd], h2⟩
  | host p a => exact ⟨by simp [State.setByte, State.memWf, Memory.wf, tableSet_wf _ _ _ _ hc, ha, hb, hd], h2⟩
  | peer p a => exact ⟨by simp [State.setByte, State.memWf, Memory.wf, tableSet_wf _ _ _ _ hd, ha, hb, hc], h2⟩

theorem State.setFull_memsWf (s : State) (l : Loc) (f : Bool) (h : s.memsWf) : (s.setFull l f).memsWf := by
  obtain ⟨h1, h2⟩ := h
  simp only [State.memWf, Memory.wf, Bool.and_eq_true] at h1
  obtain ⟨⟨⟨ha, hb⟩, hc⟩, hd⟩ := h1
  cases l with
  | spm c o =>
    refine ⟨by simp [State.setFull, State.memWf, Memory.wf, State.modCtx, State.setCtx, ha, hb, hc, hd], fun k => ?_⟩
    simp only [State.setFull, State.ctx_modCtx]
    split
    · exact ⟨(h2 c).1, tableSet_wf _ _ _ _ (h2 c).2⟩
    · exact h2 k
  | rim a x => exact ⟨by simp [State.setFull, State.memWf, Memory.wf, tableSet_wf _ _ _ _ hb, ha, hc, hd], h2⟩
  | host p a => exact ⟨by simp [State.setFull, State.memWf, Memory.wf, ha, hb, hc, hd], h2⟩
  | peer p a => exact ⟨by simp [State.setFull, State.memWf, Memory.wf, tableSet_wf _ _ _ _ hd, ha, hb, hc], h2⟩

theorem State.putNat_memsWf (s : State) (l : Loc) (n v : Nat) (h : s.memsWf) : (s.putNat l n v).memsWf := by
  induction n generalizing s l v with
  | zero => exact h
  | succ n ih => exact ih _ _ _ (s.setByte_memsWf _ _ h)

theorem State.putMasked_memsWf (s : State) (l : Loc) (bs : List (Bool × Byte)) (h : s.memsWf) : (s.putMasked l bs).memsWf := by
  induction bs generalizing s l with
  | nil => exact h
  | cons p t ih =>
    obtain ⟨m, b⟩ := p
    simp only [State.putMasked]
    split
    · exact ih _ _ (s.setByte_memsWf _ _ h)
    · exact ih _ _ h

theorem State.setFulls_memsWf (s : State) (l : Loc) (n : Nat) (f : Bool) (h : s.memsWf) : (s.setFulls l n f).memsWf := by
  unfold State.setFulls
  generalize List.range n = is
  induction is generalizing s with
  | nil => exact h
  | cons i t ih => exact ih _ (s.setFull_memsWf _ _ h)

theorem State.noteWrite_memsWf (s : State) (l : Loc) (w : Nat) (u e : Bool) (h : s.memsWf) : (s.noteWrite l w u e).memsWf := by
  unfold State.noteWrite
  dsimp only
  generalize tableSet [] s.unfenced l.wordKey _ = x
  generalize tableSet [] s.unfenced l.wordKey _ = y
  have hx : ({ s with unfenced := x } : State).memsWf := h
  have hy : ({ s with unfenced := y } : State).memsWf := h
  cases l <;> cases e <;> by_cases hu : s.unfenced = [] <;> simp [hu] <;> assumption

theorem State.noteJoints_memsWf (s : State) (l : Loc) (n : Nat) (h : s.memsWf) : (s.noteJoints l n).memsWf := by
  unfold State.noteJoints
  split
  · generalize List.range 16 = is
    induction is generalizing s with
    | nil => exact h
    | cons i t ih =>
      apply ih
      dsimp only
      split
      · exact h
      · exact h
  · exact h

theorem State.writeNat_memsWf (s : State) (l : Loc) (n v w : Nat) (h : s.memsWf) : (s.writeNat l n v w).memsWf :=
  State.noteJoints_memsWf _ _ _ (State.putNat_memsWf _ _ _ _ (s.noteWrite_memsWf _ _ _ _ h))

theorem State.putRing_memsWf (s : State) (b : Bool) (p a n v : Nat) (h : s.memsWf) : (s.putRing b p a n v).memsWf := by
  unfold State.putRing
  split
  · exact s.putNat_memsWf _ _ _ h
  · exact h

/-! ### Read after write -/

theorem Loc.cell_spm {c o c' o' : Nat} : (Loc.spm c o).cell = (Loc.spm c' o').cell ↔ c = c' ∧ o = o' := by simp [Loc.cell]

/-- A byte reads as written in its own cell and as before in every other. -/
theorem State.byteAt_setByte (s : State) (l k : Loc) (b : Byte) :
    (s.setByte l b).byteAt k = if k.cell = l.cell then b else s.byteAt k := by
  cases l <;> cases k <;> simp only [State.setByte, State.byteAt, Loc.cell, Prod.mk.injEq, true_and]
  case spm.spm c o c' o' =>
    rw [State.ctx_modCtx]
    by_cases hc : c' = c
    · subst hc; simp [tableGet_set]
    · simp [hc]
  all_goals first | rw [tableGet_set] | rfl

/-- A byte's write leaves every full/empty bit whose cell is another. -/
theorem State.fullAt_setByte (s : State) (l k : Loc) (b : Byte) (h : k.bitCell ≠ l.cell) : (s.setByte l b).fullAt k = s.fullAt k := by
  cases l <;> cases k <;> simp only [State.setByte, State.fullAt] <;> try rfl
  case spm.spm c o c' o' =>
    rw [State.ctx_modCtx]
    by_cases hc : c' = c
    · subst hc; simp
    · simp [hc]
  case peer.peer p a p' a' =>
    rw [tableGet_set_ne]
    intro e; apply h; simp [Loc.bitCell, Loc.cell, e]

/-- Bytes outside those a number is written to read as before. -/
theorem State.byteAt_putNat (s : State) (l k : Loc) (n v : Nat) (h : l.outside n k.cell) : (s.putNat l n v).byteAt k = s.byteAt k := by
  induction n generalizing s l v with
  | zero => rfl
  | succ n ih =>
    simp only [State.putNat]
    rw [ih, State.byteAt_setByte]
    · have h0 := h 0 (by omega)
      have e : (l.plus 0).cell = l.cell := by cases l <;> rfl
      rw [e] at h0
      simp [h0]
    · intro i hi
      have := h (i + 1) (by omega)
      have e : (l.plus (i + 1)) = (l.plus 1).plus i := by cases l <;> simp [Loc.plus, Nat.add_comm, Nat.add_left_comm]
      rw [e] at this; exact this

end Sys2Proof.Machine
end

