-- ==== Sys2Proof/Laws/Trap.lean ====
section
/-! SUPPORT. Taking a trap and returning from one (R217, R218): everything that changes. -/

namespace Sys2Proof.Machine

theorem Strand.abortJoint_eq (st : Strand) (c : BitVec 4) : st.abortJoint c = { st with joint := (st.abortJoint c).joint } := by
  unfold Strand.abortJoint; split <;> rfl

/-- TAKING A TRAP (R217), where no handler is active, TVEC is set and every earlier access has been performed. -/
theorem State.takeTrap_enters (s : State) (cause : Nat) (val resume : Word) (hp : s.performed) (hh : s.me.trap.ha = false) (ht : s.me.trap.tvec ≠ 0#64) :
    s.entersHandler (s.takeTrap s.cur cause val resume) cause val resume := by
  have hj := Strand.abortJoint_eq s.me 7#4
  have e : (s.modStrand s.cur (fun st => st.abortJoint 7#4)).strand s.cur = s.me.abortJoint 7#4 := State.modStrand_then _ _
  have e1 : (s.me.abortJoint 7#4).trap = s.me.trap := by rw [hj]
  have hx : (s.modStrand s.cur (fun st => st.abortJoint 7#4)).sstat s.cur = s.sstat s.cur := by
    unfold State.sstat
    simp only [e]
    rw [hj]; rfl
  have hd : s.dropWaits s.cur = s := by
    unfold State.dropWaits; unfold State.performed State.unperformed at hp; rw [hp]; rfl
  have ht' : s.takeTrap s.cur cause val resume =
      (s.modStrand s.cur (fun st => ((st.abortJoint 7#4).enter cause val resume (s.sstat s.cur)).done s.cycle)).progress (jobOf (ctxOf s.cur)) := by
    unfold State.takeTrap State.takeTrapAt
    simp only [hd, e, e1, hh, ht, if_false, Bool.false_eq_true, hx]
    rw [State.modStrand_modStrand]
  rw [ht']
  unfold State.entersHandler
  rw [State.progress_then]
  refine ⟨s.progress_only _ _, ?_⟩
  dsimp only [Strand.enter, Strand.done]
  rw [hj]
  exact ⟨rfl, rfl, rfl, rfl, rfl, rfl, fun _ => rfl, fun _ => rfl, fun _ => rfl⟩

/-- RETURN FROM A TRAP (R218): the PC goes to TPC, the loop registers and LSTAT come back, HA clears. -/
theorem State.trapReturn_leaves (s : State) : s.onlyStrand (s.trapReturn s.cur) ∧
    s.then (s.trapReturn s.cur) = ({ s.me.leave with pc := s.me.trap.tpc } : Strand).done s.cycle :=
  ⟨s.jumpWith_only _ _, s.jumpWith_then _ _⟩

end Sys2Proof.Machine
end

