-- ==== Sys2Proof/Tests/Slice0.lean ====
section
/-! SUPPORT. Tests of syntax and decoding: for each check of `Instr.wellFormed` a term it refuses, and words written out in the spec with
what they stand for. -/

namespace Sys2Proof.Tests

-- One theorem after the other: kernel evaluations in parallel ask for more threads than the memory limit gives.
set_option Elab.async false

/-! ### Ill-formed terms -/

def illFormedStrand1 : List Instr := [.cmp 1 2 3 10, .fcmp 1 2 3 0 3 0, .fcmp 1 2 3 0 5 0, .ld 1 2 3 0 0 0, .ld 1 2 2 0 0x50 0, .ld 1 2 2 0 0 1, .ldu 1 2 0 3 0 0,
    .ldu 1 2 3 0 0 0, .st 1 2 3 0 0 0, .st 1 2 2 3 0 5, .ldx 1 2 3 3 0 0, .ldx 1 2 3 2 0 5, .ldux 1 2 3 0 3 0, .stx 1 2 3 3 0 0,
    .atomar 1 2 3 1 13 0, .atomar 1 2 3 0 10 0, .atomar 1 2 3 1 0 5, .fence 5, .tfence 6, .bfence 7, .enq 0 4 1, .enq 0 4 7]
def illFormedStrand2 : List Instr := [.vlds 1 2 3 0 1 0 0, .vldg 1 2 3 0 0 0 0, .vsts 1 2 3 0 4 0 0, .vstx 1 2 3 0 7 0 0, .vadd 1 2 3 0 1 0, .vsub 1 2 3 0 4 0,
    .vmul 1 2 3 0 0 0, .vmin 1 2 3 0 6 0, .vmax 1 2 3 0 7 0, .vfadd 1 2 3 0 2 0, .vfsub 1 2 3 0 3 0, .vfmul 1 2 3 0 4 0,
    .vfma 1 2 3 0 5 0, .vfmin 1 2 3 0 6 0, .vfmax 1 2 3 0 7 0, .vfdiv 1 2 3 0 2 0, .vfsqrt 1 2 0 2 0, .vcmp 1 2 3 0 1 0 0,
    .vfcmp 1 2 3 0 2 0 0, .vcvt 1 2 7 0 0 0 0, .vcvt 1 2 0 0 6 0 0, .vcvt 1 2 0 0 2 2 0, .vcvt 1 2 0 0 0 3 0, .vqmxQ 1 2 0 3 0,
    .vqmxX 1 2 0 3 0, .vred 1 2 0 2 0 0, .vred 1 2 0 1 1 0, .vred 1 2 0 0 2 0, .vpres 1 2 6 0 0, .vfill 1 2 7 0 0, .vmka 1 2 12 0 0,
    .vbnd 1 2 3 4 0]

/-- Each strand form with a field its encoding does not accept (R280–R285, R340, R371, R384–R393). -/
theorem test_ill_formed_strand : ∀ i ∈ illFormedStrand1 ++ illFormedStrand2, i.wellFormed = false := by decide +kernel

/-- A header of a queue and an opcode, without a peg. -/
def hdr (queue : BitVec 4) (cop : BitVec 8) : CmdHdr :=
  { peg := false, pegIdx := 0, pegGen := 0, tag := 0, errpost := false, cop := cop, queue := queue, issuer := 0, seq := 0 }

def illFormedHeader1 : List Instr := [Instr.mark (hdr 1 0xF0), .mark (hdr 0 0xF1), .cnop (hdr 9 0xF1), .cpy (hdr 0 0x10) 0 0 1,
    .mark { hdr 0 0xF0 with pegIdx := 1 }, .mark { hdr 0 0xF0 with pegGen := 1 }]

/-- Headers that do not fit: another opcode, another queue, a peg index or generation without CT = 1 (R290, R292). -/
theorem test_ill_formed_header : ∀ i ∈ illFormedHeader1, i.wellFormed = false := by decide +kernel

def illFormedMatrix1 : List Instr := [Instr.mwload (hdr 0 1) 10 0 1, .mwload (hdr 0 1) 1 3 1, .mwload (hdr 0 1) 1 1 8, .mwload (hdr 0 1) 1 0 0, .mwload (hdr 0 1) 1 0 65,
    .mwload (hdr 0 1) 3 1 9, .mwload (hdr 0 1) 3 1 264, .mstream (hdr 0 2) 1 0 0 0, .mclear (hdr 0 4) 0 0, .mclear (hdr 0 4) 0 513]
def illFormedMatrix2 : List Instr := [.mdrain (hdr 0 3) 0 0 0 1 0 0 0 0, .mdrain (hdr 0 3) 0 513 0 1 0 0 0 0, .mdrain (hdr 0 3) 0 1 0 6 0 0 0 0,
    .mdrain (hdr 0 3) 0 1 2 1 0 0 0 0, .mdrain (hdr 0 3) 0 1 0 1 1 0 4 0, .mdrain (hdr 0 3) 0 1 0 1 1 0 0 4]
def illFormedMatrix3 : List Instr := [.bmv (hdr 8 0x40) 0 0 0 0 1 1 0 0 0, .bmv (hdr 8 0x40) 0 0 0 16385 1 1 0 0 0, .bmv (hdr 8 0x40) 0 0 0 1 0 1 0 0 0,
    .bmv (hdr 8 0x40) 0 0 0 1 1 2 0 0 0, .bmvt (hdr 8 0x41) 0 0 0 1 1 8 0 0 0, .bmv (hdr 8 0x40) 0 0 0 1 1 1 1 1 0,
    .bread (hdr 8 0x42) 0 0 0, .bread (hdr 8 0x42) 0 16385 0, .bzero (hdr 8 0x43) 0 0 0]

/-- Each limit of the matrix and bank commands (R401–R404, R419). -/
theorem test_ill_formed_matrix : ∀ i ∈ illFormedMatrix1 ++ illFormedMatrix2 ++ illFormedMatrix3, i.wellFormed = false := by decide +kernel

def illFormedCopy1 : List Instr := [Instr.cpy (hdr 4 0x10) 0 0 0, .cpy2 (hdr 4 0x11) 0 0 0 1 0 0 0 0, .cpy2 (hdr 4 0x11) 0 0 1 0 0 0 0 0, .cpyf (hdr 4 0x12) 0 0 0,
    .cpyf (hdr 4 0x12) 0 4 8, .cpyf (hdr 4 0x12) 0 0 4, .cpyg (hdr 4 0x13) 0 0 2 0 1, .cpyg (hdr 4 0x13) 0 0 0 9 1,
    .cpys (hdr 4 0x14) 0 0 0 0 0, .cpys (hdr 4 0x14) 0 0 33554428 0 2]
def illFormedCopy2 : List Instr := [.cfill (hdr 4 0x15) 0 0 0 0, .cfill (hdr 4 0x15) 0 0 8 3, .cfill (hdr 4 0x15) 0 4 8 1, .cpyi (hdr 4 0x16) 0 0 0 0,
    .cpyi (hdr 4 0x16) 0 0 17 0, .cpyi (hdr 4 0x16) 0 0 8 3, .cpyi (hdr 4 0x16) 0 4 8 2]
def illFormedCopy3 : List Instr := [.chain (hdr 5 0x20) 13 1 1 0 1 0 1, .chain (hdr 5 0x20) 0xE4 1 1 0 1 0 1, .chain (hdr 5 0x20) 0x20 1 1 0 1 0 1,
    .chain (hdr 5 0x20) 0x101 1 1 0 1 0 1, .chain (hdr 5 0x20) 0x1000 1 1 0 1 0 1, .chain (hdr 5 0x20) 1 0 1 0 1 0 1,
    .chain (hdr 5 0x20) 1 1 11 0 1 0 1, .chain (hdr 5 0x20) 1 1 1 0 1 0 0, .chain (hdr 5 0x20) 1 1 1 131071 0 0 65,
    .chain (hdr 5 0x20) 1 1 1 0 131071 0 65, .chain (hdr 5 0x20) 1 1 1 0 1 0 65]
def illFormedCopy4 : List Instr := [.tred (hdr 6 0x30) 0 2 0 0 0 1, .tred (hdr 6 0x30) 0 1 0 4 0 1, .tred (hdr 6 0x30) 0 1 0 0 4 1, .tred (hdr 6 0x30) 0 1 0 0 0 0,
    .tred (hdr 6 0x30) 0 0 0 33554424 0 2, .tbcast (hdr 6 0x31) 4 0 8, .tgath (hdr 6 0x32) 0 0 4 8, .tscat (hdr 6 0x33) 0 0 0,
    .tbcast (hdr 6 0x31) 0 0 4, .tgath (hdr 6 0x32) 0 33554424 0 16]

/-- Each limit of the copy, chain and truss commands (R406, R411, R412, R414). -/
theorem test_ill_formed_copy : ∀ i ∈ illFormedCopy1 ++ illFormedCopy2 ++ illFormedCopy3 ++ illFormedCopy4, i.wellFormed = false := by decide +kernel

def wellFormed1 : List Instr := [Instr.cmp 1 2 3 9, .ld 1 2 2 3 0x4F 0, .ldu 1 2 1 2 5 15, .atomar 1 2 3 1 12 4, .enq 8 31 15,
    .vcvt 1 2 0 0 3 2 0, .mwload (hdr 0 1) 3 1 256, .mclear (hdr 0 4) 511 512, .cpyi (hdr 4 0x16) 0 8 16 1,
    .chain (hdr 5 0x20) 1 1 1 0 0 0 64, .bmv (hdr 8 0x40) 0 0 0 16384 16384 7 0 1 1, .mark (hdr 8 0xF0), .powerGood]

/-- Well-formed terms are not refused. -/
theorem test_well_formed : ∀ i ∈ wellFormed1, i.wellFormed = true := by decide +kernel

/-! ### Words of the spec -/

def scalarWords1 : List (BitVec 32 × Instr) := [(0x04731800#32, Instr.add 7 6 6), (0x07AADC46#32, .divu 26 21 23 6), (0x0AA5B252#32, .fma 10 11 12 1 2), (0x02000000#32, .nop),
    (0x1E60048D#32, .li 6 0x48D), (0x20630ACF#32, .lih 6 6 0xACF), (0x3CE00007#32, .bz 14 7), (0x3E507FFD#32, .bnz 5 0x7FFD),
    (0x41FFFFFB#32, .b 0x1FFFFFB), (0x4406B030#32, .jtab 13 12), (0x46700004#32, .loop 7 0 4), (0x46808002#32, .loop 8 1 2)]
def scalarWords2 : List (BitVec 32 × Instr) := [(0x70030C00#32, .trap 6 3), (0x70000010#32, .eret), (0x70000020#32, .exit), (0x70031C30#32, .spawn 6 7), (0x70638050#32, .qcap 6 7),
    (0x700000A0#32, .step), (0x72A00017#32, .crd 10 0x17), (0x72049009#32, .cwr 9 9), (0x7264200A#32, .cins 6 4 0xA),
    (0x73F00004#32, .crd 31 4)]

/-- Scalar words of R308–R318 and R321–R335. -/
theorem test_scalar_words : ∀ p ∈ scalarWords1 ++ scalarWords2, decodeWord p.1 = .ok p.2 := by decide +kernel

def memoryWords1 : List (BitVec 32 × Instr) := [(0x5063B023#32, Instr.ld 6 7 1 2 2 3), (0x5063DB00#32, .ld 6 7 2 3 0x30 0), (0x54915AE0#32, .st 9 2 2 3 0x2E 0),
    (0x5491F810#32, .jst 9 3 1), (0x5663A020#32, .ldx 6 7 8 0 2 0), (0x58A20000#32, .lde 10 4 0), (0x58521010#32, .stf 5 4 1),
    (0x58AC8800#32, .ldf 10 25 0), (0x58D71800#32, .sts 13 14 0), (0x580CB000#32, .feclr 25 0), (0x5A600008#32, .ldpc 6 8)]
def memoryWords2 : List (BitVec 32 × Instr) := [(0x5C641D10#32, .amoAdd 6 8 7 0 1 0), (0x5C9DDDA0#32, .waiteq 9 27 23 0 0), (0x5E641D93#32, .atomar 6 8 7 1 9 3),
    (0x60000180#32, .fence 3), (0x60000210#32, .tfence 4), (0x60000020#32, .bfence 0), (0x62600010#32, .jclose 6),
    (0x64030000#32, .msgh 6), (0x64048010#32, .msgw 9), (0x64000020#32, .msge), (0x64B00840#32, .recvh 11 2)]
def memoryWords3 : List (BitVec 32 × Instr) := [(0x6688B000#32, .enq 4 8 0xB), (0x66550000#32, .enq 2 0x15 0), (0x69330000#32, .deq 9 0x13), (0x6A860000#32, .qstat 4 6),
    (0x6C028C20#32, .gset 5 3), (0x6C600410#32, .leasef 6 1), (0x6E638000#32, .pega 6 7)]

/-- Memory and synchronisation words of R342–R365. -/
theorem test_memory_words : ∀ p ∈ memoryWords1 ++ memoryWords2 ++ memoryWords3, decodeWord p.1 = .ok p.2 := by decide +kernel

def vectorWords1 : List (BitVec 32 × Instr) := [(0x808C0400#32, Instr.vld 4 6 0 1 0 0), (0x80AEC162#32, .vldg 5 7 6 0 2 1 2), (0x822CE000#32, .vst 1 6 7 0 0 0),
    (0x88246080#32, .vfadd 1 2 3 0 1 0), (0x882468B4#32, .vfma 1 2 3 2 1 4), (0x8C6240E0#32, .vfcmp 3 1 2 0 1 2 0),
    (0x90F02180#32, .vcvt 7 8 1 0 3 0 0), (0x92640100#32, .vqmxQ 3 2 0 2 0), (0x92A60110#32, .vqmxX 5 3 0 2 0),
    (0x94840080#32, .vred 4 2 0 1 0 0), (0x98242000#32, .vpres 1 2 1 0 0)]
def vectorWords2 : List (BitVec 32 × Instr) := [(0x9C28A110#32, .vbnd 1 4 5 2 0), (0x9C0C0000#32, .vlen 6 0), (0x9C320020#32, .vmovGv 1 9 0 0), (0x9C530030#32, .vmovVg 2 9 8 0),
    (0xA0246000#32, .pand 1 2 3), (0xA0468030#32, .pandn 2 3 4)]

/-- Vector and predicate words of R370–R395. -/
theorem test_vector_words : ∀ p ∈ vectorWords1 ++ vectorWords2, decodeWord p.1 = .ok p.2 := by decide +kernel

/-- Words that name no form and words with a reserved bit set (R287, R289). -/
theorem test_refused_words : decodeWord 0x00000000#32 = .illegalOpcode ∧ decodeWord 0xFE000000#32 = .illegalOpcode
    ∧ decodeWord 0x70000011#32 = .reservedBits ∧ decodeWord 0x04731801#32 = .reservedBits ∧ decodeWord 0x66881000#32 = .reservedBits := by
  decide +kernel

/-- The header of the CPY example (R290), the MSTREAM of R402 and the BMV of the bank program, each in its queue. -/
theorem test_command_words :
    decodeCommand {} 4 0 9 (0#64 ++ 0x0000000000001000#64 ++ 0x0000000000000200#64 ++ 0x0000004200031510#64)
      = .badcmd { peg := true, pegIdx := 5, pegGen := 3, tag := 0x42, errpost := false, cop := 0x10, queue := 4, issuer := 0, seq := 9 } 192
    ∧ decodeCommand {} 0 3 0 (0#128 ++ 0x0000000A00000301#64 ++ 0x0000000700000002#64)
      = .mstream { hdr 0 2 with tag := 7, issuer := 3 } 1 3 10 0
    ∧ decodeCommand {} 8 0 0 (0x0000000000820020#64 ++ 0x0020010000080000#64 ++ 0x8000020000400000#64 ++ 0x0000000100000040#64)
      = .bmv { hdr 8 0x40 with tag := 1 } 0x400000 0x40000100 0x40000200 4 8 1 0 0 1 := by decide +kernel

/-- The decoder of the opcode table reads bytes in order. -/
theorem test_table_word : decodeTableWord 32 0x04731800 = some (.add 7 6 6) ∧ decodeTableWord 32 0 = none := by decide +kernel

end Sys2Proof.Tests
end

