-- ==== Sys2Proof/Tests/States.lean ====
section
/-! SUPPORT. Small states for the tests, and what makes the hypotheses of the claims easy to meet in them. -/

namespace Sys2Proof.Tests

-- One theorem after the other: kernel evaluations in parallel ask for more threads than the memory limit gives.
set_option Elab.async false
open Sys2Proof.Machine

/-- The placed job on tile 0, its strand 0 in its slot with nothing set. -/
def run : State := State.reset.placeJob

/-- The same with its strand changed. -/
def withStrand (f : Strand → Strand) : State := run.modStrand run.cur f

/-- The same with a handler, general registers and a further change. -/
def handled (g : Table Word) (f : Strand → Strand := id) : State :=
  withStrand (fun st => f { st with g := g, trap := { tvec := 0x8000000000000100#64 } })

/-- A state with its context changed. -/
def inCtx (s : State) (f : Ctx → Ctx) : State := s.modCtx (ctxOf s.cur) f

theorem tableGet_all (d : β) (m : Table β) (P : β → Prop) (hd : P d) (hm : ∀ p ∈ m, P p.2) (k : Nat) : P (tableGet d m k) := by
  induction m with
  | nil => exact hd
  | cons p t ih =>
    simp only [tableGet]
    split
    · exact hm p (by simp)
    · exact ih (fun q hq => hm q (by simp [hq]))

/-- Where no strand has an open joint and nobody waits, nobody watches a place. -/
theorem unwatched_of (s : State) (l : Loc) (n : Nat) (hw : s.waiters = []) (hj : ∀ p ∈ s.strands, p.2.joint.isOpen = false) :
    s.unwatched l n := by
  refine ⟨by simp [hw], ?_⟩
  cases l with
  | spm c o =>
    intro i _ h
    have := tableGet_all ({} : Strand) s.strands (fun st => st.joint.isOpen = false) rfl hj (strandKey c i)
    rw [State.strand] at h; rw [this] at h; cases h
  | _ => trivial

/-- Where no error has arisen in memory, nobody has one to find. -/
theorem sound_of (s : State) (h : s.env.flaws = []) : s.sound := by
  intro k
  simp [State.flawsAt, h]

theorem clean_of (s : State) (l : Loc) (h : s.env.flaws = []) : s.clean l := fun k _ _ => sound_of s h k

/-- A place of the strand's own scratchpad is reached at once where no joint has locked a word and no error has arisen. -/
theorem reachable_of (s : State) (c o n : Nat) (hc : c = ctxOf s.cur) (hl : s.lockedFor s.cur (.spm c o) n = false) (hf : s.env.flaws = []) :
    s.reachable (.spm c o) n := ⟨hl, clean_of s _ hf, .inl hc⟩

/-- Where the queues are empty, no head waits for a guard. -/
theorem headsMet_of (c : Ctx) (h : c.cmds = []) : c.headsMet := by
  intro q e t hq
  simp [Ctx.cmdList, h, tableGet] at hq

end Sys2Proof.Tests
end

