-- ==== Sys2Proof/Tests/Steps.lean ====
section
/-! SUPPORT. Single steps and single operations whose results the spec's worked examples give (the Examples after R66, R172, R210, R269,
R272, R308, R393). -/

namespace Sys2Proof.Tests

-- One theorem after the other: kernel evaluations in parallel ask for more threads than the memory limit gives.
set_option Elab.async false
open Sys2Proof.Machine

/-- A register of the running strand after one step that runs a word, from the registers given. -/
def regAfter (w : Nat) (g : Table Word) (d : BitVec 5) : Word :=
  let s := State.reset.withFetchWord 32 w
  match step (s.modStrand s.cur (fun st => { st with g := g })) with
  | .next t => (t.strand s.cur).rg d
  | _ => 0#64

/-- R308: the words of its Example, fetched, decoded and executed by the step. -/
theorem test_li_lih_add : regAfter 0x1E60048D [] 6 = 0x48D#64 ∧ regAfter 0x20630ACF [(6, 0x48D#64)] 6 = 0x2468ACF#64 ∧
    regAfter 0x206309AB [(6, 0x2468ACF#64)] 6 = 0x123456789AB#64 ∧ regAfter 0x04731800 [(6, 0x123456789AB#64)] 7 = 0x2468ACF1356#64 := by
  decide +kernel

/-- R271, R272: −2.75 into fp32, bf16, fp16, e4m3, e5m2 and i8, and the last two toward zero. -/
theorem test_conversions : ([1, 3, 2, 4, 5, 8].map (fun f => convert 0 f 0 0#128 0xC006000000000000)) =
      [(0xC0300000, 0#6), (0xC030, 0#6), (0xC180, 0#6), (0xC3, 0#6), (0xC2, fInexact), (0xFD, fInexact)] ∧
    ([5, 8].map (fun f => (convert 0 f 1 0#128 0xC006000000000000).1)) = [0xC1, 0xFE] := by decide +kernel

/-- R271: an absent, NaN, infinite and negative zero fp64 value into e4m3 and i8. -/
theorem test_special_conversions : ([0xFFFFFFFFFFFFFFFF, 0x7FF8000000000000, 0x7FF0000000000000, 0x8000000000000000].map
      (fun c => (convert 0 4 0 0#128 c, convert 0 8 0 0#128 c))) =
    [((0xFF, 0#6), (0x80, 0#6)), ((0x7F, 0#6), (0, fInvalid)), ((0x7E, fOverflow), (0x7F, fOverflow)), ((0x80, 0#6), (0, 0#6))] := by decide +kernel

/-- R268, R269: two product sums in residues, and what each drain mode makes of them. -/
theorem test_residues : let e := addResidues (residues (-5000)) 16129
    residues (-5000) = BitVec.ofNat 34 (1141 + 1144 * 2 ^ 11 + 1147 * 2 ^ 22) ∧ e = BitVec.ofNat 34 (894 + 889 * 2 ^ 11 + 884 * 2 ^ 22) ∧ residueSum e = 11129 ∧
    ([0, 1, 2, 3].map (fun m => (drainEntry .residue m 10 128 0#128 { sum := e, count := 2 } 0).1)) = [0x2B79, 0x15BC, 2, 0x2B79] ∧
    ([0, 1, 2, 3].map (fun m => (drainEntry .residue m 10 128 0#128 {} 0).1)) = [0x80000000, 0x80000000, 0, 0] := by decide +kernel

/-- R65: the line of element (5, 2100) of the bf16 matrix of the Example. -/
theorem test_bank_layout : slotLine 0x8000000040000000#64 (5 * segCount 1 3000 + 2100 / segElements 1) 0 + 104#64 = 0x8000000040001168#64 := by decide +kernel

/-- v2 of the Example of R393: 3.0, −1.25, 0.5, absent, 0, and absent elements. -/
def exampleRow : Row := BitVec.ofNat 2048 ((2 ^ 2048 - 2 ^ 160) + 0xFFFFFFFF * 2 ^ 96 + 0x3F000000 * 2 ^ 64 + 0xBFA00000 * 2 ^ 32 + 0x40400000)

/-- R384, R390: VPRES and the tree of VRED. -/
theorem test_vector_example :
    (match exec (.vpres 1 2 1 0 0) (withStrand (fun st => { st with v := [(2, exampleRow)] })) with
     | .next t => ((t.completeOps t.cur (fun _ => true)).1.me.rk 1) == 0xF0FFF#256 | _ => false) = true ∧
    (match exec (.vred 4 2 0 1 0 0) (withStrand (fun st => { st with v := [(2, exampleRow)] })) with
     | .next t => ((t.completeOps t.cur (fun _ => true)).1.me.rv 4) == BitVec.ofNat 2048 (0x40100000 + 4 * 2 ^ 64) | _ => false) = true := by decide +kernel

/-- R172, R360: PEGA g6, g7 with g7 = 3, then the first PEGV, leave entry 0 as the Example shows. -/
theorem test_pegs :
    (match exec (.pega 6 7) (handled [(7, 3#64)]) with
     | .next t => t.me.rg 6 == 0x100000000#64 &&
        (match exec (.pegv 8 6) t with
         | .next u => u.me.rg 8 == 0x100000000#64 && ((u.ctx placedCtx).peg 0).arrived == 1 && ((u.ctx placedCtx).peg 0).expect == 3 && ((u.ctx placedCtx).peg 0).phase == 0#16
         | _ => false)
     | _ => false) = true := by decide +kernel

end Sys2Proof.Tests
end

