-- ==== Sys2Proof/Tests/Witness.lean ====
section
/-! SUPPORT. For the claims about strand instructions: states and operands that meet the hypotheses of each clause together. -/

namespace Sys2Proof.Tests

-- One theorem after the other: kernel evaluations in parallel ask for more threads than the memory limit gives.
set_option Elab.async false
open Sys2Proof.Machine

/-! ### Scalar instructions -/

theorem wit_IntegerResults : ∃ (s : State) (i : Instr) (d : BitVec 5) (x : Word), IntResult s.me i d x := ⟨run, _, _, _, .add 7 6 6⟩

theorem wit_ProductsAndQuotients :
    (∃ (s : State) (i : Instr) (d : BitVec 5) (l : BitVec 4) (lam : Nat) (x : Word), WideResult s.me i d l lam x) ∧
    (∃ (s : State) (i : Instr), DivisorOf s.me i 0#64 ∧ s.trapReady) :=
  ⟨⟨run, _, _, _, _, _, .mul 7 6 6 15⟩, ⟨handled [], .div 1 2 3 0, .div 1 2 3 0, by unfold State.trapReady; decide +kernel⟩⟩

theorem wit_FloatingPoint :
    (∃ (s : State) (i : Instr) (d : BitVec 5) (l : BitVec 4) (lam x : Nat) (f : Flags), FloatResult s.me i d l lam (x, f) ∧ s.quietFlags l f) ∧
    (∃ (s : State) (i : Instr) (d : BitVec 5) (lam x : Nat) (f : Flags), FloatResult s.me i d 0#4 lam (x, f) ∧ f &&& s.me.fen ≠ 0#6 ∧ s.trapReady) := by
  let s := handled [(1, 0x3FF0000000000000#64)] (fun st => { st with fen := 0x3F#6 })
  exact ⟨⟨run, _, _, _, _, _, _, .fadd 1 2 3 0 0, by unfold State.quietFlags; decide +kernel⟩,
    ⟨s, _, _, _, _, _, .fdiv 3 1 2 0 0, by decide +kernel, by unfold State.trapReady; decide +kernel⟩⟩

theorem wit_BranchesAndJumps :
    (∃ (s : State) (i : Instr) (taken : Bool) (target : Word) (links : List (BitVec 5 × Word)), BranchOf s.me i taken target links) ∧
    (∃ (s : State) (i : Instr) (target : Word) (links : List (BitVec 5 × Word)), JumpOf s.me i target links ∧ target.toNat % 4 = 0) ∧
    (∃ (s : State) (i : Instr) (target : Word) (links : List (BitVec 5 × Word)), JumpOf s.me i target links ∧ target.toNat % 4 ≠ 0 ∧ s.trapReady) :=
  ⟨⟨run, _, _, _, _, .call 5⟩, ⟨run, _, _, _, .jr 3, by decide +kernel⟩,
    ⟨handled [(3, 6#64)], _, _, _, .callr 3, by decide +kernel, by unfold State.trapReady; decide +kernel⟩⟩

/-- A table of one entry at 0x100 of the scratchpad, asked for entry 0 and for entry 1. -/
theorem wit_TableJumpsGo : let s := fun n => inCtx (handled [(6, 0x100#64), (7, n)]) (fun c => { c with spm := [(0x100, 1#8), (0x104, 8#8)] })
    let need : Need := { rd := true, size := 4, align := 4 }
    (∀ n ∈ [0#64, 1#64], (s n).resolve (ctxOf (s n).cur) ((s n).me.spill false) need ((s n).me.rg 6) = .at (.spm placedCtx 0x100) {}
      ∧ (s n).performed ∧ (s n).reachable (.spm placedCtx 0x100) 4) ∧
    (s 1#64).loadNat (.spm placedCtx 0x100) 4 (s 1#64).cur ≤ ((s 1#64).me.rg 7).toNat ∧
    ((s 0#64).me.rg 7).toNat < (s 0#64).loadNat (.spm placedCtx 0x100) 4 (s 0#64).cur ∧
    ((s 0#64).withTlb placedCtx {}).resolve placedCtx ((s 0#64).me.spill false) need (BitVec.ofNat 64 (((s 0#64).me.rg 6).toNat + 4 + 4 * 0))
      = .at (.spm placedCtx 0x104) {} ∧ (s 0#64).reachable (.spm placedCtx 0x104) 4 := by
  refine ⟨?_, by decide +kernel, by decide +kernel, by decide +kernel, reachable_of _ _ _ _ (by decide +kernel) (by decide +kernel) (by decide +kernel)⟩
  intro n h
  simp only [List.mem_cons, List.not_mem_nil, or_false] at h
  rcases h with rfl | rfl <;> exact ⟨by decide +kernel, by unfold State.performed; decide +kernel, reachable_of _ _ _ _ (by decide +kernel) (by decide +kernel) (by decide +kernel)⟩

theorem wit_LoopInstructions : let s := handled [(3, 1#64)]
    ((1 : Int) ≤ (1#15).toInt ∧ s.me.rg 3 ≠ 0#64) ∧ ((1 : Int) ≤ (1#15).toInt ∧ s.me.rg 4 = 0#64) ∧ ((0#15).toInt < 1 ∧ s.trapReady) ∧
    (let t := handled [] (fun st => { st with loops := { lb0 := 8#64, le0 := 8#64, lc0 := 1#64 } })
     (∀ n ∈ levelsOf 1#2, t.me.levelFit n) ∧ (∃ n ∈ levelsOf 3#2, ¬ t.me.levelFit n) ∧ t.trapReady) ∧
    (let st : Strand := { pc := 8#64, lstat := 3#2, loops := { lb1 := 4#64, le1 := 8#64, lc1 := 2#64, lb0 := 0#64, le0 := 8#64, lc0 := 2#64 } }
     st.lstat.getLsbD 1 = true ∧ st.pc = st.loops.le1 ∧ 1 < st.loops.lc1.toNat) ∧
    (let st : Strand := { pc := 8#64, lstat := 3#2, loops := { le1 := 8#64, lc1 := 1#64, le0 := 8#64, lc0 := 2#64 } }
     st.lstat.getLsbD 1 = true ∧ st.pc = st.loops.le1 ∧ st.loops.lc1.toNat ≤ 1 ∧ st.lstat.getLsbD 0 = true ∧ st.pc = st.loops.le0 ∧ 1 < st.loops.lc0.toNat) ∧
    (let st : Strand := { pc := 8#64, lstat := 1#2, loops := { le0 := 8#64, lc0 := 1#64 } }
     st.lstat.getLsbD 1 = false ∧ st.lstat.getLsbD 0 = true ∧ st.pc = st.loops.le0 ∧ st.loops.lc0.toNat ≤ 1) ∧
    (let st : Strand := { pc := 4#64, lstat := 3#2, loops := { le0 := 8#64, le1 := 8#64 } }
     st.pc ≠ st.loops.le1 ∧ st.pc ≠ st.loops.le0) := by
  unfold State.trapReady Strand.levelFit; decide +kernel

/-! ### Memory -/

theorem wit_LoadsComplete : ∃ (s : State) (i : Instr) (f : Form) (l : Loc) (tlb : Tlb), LoadForm s.me i f ∧
    s.resolve (ctxOf s.cur) (s.me.spill f.g2) { rd := true, size := f.size, align := f.size } f.va = .at l tlb ∧ s.performed ∧ s.reachable l f.size :=
  ⟨handled [(7, 0xFFF0#64)], _, _, .spm placedCtx 0xFFF8, {}, .ld 6 7 0 3 1 0, by decide +kernel, by unfold State.performed; decide +kernel,
    reachable_of _ _ _ _ (by decide +kernel) (by decide +kernel) (by decide +kernel)⟩

/-- A load of the last bytes of the scratchpad, unprefixed and late. -/
theorem wit_LoadsComplete_late : ∃ (s : State) (i : Instr) (f : Form) (l : Loc) (tlb : Tlb), LoadForm s.me i f ∧ f.late = true ∧
    s.resolve (ctxOf s.cur) (s.me.spill f.g2) { rd := true, size := f.size, align := f.size } f.va = .at l tlb ∧ s.performed ∧ s.reachable l f.size :=
  ⟨handled [(7, 0xFFF0#64)], _, _, .spm placedCtx 0xFFFC, {}, .ld 6 7 1 2 3 15, by decide +kernel, by decide +kernel,
    by unfold State.performed; decide +kernel, reachable_of _ _ _ _ (by decide +kernel) (by decide +kernel) (by decide +kernel)⟩

theorem wit_StoresComplete : ∃ (s : State) (i : Instr) (f : Form) (l : Loc) (tlb : Tlb), StoreForm s.me i f ∧
    s.resolve (ctxOf s.cur) (s.me.spill f.g2) { wr := true, size := f.size, align := f.size } f.va = .at l tlb ∧ s.performed ∧ s.reachable l f.size
      ∧ s.unwatched l f.size :=
  ⟨handled [(7, 0x100#64)], _, _, .spm placedCtx 0x108, {}, .st 6 7 0 3 1 0, by decide +kernel, by unfold State.performed; decide +kernel,
    reachable_of _ _ _ _ (by decide +kernel) (by decide +kernel) (by decide +kernel), unwatched_of _ _ _ (by decide +kernel) (by decide +kernel)⟩

/-- LDE of a full word goes, of an empty one waits. -/
theorem wit_FullEmptyForms : let s := handled [(4, 0x100#64)]
    let e := inCtx s (fun c => { c with spfe := [(32, false)] })
    let l := Loc.spm placedCtx 0x100
    (FullEmptyForm s.me (.lde 10 4 0) { d := 10, va := nearAddr s.me 4 0, g2 := (4#5) == 2#5, fn := 0, scope := 3 } ∧
      s.resolve (ctxOf s.cur) (s.me.spill false) (fullEmptyNeed 0) (nearAddr s.me 4 0) = .at l {} ∧ s.performed ∧ s.reachable l 8 ∧ s.unwatched l 8
      ∧ fullEmptyGoes 0 (s.fullAt l)) ∧
    (FullEmptyForm e.me (.lde 10 4 0) { d := 10, va := nearAddr e.me 4 0, g2 := (4#5) == 2#5, fn := 0, scope := 3 } ∧
      e.resolve (ctxOf e.cur) (e.me.spill false) (fullEmptyNeed 0) (nearAddr e.me 4 0) = .at l {} ∧ e.performed ∧ e.reachable l 8
      ∧ ¬ fullEmptyGoes 0 (e.fullAt l) ∧ e.waitFull l = false) :=
  ⟨⟨.lde 10 4 0, by decide +kernel, by unfold State.performed; decide +kernel, reachable_of _ _ _ _ (by decide +kernel) (by decide +kernel) (by decide +kernel),
      unwatched_of _ _ _ (by decide +kernel) (by decide +kernel), by unfold fullEmptyGoes; decide +kernel⟩,
    ⟨.lde 10 4 0, by decide +kernel, by unfold State.performed; decide +kernel, reachable_of _ _ _ _ (by decide +kernel) (by decide +kernel) (by decide +kernel),
      by unfold fullEmptyGoes; decide +kernel, by decide +kernel⟩⟩

theorem wit_AtomicsComplete : ∃ (s : State) (i : Instr) (f : Form) (l : Loc) (tlb : Tlb), AtomicForm s.me i f ∧
    s.resolve (ctxOf s.cur) (s.me.spill f.g2) { rd := true, wr := true, noHost := f.fn ∉ [0, 1, 9], size := f.size, align := f.size } f.va = .at l tlb
      ∧ s.performed ∧ s.reachable l f.size ∧ s.unwatched l f.size :=
  ⟨handled [(8, 0x100#64)], _, _, .spm placedCtx 0x100, {}, .cas 6 8 7 0 1 0, by decide +kernel, by unfold State.performed; decide +kernel,
    reachable_of _ _ _ _ (by decide +kernel) (by decide +kernel) (by decide +kernel), unwatched_of _ _ _ (by decide +kernel) (by decide +kernel)⟩

/-- A WAITEQ whose word holds its value, one with lookahead whose word does not. -/
theorem wit_WaitForms : ∀ n ∈ [0#64, 1#64], let s := handled [(8, 0x100#64), (9, n)]
    let l := Loc.spm placedCtx 0x100
    WaitForm s.me (.waiteq 6 8 9 1 4) (wtForm s.me 10 6 8 9 1 4) ∧
    s.resolve (ctxOf s.cur) (s.me.spill false) { rd := true, noHost := true } (s.me.rg 8) = .at l {} ∧ s.performed ∧ s.reachable l 8
      ∧ s.waitFull l = false ∧ (waitGoes 10 (BitVec.ofNat 64 (s.loadNat l 8 s.cur)) (s.me.rg 9) ↔ n = 0#64) := by
  intro n h
  simp only [List.mem_cons, List.not_mem_nil, or_false] at h
  rcases h with rfl | rfl <;>
    exact ⟨.waiteq 6 8 9 1 4, by decide +kernel, by unfold State.performed; decide +kernel, reachable_of _ _ _ _ (by decide +kernel) (by decide +kernel) (by decide +kernel), by decide +kernel,
      by show (_ = _) ↔ _; decide +kernel⟩

/-- A misaligned load; a load of an address that nothing translates; the ring of the tenant off and on. -/
theorem wit_AccessChecks : let s := handled [(7, 1#64)]
    let p := handled [(7, 0x8000000000000000#64)]
    let q := { p with fault := [(0, { en := true })] }
    let f : Form := { d := 6, size := 8, signed := true, va := offsetAddr s.me 7 0 3 0, g2 := (7#5) == 2#5, rx := (0#2) == 1#2, l := 0 }
    let g : Form := { d := 6, size := 8, signed := true, va := offsetAddr p.me 7 0 3 0, g2 := (7#5) == 2#5, rx := (0#2) == 1#2, l := 0 }
    let need : Need := { rd := true, size := 8, align := 8 }
    (AccessForm s.me (.ld 6 7 0 3 0 0) f need ∧ s.resolve (ctxOf s.cur) (s.me.spill false) need f.va = .fails 0x21 1#64 ∧ holds 0x21 = false ∧ s.trapReady) ∧
    (AccessForm p.me (.ld 6 7 0 3 0 0) g need ∧ (∀ r ∈ [p, q], r.resolve (ctxOf r.cur) (r.me.spill false) need g.va = .fails 0x22 0x8000000000000000#64
      ∧ r.me.out = []) ∧ holds 0x22 = true ∧ (p.ring 0).en = false ∧ (q.ring 0).en = true) :=
  ⟨⟨.load _ (.ld 6 7 0 3 0 0), by decide +kernel, by decide +kernel, by unfold State.trapReady; decide +kernel⟩,
    ⟨.load _ (.ld 6 7 0 3 0 0), by decide +kernel, by decide +kernel, by decide +kernel, by decide +kernel⟩⟩

/-- A word that the joint of the next strand has locked; a page of host memory at which a range of addresses is refused, or not answered. -/
theorem wit_AccessChecks_held : let s := (handled [(7, 0x100#64)]).modStrand (run.cur + 1) (fun st =>
      { st with joint := { isOpen := true, locked := true, words := [{ loc := .spm placedCtx 0x100 }] } })
    let f : Form := { d := 6, size := 8, signed := true, va := offsetAddr s.me 7 0 3 0, g2 := (7#5) == 2#5, rx := (0#2) == 1#2, l := 0 }
    AccessForm s.me (.ld 6 7 0 3 0 0) f { rd := true, size := 8, align := 8 } ∧ s.performed ∧ s.lockedFor s.cur (.spm placedCtx 0x100) f.size = true ∧
    s.resolve (ctxOf s.cur) (s.me.spill f.g2) { rd := true, size := 8, align := 8 } f.va = .at (.spm placedCtx 0x100) {} ∧
    (∀ silent ∈ [true, false], let h := { handled [] with env := { holes := [⟨0, 0, 0x1000, 8, silent⟩] } }
      h.hostAnswer (.host 0 0x1007) = (if silent then .silent else .refuses) ∧ h.hostAnswer (.host 0 0x1008) = .completes ∧ h.trapReady
      ∧ ∀ v n, h.me.wait ≠ .hostPort v n) := by
  refine ⟨.load _ (.ld 6 7 0 3 0 0), by unfold State.performed; decide +kernel, by decide +kernel, by decide +kernel, ?_⟩
  intro silent h
  simp only [List.mem_cons, List.not_mem_nil, or_false] at h
  rcases h with rfl | rfl <;>
    exact ⟨by decide +kernel, by decide +kernel, by unfold State.trapReady; decide +kernel, fun v n e => by
      have h0 : (handled []).me.wait = .none := by decide +kernel
      exact Wait.noConfusion (h0.symm.trans e)⟩

/-! ### Vectors and predicates -/

/-- Nothing raises a flag where nothing does. -/
theorem raises_none (n : Nat) (r : Nat → Flags) (h : ∀ j, j < n → r j = 0#6) : raises n r 0#6 := by
  intro b hb
  simp only [BitVec.getLsbD_zero, Bool.false_eq_true, false_iff, not_exists, not_and]
  intro j hj
  simp [h j hj]

/-- A saturating sum that raises overflow in element 0, and a quotient by zero with its flag. -/
theorem wit_ElementResults :
    (∃ (s : State) (i : Instr) (e : Elements) (f : Flags), i.wellFormed = true ∧ ElementResult s.me i e ∧ s.vectorRoom ∧
      raises (256 / e.w) e.raised f ∧ s.quietFlags e.l f) ∧
    (∃ (s : State) (i : Instr) (e : Truths) (f : Flags), i.wellFormed = true ∧ TruthResult s.me i e ∧ s.vectorRoom ∧
      raises (256 / e.w) e.raised f ∧ s.quietFlags e.l f) := by
  constructor
  · exact ⟨withStrand (fun st => { st with v := [(2, 0x7FFFFFFF#2048), (3, 1#2048)] }), _, _, fOverflow, by decide +kernel, .vadd 1 2 3 0 2 0,
      by unfold State.vectorRoom; decide +kernel, by unfold raises; decide +kernel, by unfold State.quietFlags; decide +kernel⟩
  · exact ⟨run, _, _, 0#6, by decide +kernel, .vcmp 1 2 3 0 2 2 15, by unfold State.vectorRoom; decide +kernel, raises_none _ _ (fun _ _ => rfl),
      by unfold State.quietFlags; decide +kernel⟩

/-- Conversion of zeros and a quantisation of absent elements raise nothing. -/
theorem wit_RowConversions : let s := withStrand (fun st => { st with k := [(1, 0#256)] })
    (Instr.vcvt 7 8 1 1 3 0 0).wellFormed = true ∧ (Instr.vqmxQ 3 2 1 2 0).wellFormed = true ∧ s.vectorRoom ∧
    (∀ j, j < 64 → (s.me.rk 1).getLsbD (j * 32 / 8) = false ∧ isActive 4 (s.me.rk 1) j = false) ∧
    raises 64 (fun j => if (s.me.rk 1).getLsbD (j * 32 / 8) then (convert 1 3 0 0#128 0).2 else 0#6) 0#6 ∧ s.quietFlags 0 0#6 := by
  refine ⟨by decide +kernel, by decide +kernel, by unfold State.vectorRoom; decide +kernel, by decide +kernel, ?_, by unfold State.quietFlags; decide +kernel⟩
  unfold raises; decide +kernel

theorem wit_RowSums : let s := run
    (Instr.vred 4 2 0 2 1 0).wellFormed = true ∧ s.vectorRoom ∧ s.quietFlags 0 (reduceRow 1 2 0 (s.me.rk 0) (s.me.rv 2)).2.2 ∧
    s.quietFlags 0 (scanCodes s.me.frm.toNat fp32.absent ((List.range 64).map (fun j =>
      (isActive 4 (s.me.rk 0) j, element 4 (s.me.rv 2) j, element 4 (s.me.rv 1) j)))).2 := by
  unfold State.vectorRoom State.quietFlags; decide +kernel

theorem wit_ReadsAndPredicates : run.vectorRoom ∧ (∃ (i : Instr) (d : BitVec 3) (x : Pred), PredicateResult run.me i d x) :=
  ⟨by unfold State.vectorRoom; decide +kernel, _, _, _, .pmov 1 2 3⟩

/-- No marked byte; all bytes of the last row of the scratchpad. -/
theorem wit_RowAccesses : let s := handled [(6, 0xFF00#64)]
    let l := Loc.spm placedCtx 0xFF00
    s.me.rk 1 = 0#256 ∧ s.me.rk 0 ≠ 0#256 ∧ s.resolve (ctxOf s.cur) (s.me.spill false) { rd := true, size := 256, align := 256 } (s.me.rg 6 + s.me.rg 0) = .at l {}
      ∧ s.resolve (ctxOf s.cur) (s.me.spill false) { wr := true, size := 256, align := 256 } (s.me.rg 6 + s.me.rg 0) = .at l {}
      ∧ s.performed ∧ s.reachable l 256 ∧ s.unwatched l 256 :=
  ⟨by decide +kernel, by decide +kernel, by decide +kernel, by decide +kernel, by unfold State.performed; decide +kernel, reachable_of _ _ _ _ (by decide +kernel) (by decide +kernel) (by decide +kernel),
    unwatched_of _ _ _ (by decide +kernel) (by decide +kernel)⟩

/-- No active element; elements 0 and 63 at a stride of 4. -/
theorem wit_ElementAccesses : let s := handled [(6, 0x100#64), (7, 4#64)] (fun st => { st with k := [(1, 1#256 ||| (1#256 <<< 252))] })
    let ps := [(Loc.spm placedCtx 0x100, 0), (Loc.spm placedCtx 0x1FC, 0)]
    let got := fun (p : Places) => match p with | .at _ qs => some (qs.map (·.1)) | _ => none
    elementAddrs s.me false 6 7 2 2 = [] ∧ elementAddrs s.me false 6 7 1 2 = [(0, 0x100#64), (63, 0x1FC#64)] ∧
    got (s.places (ctxOf s.cur) (s.me.spill false) { rd := true, size := 4, align := 4 } 0 [0x100#64, 0x1FC#64]) = some (ps.map (·.1)) ∧
    got (s.places (ctxOf s.cur) (s.me.spill false) { wr := true, size := 4, align := 4 } 0 [0x100#64, 0x1FC#64]) = some (ps.map (·.1)) ∧
    s.performed ∧ (∀ p ∈ ps, s.reachable p.1 8 ∧ s.unwatched p.1 4) := by
  refine ⟨by decide +kernel, by decide +kernel, by decide +kernel, by decide +kernel, by unfold State.performed; decide +kernel, ?_⟩
  intro p hp
  refine ⟨?_, unwatched_of _ _ _ (by decide +kernel) (by decide +kernel)⟩
  simp only [List.mem_cons, List.not_mem_nil, or_false] at hp
  rcases hp with rfl | rfl <;> exact reachable_of _ _ _ _ (by decide +kernel) (by decide +kernel) (by decide +kernel)

/-! ### Fences and joints -/

theorem wit_FencesComplete : run.performed := by unfold State.performed; decide +kernel

/-- A strand with an open joint of `n` words from 0x100 on, each as it stands in memory. -/
def joint (n : Nat) (code : BitVec 4) : State :=
  handled [(3, 0x100#64), (4, 0x100000000000100#64)] (fun st => { st with
    joint := { isOpen := true, code := code, words := (List.range n).map (fun i => { loc := .spm placedCtx (0x100 + 8 * i), read := some 0#64, write := some 5#64 }) } })

theorem wit_JointsOpen : (handled []).me.joint.isOpen = false ∧ (handled []).trapReady ∧ (joint 0 0).me.joint.isOpen = true ∧ (joint 0 0).trapReady := by
  unfold State.trapReady; decide +kernel

/-- A window address; a word in the set, the ninth word, a new word. -/
theorem wit_JointAccesses : (∀ n ∈ [0, 1, 7, 8], (joint n 0).me.joint.isOpen = true ∧ (joint n 0).me.joint.code = 0#4 ∧
      isWindow (nearAddr (joint n 0).me 3 0) = false) ∧
    (isWindow (nearAddr (joint 0 0).me 4 0) = true ∧ (nearAddr (joint 0 0).me 4 0).toNat % 8 = 0) ∧
    ((joint 1 0).resolve (ctxOf (joint 1 0).cur) none { rd := true, wr := false } (nearAddr (joint 1 0).me 3 0) = .at (.spm placedCtx 0x100) {} ∧
      ((joint 1 0).me.joint.find (Loc.spm placedCtx 0x100).word).isSome = true) ∧
    (∀ n ∈ [7, 8], (joint n 0).resolve (ctxOf (joint n 0).cur) none { rd := true, wr := true } (nearAddr (joint n 0).me 3 8) = .at (.spm placedCtx 0x140) {} ∧
      (joint n 0).me.joint.find (Loc.spm placedCtx 0x140).word = none ∧ (joint n 0).me.joint.words.length = n) ∧
    (Loc.spm placedCtx 0x100).far = false ∧ (joint 7 0).performed := by
  unfold State.performed; decide +kernel

/-- The next strand of the context has its word at 0x140 locked. -/
def besideLocked (s : State) : State := s.modStrand (run.cur + 1) (fun st =>
  { st with joint := { isOpen := true, locked := true, words := [{ loc := .spm placedCtx 0x140, write := some 1#64 }] } })

theorem wit_JointAccesses_locked : let s := besideLocked (joint 7 0)
    s.me.joint.isOpen = true ∧ s.me.joint.code = 0#4 ∧ isWindow (nearAddr s.me 3 8) = false ∧
    s.resolve (ctxOf s.cur) (s.me.spill false) { rd := true } (nearAddr s.me 3 8) = .at (.spm placedCtx 0x140) {} ∧
    s.me.joint.find (Loc.spm placedCtx 0x140).word = none ∧ s.me.joint.words.length < 8 ∧ s.lockedFor s.cur (Loc.spm placedCtx 0x140).word 8 = true := by
  decide +kernel

/-- A joint whose words nobody has locked; one of whose words the next strand has locked. -/
theorem wit_JointsEnd_locks : let s := joint 8 0
    let b := besideLocked (handled [] (fun st => { st with joint := { isOpen := true, words := [{ loc := .spm placedCtx 0x140, write := some 5#64 }] } }))
    (s.me.joint.isOpen = true ∧ s.me.joint.code = 0#4 ∧ s.me.joint.locked = false ∧ s.performed ∧ (∀ w ∈ s.me.joint.words, s.locBad w.loc = false) ∧ ∀ w ∈ s.me.joint.words, s.lockedFor s.cur w.loc 8 = false) ∧
    (b.me.joint.isOpen = true ∧ b.me.joint.code = 0#4 ∧ b.me.joint.locked = false ∧ b.performed ∧ (∀ w ∈ b.me.joint.words, b.locBad w.loc = false) ∧ ∃ w ∈ b.me.joint.words, b.lockedFor b.cur w.loc 8 = true) := by
  unfold State.performed; decide +kernel

/-- A joint one of whose words stands in a line that has gone bad. -/
def badWord : State :=
  let s := handled [] (fun st => { st with joint := { isOpen := true, locked := true, words :=
    [{ loc := .spm placedCtx 0x100, va := 0x100#64, read := some 0#64 }, { loc := .rim 256 true, va := 0x8000000000000100#64, read := some 0#64 }] } })
  { s with stackTab := [(0, { bad := [1] })], fault := [(0, { en := true })] }

theorem wit_JointsEnd_bad : let j := badWord.me.joint
    j.isOpen = true ∧ j.code = 0#4 ∧ (j.words.find? (fun x => badWord.locBad x.loc)).map (·.va) = some 0x8000000000000100#64 ∧ badWord.me.out = [] ∧
    (badWord.ring (badWord.job (jobOf (ctxOf badWord.cur))).tenant).en = true := by
  decide +kernel

/-- A joint that commits, one whose recorded word has changed, one that has aborted. -/
theorem wit_JointsEnd : let locked := fun (s : State) => s.modStrand s.cur (fun st => { st with joint := { st.joint with locked := true } })
    let c := locked (joint 8 0)
    let v := locked (inCtx (joint 2 0) (fun x => { x with spm := [(0x108, 1#8)] }))
    let stale := fun (s : State) (w : JointWord) => ∃ x, w.read = some x ∧ x ≠ BitVec.ofNat 64 (s.readNat w.loc 8)
    (c.me.joint.isOpen = true ∧ c.me.joint.code = 0#4 ∧ c.me.joint.locked = true ∧ (∀ w ∈ c.me.joint.words, ¬ stale c w) ∧ c.waiters = [] ∧
      (∀ w ∈ c.me.joint.words, c.locBad w.loc = false) ∧ c.env.flaws = [] ∧ v.env.flaws = [] ∧ (∀ w ∈ v.me.joint.words, v.locBad w.loc = false) ∧
      (∀ w ∈ c.me.joint.words, w.loc = w.loc.word ∧ w.loc.far = false) ∧ c.me.joint.words.Pairwise (fun v w => v.loc ≠ w.loc)) ∧
    (v.me.joint.isOpen = true ∧ v.me.joint.code = 0#4 ∧ v.me.joint.locked = true ∧ ∃ w ∈ v.me.joint.words, stale v w) ∧
    ((joint 0 4).me.joint.code ≠ 0#4 ∧ (joint 0 4).me.joint.isOpen = true ∧ isWindow (nearAddr (joint 0 4).me 3 0) = false ∧
      (∀ wr ∈ [false, true], (joint 0 4).resolve (ctxOf (joint 0 4).cur) none { rd := true, wr := wr } (nearAddr (joint 0 4).me 3 0) = .at (.spm placedCtx 0x100) {})
      ∧ (joint 0 4).performed) := by
  refine ⟨⟨by decide +kernel, by decide +kernel, by decide +kernel, ?_, by decide +kernel, by decide +kernel, by decide +kernel, by decide +kernel,
      by decide +kernel, by decide +kernel, by decide +kernel⟩,
    ⟨by decide +kernel, by decide +kernel, by decide +kernel, ?_⟩, by unfold State.performed; decide +kernel⟩
  · have h : ∀ w ∈ ((joint 8 0).modStrand (joint 8 0).cur (fun st => { st with joint := { st.joint with locked := true } })).me.joint.words,
        w.read = some (BitVec.ofNat 64 (((joint 8 0).modStrand (joint 8 0).cur (fun st => { st with joint := { st.joint with locked := true } })).readNat w.loc 8)) := by decide +kernel
    rintro w hw ⟨x, hx, hne⟩
    rw [h w hw] at hx
    exact hne (Option.some.inj hx).symm
  · exact ⟨{ loc := .spm placedCtx 0x108, read := some 0#64, write := some 5#64 }, by decide +kernel, 0#64, rfl, by decide +kernel⟩

end Sys2Proof.Tests
end

