-- ==== Sys2Proof/Tests/WitnessDebug.lean ====
section
/-! SUPPORT. For the claims about DBG records, the scheduler and other modules: states that meet the hypotheses of each clause together. -/

namespace Sys2Proof.Tests

-- One theorem after the other: kernel evaluations in parallel ask for more threads than the memory limit gives.
set_option Elab.async false
open Sys2Proof.Machine

/-- A DBG record that names the placed job, with N, SEL, address and data. -/
def dbg (moved n sel addr data : Nat) : HostRecord :=
  { index := 0, started := true, moved := moved,
    bytes := BitVec.ofNat 512 (9 + n * 2 ^ 104 + sel * 2 ^ 112 + addr * 2 ^ 128 + 2 ^ 192 + data * 2 ^ 256) }

/-- A state with the record at the head of queue 0. -/
def asked (s : State) (r : HostRecord) : State :=
  { s with hq := [(0, { en := true, records := [r] })], input := { queue := 0, seq := 1 } }

def halted : State := withStrand (fun st => { st with state := .halted })
def holding : State := withStrand (fun st => { st with state := .memwait, held := some (0x26#8, 5#64) })

/-- A record of an operation: HALTALL 4, RESUMEALL 5. -/
def dbgOp (op : Nat) : HostRecord := { index := 0, started := true, bytes := BitVec.ofNat 512 (9 + op * 2 ^ 64 + 2 ^ 192) }

theorem wit_DebugRecords_now : ∀ s ∈ [run, halted, holding], ∀ r ∈ [dbg 0 3 0 0x100 7, dbg 0 4 1 0x100 7, dbg 1 8 0x4000 0 0, dbgOp 4, dbgOp 5],
    (asked s r).debugsHere r ∧ r.dbgKey = run.cur := by
  unfold State.debugsHere State.debugs; decide +kernel

/-- Peer 3 runs the gang of the job. -/
theorem wit_DebugRecords_away : let r := dbg 0 3 0 0x100 7
    let s := asked (run.modJob 1 (fun j => { j with away := [(0, some 3)] })) r
    s.debugs r ∧ (s.begun r).awayAt r.dbgCtx = some 3 := by
  unfold State.debugs; decide +kernel

/-- An operation on every context of a job that runs on peer 2 as well: HALTALL and PROFON. -/
theorem wit_DebugRecords_others : ∀ op ∈ [4, 0x20], let r := { (dbgOp op) with started := false }
    let s := asked (run.modJob 1 (fun j => { j with record := j.record ||| (1#1024 <<< 17) ||| (1#1024 <<< 642), away := [(1, some 2)] })) r
    s.debugs r ∧ (s.begun r).dbgOthers s.input.queue (s.asBegun r) = [2] := by
  unfold State.debugs; decide +kernel

/-- A word behind the end of the extent. -/
theorem wit_DebugRecords_fails : let r := dbg 0 8 0 65536 7
    (match (asked run r).dbgPlace r { rd := true, size := r.dbgN, align := r.dbgN } with | .fails => true | _ => false) = true ∧
    (match (asked run r).dbgPlace r { wr := true, size := r.dbgN, align := r.dbgN } with | .fails => true | _ => false) = true := by
  decide +kernel

theorem wit_DebugRecords_states :
    ((holding.strand run.cur).held = some (0x26#8, 5#64) ∧ (holding.gangOf placedCtx).frozen = false ∧ (holding.strand run.cur).state ≠ .halted) ∧
    ((run.strand run.cur).held = none ∧ (run.strand run.cur).state ≠ .halted ∧ (run.strand run.cur).live = true ∧
      run.inGang placedCtx .swapped = false ∧ (run.strand run.cur).out = []) ∧
    ((halted.strand run.cur).state = .halted ∧ (halted.strand run.cur).held = none ∧ halted.inGang placedCtx .resident = true) ∧
    ((dbg 0 3 0 0 0).moved = 0 ∧ (dbg 0 3 0 0 0).dbgN < 4 ∧ (dbg 0 0 0 0 0).dbgN < 4) ∧
    (∀ k ∈ (halted.jobStrands 1).filter (fun k => (halted.strand k).live), (halted.strand k).state = .halted) ∧
    (halted.jobStrands 1).filter (fun k => (halted.strand k).state == .halted) = [run.cur] := by
  decide +kernel

theorem wit_DebugRecords_registers :
    dbgReg (dbg 0 0 31 0 0).dbgSel = some (.g 31#5) ∧ (31#5 ≠ 0#5) ∧ dbgReg (dbg 0 0 0x1009 0 0).dbgSel = some (.csr 9) ∧
      dbgReg (dbg 0 0 0x2F1F 0 0).dbgSel = some (.v 15#4 31) ∧ dbgReg (dbg 0 0 0x3703 0 0).dbgSel = some (.k 7#3 3) ∧
      dbgReg (dbg 0 0 0x4000 0 0).dbgSel = some .pc := by
  decide +kernel

/-- A word at the end of the extent; a profile buffer of the least length. -/
theorem wit_DebugRecords_memory :
    (∀ n ∈ [1, 8], let r := dbg 0 n 0 (65536 - n) 7
      (match (asked run r).dbgPlace r { rd := true, size := r.dbgN, align := r.dbgN } with | .at l => l == .spm placedCtx (65536 - n) | _ => false) = true ∧
      (match (asked run r).dbgPlace r { wr := true, size := r.dbgN, align := r.dbgN } with | .at l => l == .spm placedCtx (65536 - n) | _ => false) = true) ∧
    (let r := dbg 0 0 0 (2 ^ 63 + 64) 128
     let s := { (asked run r) with cpTlb := { entries := [⟨0, 1, 0, 172#64⟩] } }
     r.dbgAddr.toNat % 64 = 0 ∧ r.dbgData.toNat % 64 = 0 ∧ 128 = r.dbgData.toNat ∧
      (match s.hostPlaces r.hostSince (s.job 1).tenant { wr := true } (pieces (128 / 256 + 2) r.dbgAddr 128) with | .ok ps => ps.length == 1 | _ => false) = true ∧
      (s.job 1).prof = none) := by
  decide +kernel

theorem wit_DebugRecords_unwatched (r : HostRecord) (l : Loc) (n : Nat) : (asked run r).unwatched l n :=
  unwatched_of _ _ _ (show run.waiters = [] by decide +kernel) (show ∀ p ∈ run.strands, p.2.joint.isOpen = false by decide +kernel)

end Sys2Proof.Tests
end

