-- ==== Sys2Proof/Tests/WitnessEngine.lean ====
section
/-! SUPPORT. For the claims about commands: states and operands that meet the hypotheses of each clause together. -/

namespace Sys2Proof.Tests

-- One theorem after the other: kernel evaluations in parallel ask for more threads than the memory limit gives.
set_option Elab.async false
open Sys2Proof.Machine

/-- An entry of a queue. -/
def entry (seq : Nat) : CmdEntry := { word := 0#256, guard := none, issuer := 0, seq := seq }

/-- The placed context with commands in progress and a further change. -/
def working (rs : List Running) (f : Ctx → Ctx := id) : State := inCtx run (fun c => f { c with running := rs })

theorem reports_of (s : State) (h : CmdHdr) (hp : h.peg = false) (hh : s.hosted s.focus = true)
    (hg : ∀ e ∈ (s.ctx s.focus).cmdList h.queue.toNat, e.guard = none) (ha : (s.strand (strandKey s.focus 0)).alive = true) : s.reports h :=
  ⟨hp, hh, fun e he n hn => by simp [hg e he] at hn, 0, by omega, ha⟩

theorem works_of (s : State) (h : CmdHdr) (r : Running) (hr : (s.ctx s.focus).running = [r]) (hi : r.isOf h = true) : s.works h r := by
  refine ⟨by simp [hr], hi, ?_⟩
  intro x hx _
  simpa [hr] using hx

/-- A CNOP at the head of queue 5, where nothing is in progress. -/
theorem wit_CommandsComplete_alone : let h := hdr 5 0xF0
    let s := working [] (fun c => { c with cmds := [(5, [entry 0])] })
    s.starts h (entry 0) [] ∧ s.reports h ∧ h.queue.toNat = 5 ∧ ∀ r ∈ (s.ctx s.focus).running, r.queue ≠ 5 :=
  ⟨⟨by decide +kernel, by decide +kernel, by decide +kernel, by decide +kernel, by decide +kernel, by decide +kernel, by decide +kernel⟩,
    reports_of _ _ rfl (by decide +kernel) (by decide +kernel) (by decide +kernel), by decide +kernel, by decide +kernel⟩

/-- The head of queue 4, with nothing or an earlier command of the queue in progress. -/
def heading (rs : List Running) : State := working rs (fun c => { c with cmds := [(4, [entry 5, entry 6])] })

theorem wit_CommandsComplete : let h := { hdr 4 0xF0 with seq := 5 }
    ((heading []).starts h (entry 5) [entry 6] ∧ (heading []).reports h ∧ h.queue.toNat ≠ 6 ∧
      (∀ r ∈ ((heading []).ctx (heading []).focus).running, r.queue = 4 → 5 ≤ r.entry.seq)) ∧
    (let s := heading [{ entry := entry 4, queue := 4 }]
     s.starts h (entry 5) [entry 6] ∧ s.reports h ∧ ∃ r ∈ (s.ctx s.focus).running, r.queue = 4 ∧ r.entry.seq < 5) := by
  refine ⟨⟨?_, reports_of _ _ rfl (by decide +kernel) (by decide +kernel) (by decide +kernel), by decide +kernel, by decide +kernel⟩,
    ⟨?_, reports_of _ _ rfl (by decide +kernel) (by decide +kernel) (by decide +kernel), by decide +kernel⟩⟩
  · exact ⟨by decide +kernel, by decide +kernel, by decide +kernel, fun x hx => by cases hx; rfl, by decide +kernel, by decide +kernel, by decide +kernel⟩
  · exact ⟨by decide +kernel, by decide +kernel, by decide +kernel, fun x hx => by cases hx; rfl, by decide +kernel, by decide +kernel, by decide +kernel⟩

/-- An MWLOAD that has taken `n` rows, with another in q1. -/
def loading (n : Nat) : State :=
  working [{ entry := entry 0, queue := 0, done := n, rows := List.replicate n 0#2048 }] (fun c => { c with rows := [(1, [1#2048])] })

theorem wit_WeightsLoad : let h := hdr 0 1
    let r := fun n => ({ entry := entry 0, queue := 0, done := n, rows := List.replicate n 0#2048 } : Running)
    (∀ n ∈ [0, 62, 63], (loading n).works h (r n) ∧ ((loading n).ctx (loading n).focus).rowList 1 = 1#2048 :: [] ∧ (loading n).reports h) ∧
    ((r 62).rows.length + 1 < 64 ∧ (r 63).rows.length + 1 = 64) ∧
    (∀ w ∈ (r 63).rows ++ [1#2048], metaOk 0 64 w = true) ∧ (0#2048 ∈ (r 63).rows ∧ metaOk 1 256 0#2048 = false) ∧
    (let s := working [] (fun c => { c with cmds := [(0, [entry 0])] })
     s.starts h (entry 0) [] ∧ (s.ctx s.focus).inProgress 0 = [] ∧ s.reports h) := by
  refine ⟨?_, by decide +kernel, fun w _ => rfl, ⟨by simp, by decide +kernel⟩,
    ⟨by decide +kernel, by decide +kernel, by decide +kernel, by decide +kernel, by decide +kernel, by decide +kernel, by decide +kernel⟩, by decide +kernel,
    reports_of _ _ rfl (by decide +kernel) (by decide +kernel) (by decide +kernel)⟩
  · intro n hn
    simp only [List.mem_cons, List.not_mem_nil, or_false] at hn
    rcases hn with rfl | rfl | rfl <;>
      exact ⟨works_of _ _ _ (by decide +kernel) (by decide +kernel), by decide +kernel, reports_of _ _ rfl (by decide +kernel) (by decide +kernel) (by decide +kernel)⟩

/-- An MSTREAM or MDRAIN in progress, with a row in q2 and a latched column of dense i8 weights. -/
def streaming : State :=
  working [{ entry := entry 0, queue := 0 }] (fun c =>
    { c with rows := [(2, [5#2048])], kinds := [(3, .residue)], wbuf := [(0, { fmt := 8, k := 64, cols := [(0, some 7#2048)] })] })

theorem wit_RowsStream : let s := streaming
    let h := hdr 0 2
    let r : Running := { entry := entry 0, queue := 0 }
    let c := s.ctx s.focus
    let b := tableGet {} c.wbuf c.active
    (s.works h r ∧ s.reports h ∧ mfcPairs b.fmt.toNat 8 = true ∧ entriesPerRow 8 b.k ≤ (c.rowList 2).length ∧
      (∀ p ∈ b.cols, p.1 < 64 ∧ (b.fmt = 0#4 → p.1 < 63)) ∧ b.cols.Pairwise (fun p q => p.1 ≠ q.1) ∧ r.done + 1 = (1#16).toNat ∧ r.done + 1 ≠ (2#16).toNat) ∧
    (b.fmt = 8#4 ∧ b.sparse = 0#2 ∧ b.k ≤ 64 ∧ tableGet .fp32 c.kinds 3 = .residue ∧ (c.rowList 2).head? = some 5#2048 ∧ (0, some 7#2048) ∈ b.cols) ∧
    (r.rows = [] ∧ (c.rowList 3).length + (rowsOfBytes (c.drainRow 0 0 1).1).length ≤ 64 ∧ tableGet .fp32 c.kinds 0 = .fp32) ∧
    ((c.drainRow 0 0 1).1 ≠ [] ∧ (0x100#64).toNat % 256 + (c.drainRow 0 0 1).1.length ≤ 256 ∧
      r.late = [] ∧ r.count = 0 ∧ r.done < (1#10).toNat ∧ s.engStop s.focus = false ∧
      (match s.engPlace (r.eng s.focus) { wr := true } 0x100#64 (c.drainRow 0 0 1).1.length with
       | .at _ l => l == .spm placedCtx 0x100 | _ => false) = true ∧ s.clean (.spm placedCtx 0x100)) :=
  ⟨⟨works_of _ _ _ (by decide +kernel) (by decide +kernel), reports_of _ _ rfl (by decide +kernel) (by decide +kernel) (by decide +kernel), by decide +kernel⟩,
    by decide +kernel, by decide +kernel, by decide +kernel, by decide +kernel, by decide +kernel, by decide +kernel, by decide +kernel, by decide +kernel,
    by decide +kernel, clean_of _ _ (by decide +kernel)⟩

/-- A copy command in progress: the chunks of a CPY of 300 bytes, its last one, and one of a CFILL. -/
theorem wit_CopiesMove : let h := hdr 4 0x10
    let r := fun n => ({ entry := entry 0, queue := 4, done := n } : Running)
    let s := fun n => working [r n]
    let k := fun n => partFrom (r n) (some 0#64) (fun _ => 0#8) 0x200#64 300 0
    (∀ n ∈ [0, 256, 299], (s n).works h (r n) ∧ PartOf (s n) (r n) (.cpy h 0#64 0x200#64 300#40) h 0 (k n) ∧ (r n).late = [] ∧ (s n).engStop (s n).focus = false ∧
      (match (s n).engRead ((r n).eng (s n).focus) (BitVec.ofNat 64 n) (k n).len with | .ok _ bs => bs.length == (k n).len | _ => false) = true ∧
      (match (s n).engPlace ((r n).eng (s n).focus) { wr := true } (k n).dst (k n).len with | .at _ l => l == .spm placedCtx (0x200 + n) | _ => false) = true ∧
      (s n).clean (.spm placedCtx (0x200 + n))) ∧
    PartOf (s 0) (r 0) (.cfill h 0#64 0x200#64 8#40 1#2) h 0
      (partFrom (r 0) none (fun i => fieldAt (8 * ((0x200#64 + BitVec.ofNat 64 i).toNat % 8)) 8 (0#64)) 0x200#64 8 1) := by
  refine ⟨?_, .cfill _ _ _ _ _ (by decide +kernel)⟩
  intro n hn
  simp only [List.mem_cons, List.not_mem_nil, or_false] at hn
  rcases hn with rfl | rfl | rfl <;>
    exact ⟨works_of _ _ _ (by decide +kernel) (by decide +kernel), .cpy _ _ _ _ (by decide +kernel), rfl, by decide +kernel, by decide +kernel,
      by decide +kernel, clean_of _ _ (by decide +kernel)⟩

/-- The same with every chunk started: nothing in flight, a write in flight, and two of one word. -/
theorem wit_CopiesMove_end : let h := hdr 4 0x10
    let w := fun (o : Nat) => ({ loc := .spm placedCtx o, bytes := [7#8], feop := 0 } : LateWrite)
    ∀ ws ∈ [[], [w 0x200], [w 0x200, w 0x207]], let r : Running := { entry := entry 0, queue := 4, done := 300, late := ws }
      let s := working [r]
      s.works h r ∧ AllStarted s r (.cpy h 0#64 0x200#64 300#40) h 300 ∧ s.reports h ∧
        (∀ x ∈ r.late, s.lockedFor 0 x.loc x.bytes.length = false ∧ s.unwatched x.loc x.bytes.length ∧ (x.feop = 0 ∨ ∀ p a, x.loc ≠ .host p a)) := by
  intro h w ws hw
  simp only [List.mem_cons, List.not_mem_nil, or_false] at hw
  rcases hw with rfl | rfl | rfl
  all_goals
    refine ⟨works_of _ _ _ (by decide +kernel) (by decide +kernel), .cpy _ _ _ _ (by decide +kernel),
      reports_of _ _ rfl (by decide +kernel) (by decide +kernel) (by decide +kernel), fun x hx => ⟨?_, unwatched_of _ _ _ (by decide +kernel) (by decide +kernel), .inl ?_⟩⟩
    all_goals simp only [List.mem_cons, List.not_mem_nil, or_false] at hx
  all_goals first
    | (rcases hx with rfl | rfl <;> first | rfl | decide +kernel)
    | (rcases hx with rfl; first | rfl | decide +kernel)

/-- A CHAIN of 33 elements at its first group and at its last; a TBCAST that delivers; rows left for q7. -/
theorem wit_ChainsAndTruss : let h := hdr 5 0x20
    let r := fun n => ({ entry := entry 0, queue := 5, done := n, rows := [0#2048] } : Running)
    let s := fun n => working [r n] (fun c => { c with rows := [(7, List.replicate 15 1#2048)], trussBuf := [1#2048, 2#2048] })
    (∀ n ∈ [0, 32], (s n).works h (r n) ∧ (s n).reports h ∧ (r n).done < (33#24).toNat ∧ (s n).unwatched (.spm (s n).focus (0x1000 + 4 * n)) (32 * 4) ∧
      (s n).ownLocked (s n).focus (4 * n) 128 = false ∧ (s n).ownLocked (s n).focus (0x1000 + 4 * n) 128 = false) ∧
    (0 + (0 + 32) * 4 ≤ 0x1000) ∧
    (let g := hdr 6 0x31
     let q : Running := { entry := entry 0, queue := 6, rows := [9#2048] }
     let t := working [q]
     t.works g q ∧ t.reports g ∧ g.queue = 6#4 ∧ TrussPart t q (.tbcast g 0#25 0x200#64 8#24) g (0x200#64 + BitVec.ofNat 64 0) 0 8 ∧ q.late = [] ∧
     (match t.engPlace (q.eng t.focus) { wr := true } 0x200#64 8 with | .at _ l => l == .spm placedCtx 0x200 | _ => false) = true ∧
     t.clean (.spm placedCtx 0x200)) ∧
    (16 - (((s 0).ctx (s 0).focus).rowList 7).length < ((s 0).ctx (s 0).focus).trussBuf.length) := by
  refine ⟨?_, by decide +kernel, ⟨works_of _ _ _ (by decide +kernel) (by decide +kernel), reports_of _ _ rfl (by decide +kernel) (by decide +kernel) (by decide +kernel), by decide +kernel, ?_,
    rfl, by decide +kernel, clean_of _ _ (by decide +kernel)⟩, by decide +kernel⟩
  · intro n hn
    simp only [List.mem_cons, List.not_mem_nil, or_false] at hn
    rcases hn with rfl | rfl <;> exact ⟨works_of _ _ _ (by decide +kernel) (by decide +kernel), reports_of _ _ rfl (by decide +kernel) (by decide +kernel) (by decide +kernel),
      by decide +kernel, unwatched_of _ _ _ (by decide +kernel) (by decide +kernel), by decide +kernel, by decide +kernel⟩
  · exact .tbcast _ _ _ _ 8 (by decide +kernel) (by decide +kernel)

/-- A BZERO of 66 elements into mapped bank memory: its first element, the second of a word, the last. -/
def banking (n m : Nat) : State :=
  (working [{ entry := entry 0, queue := 8, done := n, count := m }]).putRim 0 8 (placedLeaf + 2 ^ 9 + 8)

theorem wit_BankCommands : let h := hdr 8 0x43
    ∀ p ∈ [(0, 0), (0, 1), (64, 1)], let s := banking p.1 p.2
      let r : Running := { entry := entry 0, queue := 8, done := p.1, count := p.2 }
      s.works h r ∧ s.reports h ∧ BankElement s r (r.done + r.count) (.bzero h 0x1000#41 66#15 0#1) h false (bankVa 0x1000 8) 0#1 66 66 {} ∧ (r.rows = [] ∧ r.failed = none ∧ s.anyLocked = false) ∧
      r.done + r.count < 66 ∧ s.bankBusy s.focus r (r.done + r.count) = false ∧ s.sound ∧ (s.gangOf s.focus).state ≠ .swapped ∧ r.count ≤ 1 ∧
      s.bankKey s.focus (bankVa 0x1000 8 + BitVec.ofNat 64 (r.done * 4)) = s.rimKey (2 ^ 33 + 0x100000 + r.done * 4) ∧
      (s.rimKey (2 ^ 33 + 0x100000 + r.done * 4)).isSome = true ∧ (r.count = 0 ↔ r.done + r.count = 0) ∧ (r.done + r.count + 1 = 66 ↔ p.1 = 64) := by
  intro h p hp
  simp only [List.mem_cons, List.not_mem_nil, or_false] at hp
  rcases hp with rfl | rfl | rfl <;> exact ⟨works_of _ _ _ (by decide +kernel) (by decide +kernel),
    reports_of _ _ rfl (by decide +kernel) (by decide +kernel) (by decide +kernel), .bzero _ _ _ _, by decide +kernel, by decide +kernel, by decide +kernel,
    sound_of _ (by decide +kernel), by decide +kernel, by decide +kernel, by decide +kernel, by decide +kernel, by decide +kernel, by decide +kernel⟩

/-- A BREAD of the same elements: its first one, the 64th and the last. -/
theorem wit_BankCommands_read : let h := hdr 8 0x42
    ∀ p ∈ [(0, 0), (63, 63), (65, 1)], let s := banking p.1 p.2
      let r : Running := { entry := entry 0, queue := 8, done := p.1, count := p.2 }
      s.works h r ∧ s.reports h ∧ BankElement s r r.done (.bread h 0x1000#41 66#15 0#1) h true (bankVa 0x1000 8) 0#1 66 66 { val := some 0 } ∧ (r.rows = [] ∧ r.failed = none ∧ s.anyLocked = false) ∧
      r.done < 66 ∧ s.bankBusy s.focus r r.done = false ∧ s.sound ∧ (s.gangOf s.focus).state ≠ .swapped ∧ (r.count + 1 = 64 ↔ p.1 = 63) ∧
      (r.done + 1 = 66 ↔ p.1 = 65) ∧ ((s.ctx s.focus).rowList 9).length + 1 ≤ 64 := by
  intro h p hp
  simp only [List.mem_cons, List.not_mem_nil, or_false] at hp
  rcases hp with rfl | rfl | rfl
  all_goals
    refine ⟨works_of _ _ _ (by decide +kernel) (by decide +kernel), reports_of _ _ rfl (by decide +kernel) (by decide +kernel) (by decide +kernel),
      ?_, by decide +kernel, by decide +kernel, by decide +kernel, sound_of _ (by decide +kernel), by decide +kernel, by decide +kernel, by decide +kernel,
      by decide +kernel⟩
    exact .bread _ _ _ _ 0 (by decide +kernel)

end Sys2Proof.Tests
end

