-- ==== Sys2Proof/Tests/WitnessEvents.lean ====
section
/-! SUPPORT. For the claims about events: states that meet the hypotheses of each clause, at the values where they begin or end. -/

namespace Sys2Proof.Tests

-- One theorem after the other: kernel evaluations in parallel ask for more threads than the memory limit gives.
set_option Elab.async false
open Sys2Proof.Machine

/-- An event's values: the running strand and its context. -/
def own : Input := { key := run.cur, ctx := placedCtx }

/-- The running strand changed, in an event of its own. -/
def slotOf (f : Strand → Strand) : State := { withStrand f with input := own }

/-- The same with a handler. -/
def caughtOf (f : Strand → Strand) : State := { handled [] f with input := own }

/-- The context of the running strand changed. -/
def ctxOfRun (cls : Nat) (f : Ctx → Ctx) : State := { inCtx run f with input := { own with cls := cls } }

/-- An operation whose time has come. -/
def doneOp (k : OutKind) : OutOp := { kind := k, pc := 0x8000000000000044#64, window := 2, doneAt := 0, gw := [(5#5, 7#64)] }

/-- An entry of the matrix queue that started at cycle 0. -/
def starved : Running := { entry := { word := 1#256, guard := none, issuer := 0, seq := 0 }, queue := 0, waitSince := some 0 }

theorem wit_SlotEvents :
    (handled []).trapReady ∧
    (let s := slotOf (fun st => { st with state := .memwait, wait := .refused })
     (s.strand s.input.key).wait = .refused ∧ (s.strand s.input.key).readyAt ≤ s.cycle) ∧
    (let s := slotOf (fun st => { st with state := .msgwait, wait := .idle 0#64 })
     (s.strand s.input.key).wait = .idle 0#64 ∧ (0#64).toNat ≤ s.ticks / 17) ∧
    (let s := slotOf (fun st => { st with state := .engwait, wait := .ashape 3#4 6#5 })
     (s.strand s.input.key).wait = .ashape 3#4 6#5 ∧ (s.ctx (ctxOf s.input.key)).cmdList 0 = [] ∧ (s.ctx (ctxOf s.input.key)).inProgress 0 = []) ∧
    (∀ k ∈ [OutKind.long, .relaxed], let s := slotOf (fun st => { st with out := [doneOp k] })
     (s.strand s.input.key).out = [doneOp k] ∧ s.input.idx = 0 ∧ s.waiters = [] ∧ (doneOp k).elems = [] ∧ (doneOp k).doneAt ≤ s.cycle ∧ (doneOp k).access = none
      ∧ (doneOp k).gw = [(5#5, 7#64)] ∧ (doneOp k).flags &&& (s.strand s.input.key).fen = 0#6) ∧
    (let s := slotOf (fun st => { st with state := .memwait, wait := .icache [0] })
     (s.strand s.input.key).wait = .icache [0] ∧ (s.strand s.input.key).readyAt ≤ s.cycle) ∧
    (let s := caughtOf (fun st => { st with state := .memwait, wait := .hostPort 0x8000000000000000#64 0, pend := some 1#6 })
     let t := { s with cycle := 85000000 }
     let st := s.strand s.input.key
     (t.strand t.input.key).wait = .hostPort 0x8000000000000000#64 0 ∧ 0 + 85000000 ≤ t.cycle ∧ st.pend = some 1#6 ∧ st.quiet = false ∧ st.out = [] ∧ st.trap.ha = false ∧ st.trap.tvec ≠ 0#64) ∧
    (let s := slotOf (fun st => { st with stopReq := true, joint := { isOpen := true } })
     let st := s.strand s.input.key
     st.stopReq = true ∧ st.packet = none ∧ st.joint.locked = false ∧ st.out = [] ∧ st.quiet = false ∧ st.joint.isOpen = true ∧ st.joint.code = 0#4) ∧
    (let s := (slotOf id).modJob 1 (fun j => { j with bps := [⟨3, placedPc, some 0⟩] })
     s.atBreakpoint s.input.key = true ∧ (s.strand s.input.key).out = [] ∧ (s.strand s.input.key).quiet = false) ∧
    (let s := { (inCtx (withStrand (fun st => { st with state := .msgwait, wait := .recv 0 })) (fun c => { c with running := [starved] })) with
                input := own, cycle := 32768 }
     (s.ctx s.input.ctx).running.find? (fun r => r.starved s.cycle) = some starved ∧ s.ctxBlocked s.input.ctx = true ∧ (starved.entry.hdr 0).peg = false ∧
      s.hosted s.input.ctx = true ∧ (s.ctx s.input.ctx).cmdList 0 = [] ∧ (s.strand (strandKey s.input.ctx 0)).alive = true) ∧
    (let p : InPacket := { dest := placedCtx, cls := 2, sender := run.cur, words := [5#64], hdr := some 9#64 }
     let s := ctxOfRun 2 (fun c => { c with staging := [p], inbox := [(2, List.replicate 62 ⟨0#64, false, none, []⟩)] })
     (s.ctx s.input.ctx).staging = [] ++ p :: [] ∧ p.cls = s.input.cls ∧ p.hdr = some 9#64 ∧ p.readyAt ≤ s.cycle ∧ (s.ctx s.input.ctx).fill p.cls + p.words.length + 1 = 64) := by
  refine ⟨by unfold State.trapReady; decide +kernel, ?_⟩
  decide +kernel

/-- A completion and a packet of class 7 that has arrived no earlier; a packet that has arrived before the completion was posted. -/
theorem wit_SlotEvents_admit : let p := fun n => ({ queue := 4, hdr := 1#64, status := 2#64, detail := 3#64, postedAt := n } : Completion)
    let k : InPacket := { dest := placedCtx, cls := 7, sender := run.cur, words := [5#64], hdr := some 9#64 }
    (let s := ctxOfRun 4 (fun c => { c with posted := [p 0], staging := [k], inbox := [(7, List.replicate 61 ⟨0#64, false, none, []⟩)] })
     (s.ctx s.input.ctx).posted = [p 0] ∧ (s.ctx s.input.ctx).fill 7 + 3 = 64 ∧ (s.ctx s.input.ctx).cmds = [] ∧ (p 0).postedAt = k.readyAt ∧ k.onLinks = false) ∧
    (let s := { (ctxOfRun 7 (fun c => { c with posted := [p 1], staging := [k] })) with cycle := 1 }
     (s.ctx s.input.ctx).staging = [] ++ k :: [] ∧ k.cls = s.input.cls ∧ k.readyAt ≤ s.cycle ∧ k.readyAt < (p 1).postedAt ∧ (s.ctx s.input.ctx).fill 7 + 1 + 1 ≤ 64) := by
  decide +kernel

/-- A relaxed load of a line of a poisoned row comes back, with the ring of the tenant on. -/
theorem wit_SlotEvents_late : let a : Access := { op := .load 8 true, loc := .rim 0 false, va := 0x8000000000000000#64, dest := 5#5, order := .rx }
    let o : OutOp := { kind := .relaxed, pc := placedPc, window := 3, doneAt := 0, access := some a }
    let s := { (slotOf (fun st => { st with out := [o] })) with stackTab := [(0, { bad := [0] })], fault := [(0, { en := true })] }
    (s.strand s.input.key).out = [o] ∧ s.input.idx = 0 ∧ s.waiters = [] ∧ o.elems = [] ∧ o.isLong = false ∧ o.waits = false ∧ o.doneAt ≤ s.cycle ∧ s.locBad a.loc = true ∧
      (s.ring (s.job (jobOf (ctxOf s.input.key))).tenant).en = true := by
  decide +kernel

/-- Two packets of a class have ended: the second has arrived first, or both arrive together. -/
theorem wit_SlotEvents_order : let p := fun n => ({ dest := placedCtx, cls := 2, sender := run.cur, words := [5#64], hdr := some 9#64, readyAt := n } : InPacket)
    let s := fun n => ctxOfRun 2 (fun c => { c with staging := [p n, p 0] })
    (∀ q ∈ [p 1], q.cls = (p 0).cls → q.hdr.isSome = true → (p 0).readyAt < q.readyAt) ∧ ((s 1).ctx placedCtx).staging = [p 1] ++ p 0 :: [] ∧
    (∀ q ∈ [p 0], q.cls = (p 0).cls → q.hdr.isSome = true → (p 0).readyAt ≤ q.readyAt) ∧ ((s 0).ctx placedCtx).staging = [] ++ p 0 :: [p 0] ∧
    ∀ n ∈ [0, 1], (s n).input.cls = 2 ∧ (p 0).readyAt ≤ (s n).cycle ∧ ((s n).ctx placedCtx).fill 2 + 1 + 1 ≤ 64 := by
  decide +kernel

theorem wit_BringUpEvents :
    ((State.reset.powerLost = false) ∧ ({ State.reset with powerLost := true } : State).powerLost = true) ∧
    (∀ n ∈ [1, 2, 3, 4], let s : State := { boot := n }
      s.boot = n ∧ s.bootStopped = false ∧ s.powerLost = false) ∧
    (let s : State := { boot := 1, env := { calFail := true } }
     s.env.calFail = true ∧ State.reset.env.calFail = false) ∧
    (let s : State := { boot := 3, env := { tileTest := [(1023, 1#4)] } }
     s.env.tileTest = [(1023, 1#4)]) ∧
    ((∀ q, q < 4 → (portTiles q).all ({ boot := 4 } : State).darkTile = false) ∧
      ¬ (∀ q, q < 4 → (portTiles q).all ({ boot := 4, tiles := (portTiles 0).map (fun p => (p, { code := 6#4 })) } : State).darkTile = false)) ∧
    (let s : State := { boot := 4, env := { routes := [(2, [0, 1, 2, 3, 4])] } }
     s.env.routes = [(2, [0, 1, 2, 3, 4])]) ∧
    ((1 ≤ 1 ∧ 1 ≤ 3) ∧ (1 ≤ 3 ∧ 3 ≤ 3)) ∧
    (let s : State := { peers := [(2, { routed := true, ports := [0], lost := true })], links := [(0, { up := true })], input := { peer := 2 } }
     (s.peer s.input.peer).routed = true ∧ s.input.port ∈ (s.peer s.input.peer).ports ∧ (s.link s.input.port).up = true ∧ 4 ≤ (s.link s.input.port).lanes
      ∧ s.input.load = none) := by
  decide +kernel

/-- The three cases of a flit exclude each other by their form: every one of them comes with one of these. -/
theorem wit_BringUpEvents_flit (f : BitVec 2048) (n : Nat) : (¬ (Config.crcGood f = true ∨ Config.fecGood f = true)) ∨
    ((Config.crcGood f = true ∨ Config.fecGood f = true) ∧ Config.inSequence f n = false) ∨
    ((Config.crcGood f = true ∨ Config.fecGood f = true) ∧ Config.inSequence f n = true) := by
  by_cases h : Config.crcGood f = true ∨ Config.fecGood f = true <;> by_cases g : Config.inSequence f n = true <;> simp_all

theorem wit_MailboxRequests :
    ({ boot := 1 } : State).boot ≠ 0 ∧ ({ boot := 1 } : State).status.fwerr = false ∧
    (∀ code ∈ [0, 1, 2, 3, 4, 5, 6], ∀ bad ∈ [true, false],
      let s : State := { boot := 1, status := { fwerr := bad }, laroon := { mailbox := { busy := some { code := code } } }, input := { idx := 1 } }
      s.boot ≠ 0 ∧ s.status.fwerr = bad ∧ s.input.idx ≠ 0 ∧ s.laroon.mailbox.busy = some { code := code }) := by
  decide +kernel

/-- A hot row of stack 0 with one error at time 0, and the second before it leaves the list. -/
def scrubbing : State := { stackTab := [(0, { hot := [Config.rowOf 0 7] })], input := { stack := 0, line := 7 } }

theorem wit_LimitEvents :
    (∀ t ∈ [(105 : Int), 120], let s := { (run.setTile 0 { temp := t, usedBy := some placedCtx }) with input := {} }
      s.input.sense = [] ∧ s.input.watts = none ∧ 105 ≤ (s.tile s.input.ptid).temp ∧ (s.tile s.input.ptid).emergency = false ∧
      (s.tile s.input.ptid).usedBy = some placedCtx ∧ (s.gangOf placedCtx).state = .resident ∧ s.ptid placedCtx = s.input.ptid ∧
      placedCtx ∈ s.members 1 (s.gangNo placedCtx) ∧ (s.ctx placedCtx).live = true ∧ s.movingGang 1 (s.gangNo placedCtx) = false) ∧
    ((run.setTile 0 { temp := 94, emergency := true }).tile 0).temp < 95 ∧
    (let s := { (run.setTile 0 { temp := 92, ric := 16#5, hotSince := some 0 }) with ticks := 1700000 }
     (s.tile 0).hotSince = some 0 ∧ 0 + 1700000 ≤ s.ticks ∧ (s.sched.eff.thot.toNat : Int) ≤ (s.tile 0).temp ∧ (s.tile 0).ric.toNat ≤ 16 ∧
      ¬ ((s.sched.eff.thot.toNat : Int) ≤ (s.tile 1).temp ∨ s.capNow < s.power.power)) ∧
    (let s := { (run.setTile 0 { temp := 88, ric := 1#5, coolSince := some 0 }) with power := { power := 27160 }, ticks := 17000000 }
     (s.tile 0).coolSince = some 0 ∧ 0 + 17000000 ≤ s.ticks ∧ (s.tile 0).temp + 4 ≤ (s.sched.eff.thot.toNat : Int) ∧ 100 * s.power.power ≤ 97 * s.capNow ∧ 1 ≤ (s.tile 0).ric.toNat) ∧
    ((∀ n, n < 1024 → (State.reset.tile n).usedBy = none) ∧ State.reset.overhead < 2 ^ 64) ∧
    (let s : State := { boot := 5, status := { ready := true }, ticks := 17000, power := { idleSince := some 0, tolerance := [(0, 2000)] } }
     s.noteIdle.deepest = 1 ∧ s.status.pstate.toNat < 1 ∧ s.status.ready = true) ∧
    (let s : State := { status := { pstate := 1#3 } }
     s.status.pstate ≠ 0#3 ∧ s.status.pstate = 1#3) ∧
    (let s := { run with ticks := 17000000000, input := { handle := 1 } }
     (s.job s.input.handle).phase = .live ∧ s.sched.eff.wdog ≠ 0#32 ∧ s.watchPaused s.input.handle = false ∧
      (s.job s.input.handle).progress + 17000000 * s.sched.eff.wdog.toNat = s.ticks) ∧
    ((run.tile 1023).code ∉ [4#4, 5#4, 6#4] ∧ run.status.ready = true ∧ (run.tile 1023).errs = [] ∧ 1023 < 1024 ∧ (0#64).toNat % 16 ≤ 4 ∧ (4#64).toNat % 16 = 4) ∧
    (let s := { (run.modGang 1 0 (fun g => { g with state := .recovering })) with input := { handle := 1 } }
     0 < (s.job s.input.handle).gangCount ∧ (s.job s.input.handle).phase ≠ .ended ∧ (s.gang s.input.handle 0).state = .recovering ∧ (s.job s.input.handle).rollOwed = 0#64) := by
  refine ⟨?_,?_,?_,?_,?_,?_,?_,?_,?_,?_⟩
  all_goals decide +kernel

theorem wit_LimitEvents_hot :
    (scrubbing.stack 0).hot.contains (Config.rowOf 0 scrubbing.input.line) = true ∧ scrubbing.sound := by
  simp [scrubbing, State.stack, tableGet, sound_of]

end Sys2Proof.Tests
end

