-- ==== Sys2Proof/Tests/WitnessHost.lean ====
section
/-! SUPPORT. For the claims about the host's side: states and records that meet the hypotheses of each clause together. -/

namespace Sys2Proof.Tests

-- One theorem after the other: kernel evaluations in parallel ask for more threads than the memory limit gives.
set_option Elab.async false
open Sys2Proof.Machine

/-! ### Registers -/

/-- Queue 0 with its last record posted, of zeros, or sealed with its CHK. -/
def posted (chk : Nat) : State :=
  { (run.putNat (.host 0 (15 * 64 + 60)) 4 chk) with hq := [(0, { en := true, head := 0xFFFFFFFF#32 })] }

theorem wit_RegisterEvents :
    (let s := posted (recordChk 0#512).toNat
     s.fetches 0 = true ∧ (s.queue 0).fetchAt ≤ s.ticks ∧
      (match s.ringRecord 0 with
       | some r => (fieldAt 448 32 r : BitVec 32) == (s.queue 0).head + 1#32 && (fieldAt 480 32 r : BitVec 32) == recordChk r
       | none => false) = true) ∧
    (let s := posted 0
     s.fetches 0 = true ∧ s.ringRecord 0 = some 0#512 ∧ (fieldAt 448 32 0#512 : BitVec 32) = (s.queue 0).head + 1#32 ∧
      (fieldAt 480 32 0#512 : BitVec 32) ≠ recordChk 0#512) ∧
    (let s := { run with ticks := 170000000, hq := [(0, { en := true, badSince := some 0 })] }
     (s.queue 0).badSince = some 0 ∧ 0 + 170000000 = s.ticks ∧ (s.queue 0).en = true) ∧
    ((run.queue 0).en = false ∧ natAt 2 4 (48#64) = 12 ∧ natAt 2 4 (52#64) = 13) ∧
    ((run.rangeEntry 0).valid = true ∧ (run.rangeEntry 15).valid = false) ∧
    (run.input.line = 0 ∧ ({ run with input := { line := 3 } } : State).input.line = 3 ∧ run.jobs.any (fun p => p.2.phase == .live) = true) ∧
    (run.input.fn = ⟨0#2, none⟩ ∧ run.input.off = 0#20 ∧ (7#20).toNat % 8 ≠ 0 ∧ (1#20).toNat % 8 ≠ 0) ∧
    (let r : FaultRecord := ⟨0x53#8, 1#8, 0#8, 0#16, 1#64, 0#64, 0#64⟩
     let s := { run with fault := [(0, { en := true, ftail := 15#32, waiting := [r] })] }
     (s.ring 0).waiting = r :: [] ∧ (s.ring 0).en = true ∧ ((s.ring 0).ftail - (s.ring 0).fhead).toNat + 1 = (s.ring 0).entries ∧ (s.ring 0).loc = false) ∧
    ((run.job 1).tenant = 0 ∧ 1 ∈ tableKeys run.jobs ∧ (run.queue 63).ten.toNat = 0 ∧ (run.queue 63).pfq = false) := by
  decide +kernel

/-! ### Records -/

/-- The bytes of a record: its type with the flags of byte 1 up, and the words at 8, 16 and 24. -/
def recordOf (w0 w8 w16 w24 : Nat) : BitVec 512 := BitVec.ofNat 512 (w0 + w8 * 2 ^ 64 + w16 * 2 ^ 128 + w24 * 2 ^ 192)

/-- A leaf of level 1 that maps its page to host memory of port 0 with RD, WR and US. -/
def hostLeaf : Word := 172#64

/-- The placed job's part with a record at the head of queue 0, the second of two where `before` is given; global space reaches host memory
in its first 8 GiB and rim memory with EX in the next. -/
def desk (pfq : Bool) (r : HostRecord) (m : Table Byte) (before : List HostRecord) : State :=
  { run with hq := [(0, { en := true, pfq := pfq, records := before ++ [r] })]
             input := { queue := 0, seq := r.index + 1 }
             cpTlb := { entries := [⟨0, 1, 0, hostLeaf⟩, ⟨0, 1, 1, BitVec.ofNat 64 placedLeaf⟩] }
             hostMem := m }

/-- A record of a type with words, started or not. -/
def rec (started : Bool) (w0 w8 w16 w24 : Nat) : HostRecord := { index := 0, bytes := recordOf w0 w8 w16 w24, started := started }

/-- An object of one code word, 0x04731800, without data and symbols. -/
def objectBytes (at' : Nat) : Table Byte :=
  [(0, 0x42#8), (1, 0x58#8), (2, 0x44#8), (3, 0x4B#8), (5, 1#8), (8, 4#8), (13, 1#8), (25, 1#8), (0x41, 0x18#8), (0x42, 0x73#8), (0x43, 0x04#8)].map
    (fun p => (at' + p.1, p.2))

def globalAt (a : Nat) : Nat := 2 ^ 63 + a

/-- Where a record that has started or may start stands. -/
theorem wit_RecordsComplete_now :
    (∀ b ∈ [true, false], let r := rec b 0 0 0 0
      (desk false r [] []).recordNow = some r) ∧
    (let r := { rec false 2 0 0 0 with index := 1 }
     (desk false r [] [rec true 2 0 0 0]).recordNow = some r) ∧
    (let r := rec false 0 0 0 0
     (((desk false r [] []).begun r).queue 0).pfq = false) := by
  decide +kernel

theorem wit_RecordsComplete_tenant : let r := rec false 7 (1 + 2 ^ 16 * 1024 + 2 ^ 32 * 1024) 0 0
    let s := { desk true r [] [] with status := { ready := true, pool := 1024#11 } }
    let x := s.begun r
    s.recordNow = some r ∧ (x.queue 0).pfq = true ∧ r.num 10 2 ≤ r.num 12 2 ∧ x.noneHeld = false ∧ { x with jobs := [] }.noneHeld = true ∧ (∀ p ∈ x.tenants, p.2.pending = none) ∧
      (((List.range 16).filter (fun m => m ≠ r.num 8 1)).map x.minOf).foldl (· + ·) 0 + r.num 10 2 = x.status.pool.toNat := by
  decide +kernel

theorem wit_RecordsComplete_launch :
    (let r := rec false 1 0 0 0
     let s := desk false r [] []
     let x := s.begun r
     s.recordNow = some r ∧ r.started = false ∧
      (match x.checkLaunch 0 (x.tenantAt 0 { rd := true }) (r.word 8) with | .fails status _ => status == 6 | _ => false) = true) ∧
    (let r := rec false 1 (globalAt 0x1000) 0 0
     let s := desk false r [(5, 1#8), (0x1001, 1#8), (0x1010, 0x40#8), (0x1014, 1#8), (0x101D, 2#8), (0x1022, 1#8)] []
     let x := s.begun r
     s.recordNow = some r ∧
      (match x.checkLaunch 0 (x.tenantAt 0 { rd := true }) (r.word 8) with | .ok q => recExtent q == 65536 && !recMulti q | _ => false) = true) := by
  decide +kernel

/-- A COPY at its first bytes and at its last. -/
theorem wit_RecordsComplete_copy : ∀ n ∈ [0, 44, 256], let r := { rec true 2 (globalAt 0) (globalAt 0x200) 300 with moved := n }
    let s := desk false r [] []
    let m := blockLen (BitVec.ofNat 64 (globalAt (0x200 + n))) (300 - n)
    s.recordNow = some r ∧ s.begun r = s ∧ blockLen (r.word 16 + BitVec.ofNat 64 r.moved) ((r.word 24).toNat - r.moved) = m ∧
      (match s.hostPlaces r.hostSince 0 { rd := true } (pieces 3 (r.word 8 + BitVec.ofNat 64 r.moved) m) with
       | .ok ps => (s.readPlaces ps).length == m | _ => false) = true ∧
      (match s.hostPlace r.hostSince 0 { wr := true } (r.word 16 + BitVec.ofNat 64 r.moved) m with | .ok l => l == .host 0 (0x200 + n) | _ => false) = true ∧
      s.waiters = [] ∧ (s.strands.all (fun p => !p.2.joint.isOpen)) = true := by
  decide +kernel

theorem wit_RecordsComplete_publish :
    (let r := rec false 2 0 0 256
     let s := desk false r [] []
     let x := s.begun r
     s.recordNow = some r ∧ (match x.publish 0 (x.tenantAt 0 { rd := true }) (r.word 8) (r.word 16) (some (r.word 24).toNat) with
       | .fails w => w == publishFailure 1 0 | _ => false) = true) ∧
    (let r := rec false 2 (globalAt 0x2000) (globalAt (2 ^ 33)) 256
     let s := desk false r (objectBytes 0x2000) []
     let x := s.begun r
     s.recordNow = some r ∧ (match x.publish 0 (x.tenantAt 0 { rd := true }) (r.word 8) (r.word 16) (some (r.word 24).toNat) with
       | .done _ w => w == BitVec.ofNat 64 (2 ^ 33) | _ => false) = true) := by
  decide +kernel

/-- A SIGNAL and a WAIT of a host word: met at once, not met, and not met at the end of its time. -/
theorem wit_RecordsComplete_wait :
    (let r := rec false 3 (globalAt 8) 5 0
     let s := desk false r [] []
     s.recordNow = some r ∧ (match (s.begun r).hostPlace r.hostSince 0 { wr := true } (r.word 8) 8 with | .ok l => l == .host 0 8 | _ => false) = true ∧
      (s.begun r).waiters = [] ∧ ((s.begun r).strands.all (fun p => !p.2.joint.isOpen)) = true) ∧
    (∀ b ∈ [true, false], ∀ w ∈ [(0, true), (1, false), (2 ^ 32, false)], let r := rec b 4 (globalAt 8) (if w.2 then 0 else 1) (w.1 / 2 ^ 32 * 2 ^ 32)
      let s := { desk false r [] [] with ticks := 17000 }
      let x := s.begun r
      s.recordNow = some r ∧ r.nextAt ≤ s.ticks ∧
        (match x.hostPlace r.hostSince 0 { rd := true } (r.word 8) 8 with
         | .ok l => waitHolds (r.num 24 1) (BitVec.ofNat 64 (x.readNat l 8)) (r.word 16) == w.2 | _ => false) = true ∧
        (b = true → (s.asBegun r).startAt + 17000 * r.num 28 4 ≤ s.ticks)) ∧
    ((rec true 4 0 1 0).num 28 4 = 0 ∧ (rec true 4 0 1 (2 ^ 32)).num 28 4 = 1) := by
  decide +kernel

/-! #### SAVE and RESTORE -/

/-- A SAVE that has started on a part without jobs, into a buffer of 8 GiB. -/
def saveRec : HostRecord := rec true 5 (globalAt 0) (2 ^ 33) 0
def saving : State := { (desk true saveRec [] []) with jobs := [] }

theorem saving_place (o : Nat) (ho : o < 2 ^ 33) : ∃ l tlb, saving.tenantAt 0 { wr := true } (BitVec.ofNat 64 (globalAt o)) = .at (.host 0 l) tlb := by
  have hb : bitAt 63 (BitVec.ofNat 64 (globalAt o)) = true := by
    simp only [bitAt, globalAt, BitVec.getLsbD_ofNat, Nat.testBit_eq_decide_div_mod_eq]
    simp only [Bool.and_eq_true, decide_eq_true_eq]
    omega
  have h1 : natAt 49 14 (BitVec.ofNat 64 (globalAt o)) = 0 := by
    simp only [natAt, globalAt, BitVec.extractLsb'_toNat, BitVec.toNat_ofNat, Nat.shiftRight_eq_div_pow]
    omega
  have h2 : natAt 0 49 (BitVec.ofNat 64 (globalAt o)) = o := by
    simp only [natAt, globalAt, BitVec.extractLsb'_toNat, BitVec.toNat_ofNat, Nat.shiftRight_eq_div_pow]
    omega
  have hg : isGlobal (BitVec.ofNat 64 (globalAt o)) = true := by simp [isGlobal, hb, h1]
  have ht : saving.translate saving.cpTlb 0 o = .leaf 1 hostLeaf := by
    show (match [(⟨0, 1, 0, hostLeaf⟩ : TlbEntry), ⟨0, 1, 1, BitVec.ofNat 64 placedLeaf⟩].find?
        (fun t => t.tenant == 0 && t.page == o / 2 ^ pageBits t.level) with
      | some t => Walk.leaf t.level t.leaf
      | none => saving.walkFrom saving.cpTlb.fencedAt walkLevels (saving.rootOf 0) o) = .leaf 1 hostLeaf
    have hd' : o / 8589934592 = 0 := Nat.div_eq_of_lt ho
    simp [List.find?, pageBits, hd']
  refine ⟨natAt 20 44 hostLeaf * 256 + o % 2 ^ 33, fillTlb saving.cpTlb 0 o 1 hostLeaf, ?_⟩
  simp only [State.tenantAt, hg, if_true, State.resolveGlobal, h2, ht]
  have e1 : bitAt 3 hostLeaf = true := by decide
  have e2 : bitAt 5 hostLeaf = true := by decide
  have e3 : natAt 7 2 hostLeaf = 1 := by decide
  have e4 : natAt 11 2 hostLeaf = 0 := by decide
  simp [e1, e2, e3, e4, pageBits]

theorem saving_unlocked : saving.anyLocked = false := by decide +kernel

theorem saving_buffer (fuel o n : Nat) (h : o + n ≤ 2 ^ 33) :
    ∃ ps, saving.hostPlaces none 0 { wr := true } (pieces fuel (BitVec.ofNat 64 (globalAt o)) n) = .ok ps := by
  induction fuel generalizing o n with
  | zero => exact ⟨[], rfl⟩
  | succ fuel ih =>
    simp only [pieces]
    split
    · exact ⟨[], rfl⟩
    · rename_i hn
      have hb : (BitVec.ofNat 64 (globalAt o)).toNat % 256 = o % 256 := by simp only [globalAt, BitVec.toNat_ofNat]; omega
      rw [hb]
      generalize hm : Nat.min n (256 - o % 256) = m
      have hm' : 1 ≤ m ∧ m ≤ n := by subst hm; simp only [Nat.min_def]; split <;> omega
      have e1 : BitVec.ofNat 64 (globalAt o) + BitVec.ofNat 64 m = BitVec.ofNat 64 (globalAt (o + m)) := by
        rw [← BitVec.ofNat_add]; simp only [globalAt]; congr 1; omega
      have e2 : BitVec.ofNat 64 (globalAt o) + BitVec.ofNat 64 (m - 1) = BitVec.ofNat 64 (globalAt (o + (m - 1))) := by
        rw [← BitVec.ofNat_add]; simp only [globalAt]; congr 1; omega
      obtain ⟨l, tlb, hl⟩ := saving_place o (by omega)
      obtain ⟨l2, tlb2, hl2⟩ := saving_place (o + (m - 1)) (by omega)
      obtain ⟨ps, hps⟩ := ih (o + m) (n - m) (by omega)
      have hp : saving.portUp 0 = true := by decide
      have hf : saving.env.holes = [] := by decide +kernel
      have hk : saving.lockedFor 0 (.host 0 l) m = false := by
        have := saving_unlocked
        simp only [State.lockedFor, State.anyLocked, List.any_eq_false] at this ⊢
        intro p hp h
        simp only [Bool.and_eq_true] at h
        exact this p hp h.1.2
      have ha : saving.hostAnswer (.host 0 l) = .completes := by simp [State.hostAnswer, hp, hf]
      rw [e1]
      simp only [State.hostPlaces, State.hostPlace, e2, hl, hl2, hk, ha, hps, Bool.false_eq_true, if_false]
      exact ⟨_, rfl⟩

theorem wit_RecordsComplete_save : let s := saving
    let r := saveRec
    s.recordNow = some r ∧ s.begun r = s ∧ (s.queue 0).pfq = true ∧ s.liveJobs.foldl State.stopForSave s = s ∧ s.saveReady = true ∧ s.waiters = [] ∧
      s.saveBytes ≤ (r.word 16).toNat ∧ ∃ ps, s.hostPlaces r.hostSince 0 { wr := true } (pieces (s.saveBytes / 256 + 2) (r.word 8) s.saveBytes) = .ok ps := by
  have hn : saving.saveBytes ≤ 2 ^ 33 := by
    have h := (Config.sections 0).isLt
    show 65536 * (Config.sections 0).toNat + 0 + 0 + 64 ≤ 2 ^ 33
    omega
  have hw : saveRec.word 16 = BitVec.ofNat 64 (2 ^ 33) := by decide +kernel
  have h8 : saveRec.word 8 = BitVec.ofNat 64 (globalAt 0) := by decide +kernel
  refine ⟨by decide +kernel, rfl, rfl, rfl, rfl, rfl, ?_, ?_⟩
  · rw [hw]; exact hn
  · rw [h8]; exact saving_buffer _ 0 _ (by simpa using hn)

/-- A SAVE of the placed job, which runs: before it has stopped nothing is saved. -/
theorem wit_RecordsComplete_save_live : ∀ b ∈ [true, false], let r := { saveRec with started := b }
    let s := desk true r [] []
    let x := s.begun r
    s.recordNow = some r ∧ ((s.begun r).queue 0).pfq = true ∧ x.liveJobs = [1] ∧
      (if b then x.liveJobs.foldl State.stopForSave x else x.beginSave).saveReady = false := by
  decide +kernel

/-- An image of the least length: a trailer alone, whose digest is that of no bytes. -/
def restoring : State :=
  let s := desk true (rec false 6 (globalAt 0) 64 0) [] []
  let s1 := s.putNat (.host 0 0) 64 (64 + natOfBytes (digestBytes (sm3 [])) * 2 ^ 64)
  { s1 with jobs := []
            saved := [{ tenant := 0, addr := 0#64, length := 64, version := s.firmware, tick := 0, jobs := [], ctxs := [], strands := [], hq := [], range := [],
                        tenants := [], fault := [], sched := {}, published := [], peers := [], digest := sm3 [] }] }

theorem wit_RecordsComplete_restore :
    (let r := rec false 6 0 0 0
     let s := desk true r [] []
     s.recordNow = some r ∧ ((s.begun r).queue 0).pfq = true ∧ (s.begun r).jobs.any (fun p => p.2.phase != .ended) = true) ∧
    (let r := rec false 6 (globalAt 0) 64 0
     let s := restoring
     let x := s.begun r
     let n := (r.word 16).toNat
     s.recordNow = some r ∧ (x.queue 0).pfq = true ∧ x.jobs.any (fun p => p.2.phase != .ended) = false ∧ 64 = n ∧
      (match x.hostPlaces r.hostSince 0 { rd := true } (pieces (n / 256 + 2) (r.word 8) n) with
       | .ok ps => let bs := x.readPlaces ps
         ((bs.drop (n - 64)).take 8 == (List.range 8).map (fun i => BitVec.ofNat 8 (n / 256 ^ i)))
          && ((bs.drop (n - 56)).take 32 == digestBytes (sm3 (bs.take (n - 64))))
          && (x.saved.find? (fun v => v.digest == sm3 (bs.take (n - 64)) && v.length == n && v.version == x.firmware)).isSome
       | _ => false) = true) := by
  decide +kernel

end Sys2Proof.Tests
end

