-- ==== Sys2Proof/Tests/WitnessMachine.lean ====
section
/-! SUPPORT. For the claims about encodings and the step: instructions, words and states that meet the hypotheses together, and steps on
small states whose results the spec gives. -/

namespace Sys2Proof.Tests

-- One theorem after the other: kernel evaluations in parallel ask for more threads than the memory limit gives.
set_option Elab.async false
open Sys2Proof.Machine

def encodable : List Instr := [.addi 31 31 0xFFFF, .fma 31 31 31 3 3, .beq 31 31 0x8000, .vldg 15 31 15 3 2 1 7, .halt, .pand 7 7 7]

/-- R278–R288: instructions with operands at the ends of their ranges, and their words. -/
theorem wit_StrandRoundTrip : ∀ i ∈ encodable, i.wellFormed = true ∧ (encodeWord i).isSome = true := by decide +kernel

theorem wit_WordsHaveOneMeaning : ∀ w ∈ [0x0AA5B052#32, 0x46808002#32, 0xA0246000#32], ∃ i, decodeWord w = .ok i := by
  intro w hw
  simp only [List.mem_cons, List.not_mem_nil, or_false] at hw
  rcases hw with rfl | rfl | rfl
  · exact ⟨.fma 10 11 12 0 2, by decide⟩
  · exact ⟨.loop 8 1 2, by decide⟩
  · exact ⟨.pand 1 2 3, by decide⟩

theorem wit_CommandRoundTrip : ∀ i ∈ [Instr.mark (hdr 8 0xF0), .mclear (hdr 0 4) 511 1, .cpyi (hdr 4 0x16) 0xFFFF 0 16 0],
    i.wellFormed = true ∧ (encodeCommand i).isSome = true := by decide +kernel

/-- The state after reset with a word placed. -/
def fetching (w : Nat) : State := State.reset.withFetchWord 32 w

def sampleWords : List Nat := [0x04731800, 0x00000000, 0x0473180F]

/-- A word that decodes, one that names no form, and one with a reserved bit set: each is fetched in the first slot. -/
theorem wit_StepRunsDecoded_fetch : ∀ w ∈ sampleWords, (fetching w).mayIssue ∧ (fetching w).fetches32 (BitVec.ofNat 32 w) := by
  intro w hw
  simp only [sampleWords, List.mem_cons, List.not_mem_nil, or_false] at hw
  rcases hw with rfl | rfl | rfl <;>
    exact ⟨by unfold State.mayIssue; decide +kernel, by decide +kernel, by decide +kernel,
      ⟨.rim (32 * 2 ^ 36 + 43690 * 4096 + 64) false, { entries := [⟨0, 1, 0, BitVec.ofNat 64 placedLeaf⟩] }, by decide +kernel⟩, ⟨_, rfl, by decide +kernel⟩⟩

theorem wit_StepRunsDecoded_slot : ∀ w ∈ sampleWords, (fetching w).act = .slot ∧
    ((fetching w).fillArrived (fetching w).cur).completeOps (fetching w).cur (fun o => o.due (fetching w).cycle) = (fetching w, false) ∧ (fetching w).me.musts (usesOf (.add 7 6 6)) = [] ∧ (fetching w).me.out = [] := by
  decide +kernel

theorem wit_StepRunsDecoded_words : decodeWord 0x04731800#32 = .ok (.add 7 6 6) ∧ decodeWord 0#32 = .illegalOpcode ∧
    decodeWord 0x0473180F#32 = .reservedBits := by decide

theorem wit_StepRunsDecoded_event : let x : Input := { port := 3 }
    let s : State := { agenda := [(0, .portBackUp, x), (9, .portHotReset, x)] }
    s.outside = some ((.portBackUp, x), [(9, .portHotReset, x)]) := by decide +kernel

theorem wit_StepGoesOn : State.reset.powerLost = false := rfl

theorem wit_MemoryKeepsForm : State.reset.memWf = true ∧ (fetching 0x04731800).memWf = true ∧
    (match step (fetching 0x04731800) with | .next t => t.memWf | _ => false) = true := by decide +kernel

theorem wit_ReadyAfterBringUp : State.reset.readyOk = true ∧ (fetching 0x04731800).readyOk = true ∧
    (match step (fetching 0x04731800) with | .next t => t.readyOk && t.status.ready | _ => false) = true := by decide +kernel

end Sys2Proof.Tests
end

