-- ==== Sys2Proof/Tests/WitnessSched.lean ====
section
/-! SUPPORT. For the claims about the scheduler, other modules, the step and the encodings: states and operands that meet the hypotheses of
each clause together. -/

namespace Sys2Proof.Tests

-- One theorem after the other: kernel evaluations in parallel ask for more threads than the memory limit gives.
set_option Elab.async false
open Sys2Proof.Machine

/-- The part in an event for the placed gang, with the gang changed. -/
def ganged (f : Gang → Gang) (g : State → State := id) : State :=
  { (g (run.modGang 1 0 f)) with input := { handle := 1, gang := 0, ctx := placedCtx } }

/-- Every strand of the placed context has stopped. -/
def still (s : State) : State := (List.range 16).foldl (fun x i => x.modStrand (strandKey placedCtx i) (fun st => { st with stopped := true })) s

/-- A second job of one tile waits, and its tenant may hold one tile. -/
def crowded (f : Gang → Gang) : State :=
  let s := ganged f (fun s => s.setJob 2 { phase := .live, record := placedRecord, g := 1, gangs := [(0, { eligibleAt := some 0 })] })
  { s with status := { s.status with pool := 1#11 }, ticks := 340000 }

/-- A parked packet of one word for the placed context. -/
def parked : InPacket := { dest := placedCtx, cls := 2, sender := run.cur, words := [5#64], hdr := some 9#64 }

theorem wit_SchedulerEvents_turns :
    (let s := { run with cycle := 0x800000 }
     s.sched.lastTurn + 2 * s.sched.eff.turnlen.toNat = s.cycle) ∧
    (∀ b ∈ [true, false], let m : Move := ⟨placedCtx, 0, 1, none⟩
      let s := { (still (ganged id)).setEntries [placedCtx] (fun e => { e with move := b }) with moves := [m] }
      s.moves.find? (fun m => m.ctx == s.input.ctx) = some m ∧ m.other = none ∧ s.moveVoid m = false ∧ s.moveReady m = true ∧
        ((s.job (jobOf m.ctx)).entry (vtidOf m.ctx)).move = b) := by
  decide +kernel

theorem wit_SchedulerEvents_leave :
    (let s := crowded (fun g => { g with blockedSince := some 0 })
     s.overIdle (s.gang 1 0) = true ∧ (s.gang 1 0).state = .resident ∧ (1, 0) ∈ s.victims 0 false) ∧
    (let s := still (ganged (fun g => { g with state := .stopping }))
     (s.gang 1 0).state = .stopping ∧ (s.gang 1 0).reason ≠ .save ∧ s.gangStopped 1 0 = true ∧ s.areaUsed ≤ s.areaBytes ∧ placedCtx ∈ s.members 1 0 ∧ jobOf placedCtx = 1) ∧
    (let s := (still (ganged (fun g => { g with state := .stopping, parkAlloc := true }))).setEntries [placedCtx] (fun e => { e with res := false })
     (s.gang 1 0).state = .stopping ∧ (s.gang 1 0).reason ≠ .save ∧ s.gangStopped 1 0 = true ∧
      ∀ c ∈ s.members 1 0, ((s.job 1).entry (vtidOf c)).res = false) := by
  decide +kernel

theorem wit_SchedulerEvents_come :
    (let s := { ganged (fun g => { g with state := .pending }) with status := { ready := true, pool := 1#11 } }
     s.fixSizes.nextPlace = some (1, 0)) ∧
    (∀ b ∈ [true, false], let s := (ganged (fun g => { g with state := .loading })).modCtx placedCtx (fun c => { c with live := !b })
     (s.gang 1 0).state = .loading ∧ (∃ c ∈ s.members 1 0, ((s.job 1).entry (vtidOf c)).done = false) ∧ (∀ c ∈ s.members 1 0, (s.tile (s.ptid c)).emergency = false) ∧
      (s.fresh 1 0 = b ∧ (b = true → recSmask (s.job 1).record ≠ 0#16) ∧ (b = false → ∀ c ∈ s.members 1 0, s.idleContext c = false))) ∧
    (((ganged id).gang 1 0).state = .resident ∧ ((ganged id).gang 1 0).park = []) ∧
    (let s := ganged (fun g => { g with park := [.packet parked] })
     (s.gang 1 0).state = .resident ∧ s.nextParked [] (s.gang 1 0).park = some (.packet parked) ∧ parked.hdr = some 9#64 ∧ s.path parked.dest ≠ .gone) ∧
    (let s := { ganged id with ticks := 34000000 }
     (s.gang 1 0).state = .resident ∧ s.overMinres (s.gang 1 0) = true ∧ { s with ticks := 33999999 }.overMinres (s.gang 1 0) = false) ∧
    (let s := (ganged id (fun s => (s.modJob 1 (fun j => { j with record := j.record ||| (1#1024 <<< 16) })).modStrand run.cur
        (fun st => { st with state := .engwait, arrived := true, stepk := 1#32 })))
     recBuddy (s.job 1).record = true ∧ (s.gang 1 0).state = .resident ∧ s.allArrived 1 0 ((s.gang 1 0).mark + 1) = true ∧ s.trussBusy 1 0 = false ∧
      (∀ c ∈ s.members 1 0, s.enginesStopped c = true) ∧ (∀ i, i < (s.job 1).gangCount → (s.gang 1 i).completed (s.gang 1 0).mark = true) ∧
      (∀ w ∈ s.waiters, ctxOf w.key ∉ s.members 1 0) ∧ placedCtx ∈ s.members 1 0 ∧ (s.strand (strandKey placedCtx 0)).alive = true ∧ (s.strand (strandKey placedCtx 0)).state ≠ .halted) := by
  decide +kernel

/-- The record of the placed job over two modules, the other of which is peer 2. -/
def sharedRecord : BitVec 1024 := placedRecord ||| (1#1024 <<< 17) ||| (1#1024 <<< 642)

/-- A message of peer 2 about its job 7, with this module's job 1 changed. -/
def heard (f : Job → Job) : State :=
  { (run.modJob 1 (fun j => f { j with record := sharedRecord })) with input := { peer := 2, handle := 7, launch := sharedRecord }, nextHandle := 2 }

/-- The name of job 7 of peer 2. -/
def jobSeven : Nat := 2 * 2 ^ 64 + 7

/-- The same where job 1 is this module's part of that job, in a message that names it by `h`. -/
def part (h : Nat) (f : Job → Job) : State :=
  { (heard (fun j => f { j with origin := .remote 2, remote := 7 })) with input := { peer := 2, handle := h, launch := sharedRecord } }

/-- Job 1 waits for acknowledgements, 50 µs after it asked for them. -/
def starting (owed : BitVec 64) : State :=
  { heard (fun j => { j with phase := .arming, owed := owed }) with input := { peer := 2, handle := 1 }, ticks := 850000 }

theorem wit_ModuleEvents :
    (let s : State := { run with ticks := 3400000, peers := [(2, { routed := true })], input := { peer := 2 } }
     (s.peer s.input.peer).routed = true ∧ (s.peer s.input.peer).lost = false ∧ (s.peer s.input.peer).lastFlit + 3400000 = s.ticks) ∧
    ((heard id).input.saved = false ∧
      (match (heard id).wake.checkRecord (recTen (heard id).input.launch % 16) (heard id).input.launch with | .fails status _ => status == 6 | _ => false) = true) ∧
    (∀ tiles ∈ [0#11, 2#11], let s := { (((heard id).putRim 0 8 placedLeaf).putRim (2 ^ 33 + 5) 1 1) with status := { ready := true, pool := tiles } }
     s.input.saved = false ∧
      (match s.wake.checkRecord (recTen s.input.launch % 16) s.input.launch with | .ok r => r == sharedRecord | _ => false) = true) ∧
    (∀ b ∈ [true, false], let s := { part 7 (fun j => { j with restored := b }) with input := { peer := 2, handle := 7, saved := true } }
     s.input.saved = true ∧ s.partOf 2 7 = some 1 ∧ (s.job 1).restored = b) ∧
    (((starting 4#64).job 1).phase = .arming ∧ ((starting 4#64).job 1).owed &&& ~~~(1#64 <<< 2) = 0#64 ∧
      ((starting 5#64).job 1).owed &&& ~~~(1#64 <<< 2) ≠ 0#64 ∧ ((starting 4#64).job 1).armAt + 850000 = (starting 4#64).ticks ∧
      ((starting 4#64).job 1).armAt + 850000 < ({ starting 4#64 with ticks := 850001 } : State).ticks) ∧
    (let s := part jobSeven (fun j => { j with phase := .armed })
     s.jobNamed 2 jobSeven = some 1 ∧ (part 7 (fun j => { j with phase := .armed })).partOf 2 7 = some 1 ∧ (s.job 1).phase = .armed ∧ (s.job 1).firstHere = some 0) ∧
    ((part jobSeven id).jobNamed 2 jobSeven = some 1 ∧ ((part jobSeven id).job 1).phase = .live ∧ ((part jobSeven id).job 1).restored = false ∧
      2 ∉ ((part jobSeven id).job 1).savers ∧ (heard id).jobNamed 2 ((heard id).jobName 1) = some 1) ∧
    (let s := { part 7 (fun j => { j with restored := true }) with ticks := 850000, peers := [(2, { routed := true, lost := true })] }
     s.partOf 2 7 = some 1 ∧ (s.job 1).restored = true ∧ (s.peer 2).lost = true ∧ (s.job 1).armAt + 850000 = s.ticks) := by
  decide +kernel

end Sys2Proof.Tests
end

