-- ==== Sys2Proof/Tests/WitnessStrand.lean ====
section
/-! SUPPORT. For the claims about packets, queues, pegs, strands and the system instructions: states and operands that meet the hypotheses of
each clause together. -/

namespace Sys2Proof.Tests

-- One theorem after the other: kernel evaluations in parallel ask for more threads than the memory limit gives.
set_option Elab.async false
open Sys2Proof.Machine

/-! ### Packets -/

/-- A strand with an open packet of `n` words to its own context in class 2, and what stands at the interface. -/
def sending (n : Nat) (words : List Word) : State :=
  inCtx (handled [(9, 7#64)] (fun st => { st with packet := some ⟨placedCtx, 2, 0#32, n⟩ }))
    (fun c => { c with staging := if words = [] then [] else [{ dest := placedCtx, cls := 2, sender := run.cur, words := words, hdr := none }] })

/-- The state with the gang of the placed job changed. -/
def withGang (s : State) (f : Gang → Gang) : State := s.modGang 1 0 f

theorem wit_PacketsSent : let s := handled [(6, 0x20000#64), (7, 1#64)]
    let p : Packet := ⟨placedCtx, 2, 0#32, 62⟩
    (s.me.packet = none ∧ (s.me.rg 6).toNat % 65536 < recTiles (s.job 1).record) ∧
    (s.me.packet = none ∧ ¬ (s.me.rg 7).toNat % 65536 < recTiles (s.job 1).record ∧ s.trapReady) ∧
    ((sending 1 []).me.packet ≠ none ∧ (sending 1 []).trapReady) ∧
    ((sending 62 []).me.packet = some p ∧ p.len < 63 ∧ (sending 62 []).path p.dest = .direct ∧ ((sending 62 []).gangOf p.dest).park = [] ∧
      (sending 62 []).stagingRoom p.dest p.cls = true) ∧
    (let t := (sending 1 []).modJob 1 (fun j => { j with xlt := [(0, { done := true })] })
     t.me.packet = some ⟨placedCtx, 2, 0#32, 1⟩ ∧ t.path placedCtx = .gone) ∧
    (let t := sending 62 (List.replicate 64 0#64)
     t.me.packet = some p ∧ t.path p.dest = .direct ∧ (t.ctx p.dest).mine t.cur ≠ [] ∧ t.stagingRoom p.dest p.cls = false) ∧
    (let t := sending 63 [1#64]
     let far := t.modJob 1 (fun j => { j with away := [(0, some 3)] })
     let full := sending 63 (List.replicate 64 0#64)
     let parked := withGang t (fun g => { g with park := [.packet { dest := placedCtx, cls := 2, sender := run.cur, words := [5#64], hdr := some 9#64 }] })
     let follows := fun (s : State) => (s.gangOf placedCtx).park.any (fun e => match e with
       | .packet q => q.hdr.isSome && ctxOf q.sender == ctxOf s.cur && q.dest == placedCtx && q.cls == 2
       | _ => false)
     follows t = false ∧ follows parked = true ∧ parked.me.packet = some ⟨placedCtx, 2, 0#32, 63⟩ ∧ parked.stagingRoom placedCtx 2 = true ∧
      parked.awayAt placedCtx = none ∧
     t.me.packet = some ⟨placedCtx, 2, 0#32, 63⟩ ∧ (∀ u ∈ [t, far, full, parked], u.performed ∧ u.path placedCtx ≠ .gone ∧ (u.ctx placedCtx).mine u.cur ≠ [])
      ∧ t.awayAt placedCtx = none ∧ t.stagingRoom placedCtx 2 = true ∧ far.awayAt placedCtx = some 3 ∧ far.stagingRoom placedCtx 2 = true
      ∧ full.stagingRoom placedCtx 2 = false) := by
  unfold State.trapReady State.performed; decide +kernel

/-- An inbox of class 2 with a header and its word, where 1 word of the packet before is left; class 3 bound to another strand. -/
def receiving (left : Nat) : State :=
  inCtx (handled []) (fun c => { c with mcb := 0x1000#32, rest := if left = 0 then [] else [(2, left)],
                                        inbox := [(2, [⟨5#64, false, none, []⟩, ⟨0x80002#64, true, none, []⟩, ⟨9#64, false, none, []⟩])] })

theorem wit_PacketsArrive : let s := receiving 1
    let x := s.ctx (ctxOf s.cur)
    let bound := fun (n : Nat) => x.mcb.toNat / 16 ^ n % 16 = stridOf s.cur
    (bound 2 ∧ tableGet [] x.inbox 2 = ⟨5#64, false, none, []⟩ :: [⟨0x80002#64, true, none, []⟩, ⟨9#64, false, none, []⟩]) ∧
    ((tableGet [] x.inbox 2).drop (tableGet 0 x.rest 2) = ⟨0x80002#64, true, none, []⟩ :: [⟨9#64, false, none, []⟩]) ∧
    (bound 7 ∧ tableGet [] x.inbox 7 = []) ∧ (¬ bound 3 ∧ s.trapReady) := by
  unfold State.trapReady; decide +kernel

/-! ### Lease, guards, queues and pegs -/

theorem wit_LeasePasses : let s := fun h w => inCtx (handled []) (fun c => { c with lease := { holder := h, waiters := w } })
    let l := fun (t : State) => (t.ctx (ctxOf t.cur)).lease
    (l (s none 0)).holder = none ∧ (l (s (some 0) 0)).holder = some (stridOf (s (some 0) 0).cur) ∧ (l (s (some 0) 0)).waiters = 0#16 ∧
      (l (s (some 0) 0x8000)).waiters ≠ 0#16 ∧ ((l (s (some 15) 0)).holder = some 15 ∧ 15 ≠ stridOf (s (some 15) 0).cur) := by decide +kernel

/-- Guard slot 7 resolved and not; a head that waits for it. -/
theorem wit_GuardsResolve : let s := handled [(5, 1#64)]
    let x := fun (t : State) => t.ctx (ctxOf t.cur)
    let g := inCtx s (fun c => { c with guards := [(7, .isTrue)] })
    (tableGet Guard.unresolved (x g).guards 7 ≠ .unresolved ∧ g.trapReady) ∧
    (tableGet Guard.unresolved (x s).guards 7 = .unresolved ∧ s.performed ∧ (x s).headsMet ∧
      (∀ a ∈ [4#5, 5#5], s.me.rg a = 0#64 → ∀ q e r, (x s).cmdList q = e :: r → e.guard ≠ some 7#3)) := by
  refine ⟨by unfold State.trapReady; decide +kernel, by decide +kernel, by unfold State.performed; decide +kernel, headsMet_of _ (by decide +kernel), ?_⟩
  intro a _ _ q e r h
  have hc : ((handled [(5, 1#64)]).ctx (ctxOf (handled [(5, 1#64)]).cur)).cmds = [] := by decide +kernel
  simp [Ctx.cmdList, hc, tableGet] at h

/-- Entries of a queue, all the same. -/
def entries (n : Nat) : List CmdEntry := List.replicate n { word := 0xF1#256, guard := none, issuer := 0, seq := 0 }

theorem wit_QueuesMove : let s := inCtx (handled []) (fun c => { c with lease := { holder := some 0 } })
    let x := fun (t : State) => t.ctx (ctxOf t.cur)
    let full := inCtx s (fun c => { c with cmds := [(4, entries 16)], rows := [(2, List.replicate 64 1#2048)] })
    let most := inCtx s (fun c => { c with cmds := [(4, entries 15)], rows := [(2, List.replicate 63 1#2048), (9, [1#2048])] })
    (4 ∈ [0, 4, 5, 6, 8] ∧ (28#5).toNat % 4 = 0 ∧ ((x most).cmdList 4).length < depthOf 4 ∧ most.performed) ∧
    ((x s).headsMet ∧ tableGet Guard.unresolved (x s).guards 7 = .unresolved ∧ (x s).lease.holder = some (stridOf s.cur)) ∧
    (16 ≤ (16#5).toNat ∧ (x most).lease.holder = some (stridOf most.cur) ∧ ((x most).rowList 2).length < 64) ∧
    (depthOf 4 ≤ ((x full).cmdList 4).length ∧ 64 ≤ ((x full).rowList 2).length ∧ (x full).lease.holder = some (stridOf full.cur)) ∧
    ((x most).rowList 9 = 1#2048 :: [] ∧ (x s).rowList 9 = []) ∧ ((x most).rowList 2).length < 256 := by
  refine ⟨by unfold State.performed; decide +kernel, ⟨headsMet_of _ (by decide +kernel), by decide +kernel, by decide +kernel⟩, ?_⟩
  decide +kernel

/-- A pool with `n` entries live, each of phase 0 that expects 2, and handles in g6 (entry 0, phase 0) and g7 (entry 0, phase 1). -/
def pegs (n : Nat) : State :=
  inCtx (handled [(5, 65535#64), (6, 0#64), (7, 0x10000#64), (8, 1#64), (9, 65536#64)])
    (fun c => { c with pegs := (List.range n).map (fun i => (i, { expect := 2, refs := 1, live := true })) })

theorem wit_PegsWork : let x := fun (t : State) => t.ctx (ctxOf t.cur)
    (1 ≤ ((pegs 31).me.rg 8).toNat ∧ ((pegs 31).me.rg 5).toNat ≤ 65535 ∧ ((x (pegs 31)).peg 31).live = false ∧
      (∀ j, j < 31 → ((x (pegs 31)).peg j).live = true)) ∧
    (∀ j, j < 32 → ((x (pegs 32)).peg j).live = true) ∧
    (((pegs 0).me.rg 6).toNat < 1 ∧ 65535 < ((pegs 0).me.rg 9).toNat ∧ (pegs 0).trapReady) ∧
    ((x (pegs 1)).validHandle ((pegs 1).me.rg 6) = true ∧ (x (pegs 1)).validHandle ((pegs 1).me.rg 7) = true ∧ (pegs 1).performed ∧
      (∀ n, n < 16 → (pegs 1).strand (strandKey (ctxOf (pegs 1).cur) n) = if n = 0 then (pegs 1).me else {}) ∧ (pegs 1).me.pegfreed = false ∧
      ((x (pegs 1)).peg 0).phase.toNat ≠ ((pegs 1).me.rg 7).toNat / 65536 % 65536 ∧
      ((x (pegs 1)).peg 0).phase.toNat = ((pegs 1).me.rg 6).toNat / 65536 % 65536) := by
  unfold State.trapReady State.performed; decide +kernel

theorem wit_PegsWork_invalid : (handled []).trapReady ∧ ((handled []).ctx placedCtx).validHandle ((handled []).me.rg 6) = false ∧
    ctxOf (handled []).cur = placedCtx ∧ (handled []).me.pegfreed = false ∧ (withStrand (fun st => { st with pegfreed := true })).me.pegfreed = true := by
  unfold State.trapReady; decide +kernel

theorem wit_PegsWork_alone : (pegs 1).pegAlone 0 := by
  intro n hn hk ph d h
  have : ∀ n, n < 16 → strandKey (ctxOf (pegs 1).cur) n ≠ (pegs 1).cur → (pegs 1).strand (strandKey (ctxOf (pegs 1).cur) n) = {} := by decide +kernel
  rw [this n hn hk] at h
  cases h

/-! ### System instructions -/

/-- The ring of the tenant off and on. -/
theorem wit_TrapsEnterAndReturn : (handled []).trapReady ∧
    (run.me.out = [] ∧ run.me.trap.tvec = 0#64 ∧ (run.ring 0).en = false) ∧
    (let s := { (handled [] (fun st => { st with trap := { st.trap with ha := true } })) with fault := [(0, { en := true })] }
     s.me.out = [] ∧ s.me.trap.ha = true ∧ (s.ring 0).en = true) := by
  unfold State.trapReady; decide +kernel

/-- A second strand that runs; none; a target of SPAWN that is 15 or running. -/
theorem wit_StrandsStartAndExit : let s := handled [(6, 15#64), (7, 0x8000000000000080#64), (8, 16#64), (9, 2#64)]
    let two := s.setStrand (strandKey placedCtx 15) { state := .ready }
    let k := fun n => strandKey (ctxOf s.cur) n
    (two.me.packet = none ∧ two.me.joint.isOpen = false ∧ two.me.out = [] ∧ k 15 ≠ two.cur ∧ (two.strand (k 15)).state ≠ .inactive
      ∧ (two.strand (k 15)).state ≠ .exited) ∧
    ((s.ctx placedCtx).live = true ∧ (s.gangOf placedCtx).state = .resident ∧ (s.ctx placedCtx).running = [] ∧ (∀ q ∈ [0, 4, 5, 6, 8], (s.ctx placedCtx).cmdList q = []) ∧
      (∀ n, n < 16 → k n ≠ s.cur → (s.strand (k n)).state = .inactive ∨ (s.strand (k n)).state = .exited) ∧ stridOf s.cur < 16) ∧
    ((sending 1 []).me.packet.isSome = true ∧ (sending 1 []).trapReady) ∧
    ((s.me.rg 7).toNat % 4 = 0 ∧ (s.me.rg 6).toNat < 16 ∧ (s.strand (k 15)).state = .inactive ∧ k 15 ≠ s.cur ∧ s.performed) ∧
    ((s.me.rg 9).toNat % 4 ≠ 0 ∧ s.trapReady) ∧ (16 ≤ (s.me.rg 8).toNat ∧ (two.strand (k 15)).state = .ready ∧ two.trapReady) := by
  unfold State.trapReady State.performed; decide +kernel

/-- No word and a time that has passed; no word and a time to come; a word. -/
theorem wit_IdleStepsAndTables : let s := handled [(6, 1#64)]
    let buddy := s.modJob 1 (fun j => { j with record := j.record ||| (1#1024 <<< 16) })
    let x := fun (t : State) => t.ctx (ctxOf t.cur)
    (∀ n, n < 8 → tableGet [] (x s).inbox n = []) ∧ ((s.me.rg 0).toNat ≤ s.ticks / 17 ∧ s.ticks / 17 < (s.me.rg 6).toNat) ∧
    (let r := receiving 0
     (x r).mcb.toNat / 16 ^ 2 % 16 = stridOf r.cur ∧ tableGet [] (x r).inbox 2 ≠ []) ∧
    (s.me.packet = none ∧ recBuddy (s.job 1).record = false) ∧ (buddy.me.packet = none ∧ recBuddy (buddy.job 1).record = true ∧
      buddy.me.arrived = false ∧ buddy.performed) ∧
    ((buddy.modStrand buddy.cur (fun st => { st with arrived := true })).me.arrived = true) ∧ ((sending 1 []).me.packet.isSome = true) := by
  unfold State.performed; decide +kernel

/-- The 256 bytes of the placed object locked; addresses outside it; a length of 0. -/
theorem wit_LinesLock : let s := (handled [(6, 0x8000000000000000#64), (7, 256#64), (8, 257#64)]).setTile 0 { icache := [⟨0, 0, 0#2048, false, 0⟩], usedBy := some placedCtx }
    let tn := (s.job 1).tenant
    (s.me.rg 0).toNat = 0 ∧ ((s.me.rg 7).toNat ≠ 0 ∧ isGlobal (s.me.rg 7) = false) ∧
    ((s.me.rg 8).toNat ≠ 0 ∧ ∃ l ∈ linesOf (s.me.rg 6) 257, s.inObject tn l = false) ∧
    ((s.me.rg 7).toNat ≤ 66048 ∧ isGlobal (s.me.rg 6) = true ∧ (∀ l ∈ linesOf (s.me.rg 6) 256, s.inObject tn l = true ∧
      ((s.tile (s.ptid placedCtx)).findLine tn l).isSome = true) ∧ locksFit (addLocks (s.ctx placedCtx).locks (linesOf (s.me.rg 6) 256)) = true) := by
  decide +kernel

/-- 256 lines are locked already. -/
theorem wit_LinesLock_full : let s := inCtx (handled [(6, 0x8000000000000000#64), (7, 256#64)]) (fun c => { c with locks := (List.range 256).map (· + 1) })
    (∀ l ∈ linesOf (s.me.rg 6) (s.me.rg 7).toNat, s.inObject (s.job 1).tenant l = true) ∧ (s.me.rg 7).toNat ≠ 0 ∧
    locksFit (addLocks (s.ctx placedCtx).locks (linesOf (s.me.rg 6) (s.me.rg 7).toNat)) = false := by decide +kernel

/-- A staged object of one NOP at scratchpad address 0 and a destination that is mapped, or not. -/
def staged (mapped : Bool) : State :=
  let s := inCtx (handled [(7, 0x8000000000010000#64)]) (fun c => { c with spm :=
    [(0, 0x42#8), (1, 0x58#8), (2, 0x44#8), (3, 0x4B#8), (5, 1#8), (8, 4#8), (13, 1#8), (25, 1#8), (0x43, 2#8)] })
  if mapped then s.putRim 0 8 placedLeaf else s

theorem wit_CodePublishes :
    (match (staged false).publish 0 ((staged false).strandRead placedCtx) ((staged false).me.rg 6) ((staged false).me.rg 7) none with
     | .fails w => w == publishFailure 1 0 | _ => false) = true ∧
    (match (staged true).publish 0 ((staged true).strandRead placedCtx) ((staged true).me.rg 6) ((staged true).me.rg 7) none with
     | .done _ w => w == 0x10000#64 | _ => false) = true ∧ (staged true).waiters = [] ∧ (staged true).performed ∧
    (∀ m ∈ [true, false], (staged m).env.flaws = []) := by
  unfold State.performed; decide +kernel

/-- A launch record of one tile at scratchpad address 0, for the placed object, which is mapped or not; with peers it has MULTI set. -/
def launching (mapped : Bool) (peers : Byte := 0) : State :=
  let s := { inCtx (handled []) (fun c => { c with spm := [(1, 1#8)] ++ (if peers = 0 then [] else [(2, 2#8)])
    ++ [(16, 0x40#8), (20, 1#8), (29, 2#8), (34, 1#8)] ++ if peers = 0 then [] else [(80, peers)] }) with nextHandle := 2 }
  if mapped then (s.putRim 0 8 placedLeaf).putRim (2 ^ 33 + 5) 1 1 else s

theorem wit_JobsLaunch : (launching false).checkLaunch 0 ((launching false).strandRead placedCtx) ((launching false).me.rg 6) = .fails 6 0 ∧
    (match (launching true).checkLaunch 0 ((launching true).strandRead placedCtx) ((launching true).me.rg 6) with
     | .ok r => recExtent r == 65536 && !recMulti r | _ => false) = true ∧
    (match (launching true 8).checkLaunch 0 ((launching true 8).strandRead placedCtx) ((launching true 8).me.rg 6) with
     | .ok r => recMulti r && recPeers r == 8#64 | _ => false) = true ∧ (launching true).nextHandle ≠ jobOf (ctxOf (launching true).cur) ∧ (launching true).performed := by
  unfold State.performed; decide +kernel

/-- FRM, a number of no CSR, and ASHAPE with and without the lease. -/
theorem wit_ControlRegistersMove : let s := handled [(6, 5#64), (8, 4#64), (9, 4#64)]
    let l := inCtx s (fun c => { c with lease := { holder := some 0 } })
    let b := inCtx l (fun c => { c with cmds := [(0, entries 1)] })
    let bands := fun (r : BitVec 5) => BitVec.ofNat 4 (l.me.rg r).toNat
    (s.readCsr s.cur 0x009 = some 0#64 ∧ s.me.settled = true ∧ s.me.rg ((4#4) ++ 1#1) ≠ 0#64 ∧ s.me.rg ((5#4) ++ 1#1) = 0#64) ∧
    (s.readCsr s.cur 0x0FF = none ∧ s.trapReady) ∧
    (l.me.settled = true ∧ (l.ctx placedCtx).lease.holder = some (stridOf l.cur) ∧ bands 6 ≠ 0#4 ∧ bands 0 = 0#4 ∧
      (l.ctx placedCtx).cmdList 0 = [] ∧ (l.ctx placedCtx).inProgress 0 = []) ∧
    ((b.ctx placedCtx).cmdList 0 ≠ [] ∧ (b.ctx placedCtx).lease.holder = some (stridOf b.cur)) ∧
    ((s.ctx placedCtx).lease.holder ≠ some (stridOf s.cur)) ∧ (s.readCsr s.cur 0x030).isSome = true := by
  unfold State.trapReady; decide +kernel

/-- Nobody of the placed job waits for a message. -/
theorem wit_ControlRegistersMove_alone : ∀ k, k ≠ (handled []).cur → ∀ cl, ((handled []).strand k).wait ≠ .recv cl := by
  intro k _ cl h
  have := tableGet_all ({} : Strand) (handled []).strands (fun st => st.wait = .none) rfl (by decide +kernel) k
  rw [State.strand, this] at h
  cases h

end Sys2Proof.Tests
end

/-! # Proofs: scalar instructions (O3, O6, O32)

What a P-class trap leaves, the loop levels and the redirect, the words of QCAP and MGMT, and scalar floating point with its flag traps. -/

namespace Sys2Proof.Machine

/-! ### Traps of an instruction (R213, R217) -/

theorem State.me_setStrand (s : State) (v : Strand) : (s.setStrand s.cur v).me = v := tableGet_set_self _ _ _ _

/-- `onlyStrand` does not see what the executing strand held in between. -/
theorem State.onlyStrand_of_setStrand {s t : State} {v : Strand} (h : (s.setStrand s.cur v).onlyStrand t) : s.onlyStrand t := by
  obtain ⟨heq, hstrands, hjobs, hbytes⟩ := h
  refine ⟨heq, fun k hk => (hstrands k hk).trans (tableGet_set_ne _ _ _ _ _ hk), hjobs, fun l => ?_⟩
  rw [(hbytes l).1, (hbytes l).2]
  cases l <;> exact ⟨rfl, rfl⟩

/-- Nor does the trap entry see that the strand was written back as it stood. -/
theorem State.entersHandler_of_setStrand {s t : State} {cause : Nat} {val resume : Word}
    (h : (s.setStrand s.cur s.me).entersHandler t cause val resume) : s.entersHandler t cause val resume := by
  have hsstat : (s.setStrand s.cur s.me).sstat s.cur = s.sstat s.cur := by
    unfold State.sstat
    rw [show (s.setStrand s.cur s.me).strand s.cur = s.strand s.cur from s.me_setStrand _]
    rfl
  obtain ⟨honly, hrest⟩ := h
  rw [s.me_setStrand, show (s.setStrand s.cur s.me).sstat (s.setStrand s.cur s.me).cur = s.sstat s.cur from hsstat] at hrest
  exact ⟨State.onlyStrand_of_setStrand honly, hrest⟩

theorem State.performed_of_out_nil {s : State} (h : s.me.out = []) : s.performed := by
  simp [State.performed, State.unperformed, show (s.strand s.cur).out = [] from h]

/-- R220: with nothing outstanding, nothing completes and no flag traps. -/
theorem State.settleAll_of_out_nil (s : State) (resume : Word) (h : s.me.out = []) :
    s.settleAll s.cur resume = (s.setStrand s.cur s.me, false) := by
  have hout : (s.strand s.cur).out = [] := h
  have hsame : ({ s.strand s.cur with out := [] } : Strand) = s.me := by rw [← hout]; rfl
  unfold State.settleAll
  simp only [hout, List.filter_nil, List.foldl_nil, List.find?_nil, hsame]

/-- R213, R217: a P-class condition other than those that hold the strand traps, where the handler can be reached. -/
theorem State.trapP_takesTrap (s : State) (cause : Nat) (val : Word) (h : s.trapReady) (hc : holds cause = false) :
    s.takesTrap (s.trapP cause val) cause val := by
  obtain ⟨hout, hha, htvec⟩ := h
  have hme := s.me_setStrand s.me
  have hraise : s.trapP cause val = (s.setStrand s.cur s.me).takeTrap s.cur cause val s.me.pc := by
    have hpc : ((s.setStrand s.cur s.me).strand s.cur).pc = s.me.pc := congrArg Strand.pc hme
    unfold State.trapP State.raise
    simp only [s.performed_of (State.performed_of_out_nil hout), show (s.strand s.cur).out = [] from hout, List.any_nil,
      s.settleAll_of_out_nil _ hout, hc, hpc, Bool.false_eq_true, if_false]
  rw [hraise]
  refine State.entersHandler_of_setStrand (State.takeTrap_enters _ cause val s.me.pc (State.performed_of_out_nil ?_) ?_ ?_)
  all_goals rw [hme]; assumption

/-! ### Targets (R277, R311) -/

theorem target_eq_displaced {w : Nat} (st : Strand) (i : BitVec w) : target st.pc i = displaced st i := by
  simp [target, displaced, sext, BitVec.signExtend, BitVec.ofInt_add, BitVec.ofInt_mul]

theorem add_four_eq (x : Word) : x + 4#64 = BitVec.ofNat 64 (x.toNat + 4) := by
  simp [BitVec.ofNat_add]

/-! ### Loop levels (R314) -/

/-- From `a` to `b` at most the loop registers and LSTAT have changed. -/
def Strand.loopsOnly (a b : Strand) : Prop := b = { a with loops := b.loops, lstat := b.lstat }

theorem Strand.loopsOnly.trans {a b c : Strand} (hab : a.loopsOnly b) (hbc : b.loopsOnly c) : a.loopsOnly c := by
  unfold Strand.loopsOnly at *
  rw [hbc, hab]

/-- Loop registers, LSTAT and PC aside, such a change and the end of the instruction leave the strand as it was. -/
theorem Strand.loopsOnly.frame_done {a b : Strand} (h : a.loopsOnly b) (pc : Word) (c : Nat) :
    a.frame (({ b with pc := pc } : Strand).done c) [] [] [] ∧ (({ b with pc := pc } : Strand).done c).fflags = a.fflags := by
  rw [show b = { a with loops := b.loops, lstat := b.lstat } from h]
  exact ⟨⟨rfl, fun _ _ => rfl, fun _ _ => rfl, fun _ _ => rfl⟩, rfl⟩

theorem Strand.frame_of_advance {a b : Strand} (h : a.advance.frame b [] [] []) : a.frame b [] [] [] := by
  obtain ⟨hspecial, hg, hv, hk⟩ := h
  exact ⟨hspecial.trans a.advance_special, fun r hr => (hg r hr).trans (Strand.rg_congr _ _ a.advance_g r),
    fun r hr => (hv r hr).trans (Strand.rv_congr _ _ a.advance_v r), fun r hr => (hk r hr).trans (Strand.rk_congr _ _ a.advance_k r)⟩

/-- R317: an instruction that jumps and changes loop levels beside. -/
theorem State.jumpWith_loops (s : State) (pc : Word) (f : Strand → Strand) (hf : s.me.loopsOnly (f s.me)) :
    let t := s.jumpWith s.cur pc f
    s.onlyStrand t ∧ s.me.frame (s.then t) [] [] [] ∧ (s.then t).fflags = s.me.fflags ∧ (s.then t).pc = pc
      ∧ (s.then t).loops = (f s.me).loops ∧ (s.then t).lstat = (f s.me).lstat := by
  intro t
  rw [State.jumpWith_then]
  obtain ⟨hframe, hflags⟩ := hf.frame_done pc s.cycle
  exact ⟨s.jumpWith_only pc f, hframe, hflags, rfl, rfl, rfl⟩

/-- R318: an instruction that changes loop levels, where the redirect is decided before it. -/
theorem State.retireAfter_loops (s : State) (f : Strand → Strand) (hf : s.me.advance.loopsOnly (f s.me.advance)) :
    let t := s.retireAfter s.cur f
    s.onlyStrand t ∧ s.me.frame (s.then t) [] [] [] ∧ (s.then t).fflags = s.me.fflags ∧ (s.then t).pc = s.me.advance.pc
      ∧ ∀ n, (s.then t).level n = (f s.me.advance).level n := by
  intro t
  rw [State.retireAfter_then]
  have hpc : (f s.me.advance).pc = s.me.advance.pc := by rw [show f s.me.advance = _ from hf]
  obtain ⟨hframe, hflags⟩ := hf.frame_done (f s.me.advance).pc s.cycle
  exact ⟨s.retireAfter_only f, Strand.frame_of_advance hframe, hflags.trans (by simp), hpc, fun n => rfl⟩

/-- Setting or clearing one bit of LSTAT leaves the other. -/
theorem lstat_setAct : ∀ (x : BitVec 2) (on : Bool),
    (if on then x ||| 1#2 else x &&& ~~~1#2) = BitVec.ofBool (x.getLsbD 1) ++ BitVec.ofBool on
      ∧ (if on then x ||| 2#2 else x &&& ~~~2#2) = BitVec.ofBool on ++ BitVec.ofBool (x.getLsbD 0) := by
  decide

theorem Strand.setLoop_setAct (st : Strand) (n : BitVec 1) (lb le lc : Word) (on : Bool) :
    (st.setLoop n lb le lc).setAct n on = st.withLevel n lb le lc on := by
  obtain ⟨h0, h1⟩ := lstat_setAct st.lstat on
  obtain rfl | rfl := BitVec.eq_zero_or_eq_one n
  · simp only [Strand.setLoop, Strand.setAct, Strand.withLevel, if_true, h0]
  · simp only [Strand.setLoop, Strand.setAct, Strand.withLevel, show (1#1 = 0#1) = False by decide, if_false, h1]

theorem Strand.setAct_eq (st : Strand) (n : BitVec 1) (on : Bool) :
    st.setAct n on = st.withLevel n (st.level n).1 (st.level n).2.1 (st.level n).2.2.1 on := by
  rw [← Strand.setLoop_setAct]
  obtain rfl | rfl := BitVec.eq_zero_or_eq_one n <;> rfl

theorem Strand.endLoop_eq (st : Strand) (n : BitVec 1) :
    st.endLoop n = st.withLevel n (st.level n).1 (st.level n).2.1 0#64 false := by
  rw [← Strand.setLoop_setAct]
  obtain rfl | rfl := BitVec.eq_zero_or_eq_one n <;> rfl

theorem Strand.withLevel_loopsOnly (st : Strand) (n : BitVec 1) (lb le lc : Word) (on : Bool) :
    st.loopsOnly (st.withLevel n lb le lc on) := by
  unfold Strand.withLevel
  split <;> rfl

theorem getLsbD_ofBool_append : ∀ x y : Bool,
    (BitVec.ofBool x ++ BitVec.ofBool y).getLsbD 0 = y ∧ (BitVec.ofBool x ++ BitVec.ofBool y).getLsbD 1 = x := by
  decide

/-- The level that is set reads as set, the other as before. -/
theorem Strand.level_withLevel (st : Strand) (k n : BitVec 1) (lb le lc : Word) (on : Bool) :
    (st.withLevel k lb le lc on).level n = if n = k then (lb, le, lc, on) else st.level n := by
  have h01 : (0#1 = 1#1) = False := by decide
  have h10 : (1#1 = 0#1) = False := by decide
  obtain rfl | rfl := BitVec.eq_zero_or_eq_one n <;> obtain rfl | rfl := BitVec.eq_zero_or_eq_one k <;>
    simp only [Strand.withLevel, Strand.level, getLsbD_ofBool_append, h01, h10, if_true, if_false]

/-- `f` sets the level it is given to what `g` makes of it: LB, LE, LC and whether it is active. -/
def SetsLevel (f : Strand → BitVec 1 → Strand) (g : Word × Word × Word × Bool → Word × Word × Word × Bool) : Prop :=
  ∀ x k, f x k = x.withLevel k (g (x.level k)).1 (g (x.level k)).2.1 (g (x.level k)).2.2.1 (g (x.level k)).2.2.2

theorem clear_setsLevel : SetsLevel (fun x n => (x.setLoop n 0#64 0#64 0#64).setAct n false) (fun _ => (0#64, 0#64, 0#64, false)) :=
  fun x k => x.setLoop_setAct k _ _ _ _

theorem setAct_setsLevel (on : Bool) : SetsLevel (fun x n => x.setAct n on) (fun l => (l.1, l.2.1, l.2.2.1, on)) :=
  fun x k => x.setAct_eq k on

theorem endLoop_setsLevel : SetsLevel Strand.endLoop (fun l => (l.1, l.2.1, 0#64, false)) := Strand.endLoop_eq

section EachLevel
variable {f : Strand → BitVec 1 → Strand} {g : Word × Word × Word × Bool → Word × Word × Word × Bool} (hf : SetsLevel f g)
include hf

theorem Strand.eachLevel_loopsOnly (st : Strand) (m : BitVec 2) : st.loopsOnly (st.eachLevel m f) := by
  have hone : ∀ (x : Strand) (k : BitVec 1), x.loopsOnly (f x k) := fun x k => by rw [hf]; exact x.withLevel_loopsOnly _ _ _ _ _
  unfold Strand.eachLevel
  dsimp only
  split <;> split
  · exact (hone _ _).trans (hone _ _)
  · exact hone _ _
  · exact hone _ _
  · rfl

/-- The levels a mask names change as one level does, and no other changes. -/
theorem Strand.level_eachLevel (st : Strand) (m : BitVec 2) (n : BitVec 1) :
    (st.eachLevel m f).level n = if n ∈ levelsOf m then g (st.level n) else st.level n := by
  have hone : ∀ (x : Strand) (k : BitVec 1), (f x k).level n = if n = k then g (x.level n) else x.level n := by
    intro x k
    rw [hf, Strand.level_withLevel]
    by_cases h : n = k <;> simp [h]
  unfold Strand.eachLevel levelsOf bitAt
  obtain rfl | rfl := BitVec.eq_zero_or_eq_one n <;> cases m.getLsbD 0 <;> cases m.getLsbD 1 <;> simp [hone]

/-- R318: LCLR and LSET, once its check has passed, change each level they name after the redirect. -/
theorem State.retireAfter_eachLevel (s : State) (m : BitVec 2) :
    let t := s.retireAfter s.cur (fun st => st.eachLevel m f)
    s.onlyStrand t ∧ s.me.frame (s.then t) [] [] [] ∧ (s.then t).fflags = s.me.fflags ∧ (s.then t).pc = s.me.advance.pc
      ∧ ∀ n, (s.then t).level n = if n ∈ levelsOf m then g (s.me.advance.level n) else s.me.advance.level n := by
  obtain ⟨honly, hframe, hflags, hpc, hlevel⟩ :=
    s.retireAfter_loops (fun st => st.eachLevel m f) (Strand.eachLevel_loopsOnly hf s.me.advance m)
  exact ⟨honly, hframe, hflags, hpc, fun n => (hlevel n).trans (Strand.level_eachLevel hf s.me.advance m n)⟩

end EachLevel

theorem Strand.loopOk_iff (st : Strand) (n : BitVec 1) : st.loopOk n = true ↔ st.levelFit n := by
  unfold Strand.loopOk Strand.levelFit Strand.level
  split <;> simp

/-- R318: LSET's check fails where a level it names does not fit. -/
theorem Strand.lset_check (st : Strand) (m : BitVec 2) :
    ((bitAt 0 m && !st.loopOk 0#1) || (bitAt 1 m && !st.loopOk 1#1)) = true ↔ ∃ n ∈ levelsOf m, ¬ st.levelFit n := by
  simp only [← Strand.loopOk_iff]
  unfold levelsOf bitAt
  cases m.getLsbD 0 <;> cases m.getLsbD 1 <;> simp

/-! ### The loop instructions (R315, R317, R318) -/

/-- R315: LOOP. -/
theorem execLoop_spec (s : State) (a : BitVec 5) (n : BitVec 1) (i : BitVec 15) :
    let next := BitVec.ofNat 64 (s.me.pc.toNat + 4)
    let last := displaced s.me i
    (1 ≤ i.toInt → s.me.rg a ≠ 0#64 → ∃ t, exec (.loop a n i) s = .next t ∧ s.onlyStrand t
      ∧ s.leaves t (s.me.withLevel n next last (s.me.rg a) true) []) ∧
    (1 ≤ i.toInt → s.me.rg a = 0#64 → ∃ t, exec (.loop a n i) s = .next t ∧ s.onlyStrand t ∧ s.me.frame (s.then t) [] [] []
      ∧ (s.then t).fflags = s.me.fflags ∧ (s.me.withLevel n next last 0#64 false).movesTo (s.then t) (last + 4#64)) ∧
    (i.toInt < 1 → s.trapReady → ∃ t, exec (.loop a n i) s = .next t ∧ s.takesTrap t 0x07 (wordVal (.loop a n i))) := by
  intro next last
  have hexec : exec (.loop a n i) s = if i.toInt < 1 then .next (s.trapP 0x07 (wordVal (.loop a n i)))
      else if s.me.rg a = 0#64 then .next (s.jumpWith s.cur (last + 4#64) (fun st => st.withLevel n next last 0#64 false))
      else .next (s.retireWith s.cur (fun st => st.withLevel n next last (s.me.rg a) true)) := by
    simp only [exec, execLoop, target_eq_displaced, add_four_eq, Strand.setLoop_setAct, next, last]
    by_cases hcount : s.me.rg a = 0#64 <;> simp only [hcount, if_true, if_false]
  rw [hexec]
  refine ⟨fun hbody hcount => ?_, fun hbody hcount => ?_, fun hbody hready => ?_⟩
  · rw [if_neg (by omega), if_neg hcount]
    exact ⟨_, rfl, s.retireWith_only _, s.retireWith_leaves _⟩
  · rw [if_neg (by omega), if_pos hcount]
    obtain ⟨honly, hframe, hflags, hpc, hloops, hlstat⟩ := s.jumpWith_loops (last + 4#64)
      (fun st => st.withLevel n next last 0#64 false) (s.me.withLevel_loopsOnly n next last 0#64 false)
    exact ⟨_, rfl, honly, hframe, hflags, hpc, hloops, hlstat⟩
  · rw [if_pos hbody]
    exact ⟨_, rfl, s.trapP_takesTrap _ _ hready rfl⟩

/-- R317: LOOPX where g(a) is not zero. -/
theorem execLoopx_exits (s : State) (a : BitVec 5) (m : BitVec 2) (i : BitVec 15) (h : s.me.rg a ≠ 0#64) :
    ∃ t, exec (.loopx a m i) s = .next t ∧ s.onlyStrand t ∧ s.me.frame (s.then t) [] [] []
      ∧ (s.then t).fflags = s.me.fflags ∧ (s.then t).pc = displaced s.me i
      ∧ ∀ n, (s.then t).level n = if n ∈ levelsOf m then ((s.me.level n).1, (s.me.level n).2.1, 0#64, false) else s.me.level n := by
  obtain ⟨honly, hframe, hflags, hpc, hloops, hlstat⟩ := s.jumpWith_loops (displaced s.me i) (fun st => st.eachLevel m Strand.endLoop)
    (Strand.eachLevel_loopsOnly endLoop_setsLevel s.me m)
  refine ⟨_, by simp only [exec, execLoopx, target_eq_displaced]; rw [if_pos h], honly, hframe, hflags, hpc, fun n => ?_⟩
  rw [← Strand.level_eachLevel endLoop_setsLevel s.me m n]
  unfold Strand.level
  rw [hloops, hlstat]

/-- R317: LOOPX where g(a) is zero. -/
theorem execLoopx_stays (s : State) (a : BitVec 5) (m : BitVec 2) (i : BitVec 15) (h : s.me.rg a = 0#64) :
    ∃ t, exec (.loopx a m i) s = .next t ∧ s.computes t [] :=
  ⟨s.retireWith s.cur id, by simp [exec, execLoopx, h], s.retireWith_only id, s.retireWith_leaves id⟩

/-- R318: LCLR. -/
theorem execLclr_spec (s : State) (m : BitVec 2) :
    ∃ t, exec (.lclr m) s = .next t ∧ s.onlyStrand t ∧ s.me.frame (s.then t) [] [] [] ∧ (s.then t).fflags = s.me.fflags
      ∧ (s.then t).pc = s.me.advance.pc
      ∧ ∀ n, (s.then t).level n = if n ∈ levelsOf m then (0#64, 0#64, 0#64, false) else s.me.advance.level n :=
  ⟨_, rfl, State.retireAfter_eachLevel clear_setsLevel s m⟩

/-- R318: LSET where every level it names fits. -/
theorem execLset_activates (s : State) (m : BitVec 2) (h : ∀ n ∈ levelsOf m, s.me.levelFit n) :
    ∃ t, exec (.lset m) s = .next t ∧ s.onlyStrand t ∧ s.me.frame (s.then t) [] [] []
      ∧ (s.then t).fflags = s.me.fflags ∧ (s.then t).pc = s.me.advance.pc
      ∧ ∀ n, (s.then t).level n = if n ∈ levelsOf m then
          ((s.me.advance.level n).1, (s.me.advance.level n).2.1, (s.me.advance.level n).2.2.1, true) else s.me.advance.level n := by
  refine ⟨_, ?_, State.retireAfter_eachLevel (setAct_setsLevel true) s m⟩
  simp only [exec, execLset]
  rw [if_neg (fun hc => ?_)]
  obtain ⟨n, hn, hfit⟩ := (s.me.lset_check m).mp hc
  exact hfit (h n hn)

/-- R318: LSET where a level it names does not fit. -/
theorem execLset_traps (s : State) (m : BitVec 2) (h : ∃ n ∈ levelsOf m, ¬ s.me.levelFit n) (hready : s.trapReady) :
    ∃ t, exec (.lset m) s = .next t ∧ s.takesTrap t 0x07 (wordVal (.lset m)) := by
  refine ⟨_, ?_, s.trapP_takesTrap 0x07 (wordVal (.lset m)) hready rfl⟩
  simp only [exec, execLset]
  rw [if_pos ((s.me.lset_check m).mpr h)]

/-! ### The loop redirect (R316) -/

theorem redirect0_again (st : Strand) (a : Word) (hact : st.lstat.getLsbD 0 = true) (hend : a = st.loops.le0) (hlc : 1 < st.loops.lc0.toNat) :
    redirect0 st a = { st with loops := { st.loops with lc0 := st.loops.lc0 - 1#64 }, pc := st.loops.lb0 } := by
  simp only [redirect0, bitAt, hact, hend, BEq.rfl, Bool.and_self, if_true, hlc]
  rfl

theorem redirect0_ends (st : Strand) (a : Word) (hact : st.lstat.getLsbD 0 = true) (hend : a = st.loops.le0) (hlc : st.loops.lc0.toNat ≤ 1) :
    redirect0 st a = { st with loops := { st.loops with lc0 := 0#64 }, lstat := st.lstat &&& 2#2, pc := a + 4#64 } := by
  simp only [redirect0, bitAt, hact, hend, BEq.rfl, Bool.and_self, if_true, Nat.not_lt.mpr hlc, if_false]
  rfl

theorem redirect0_passes (st : Strand) (a : Word) (h : st.lstat.getLsbD 0 = false ∨ a ≠ st.loops.le0) :
    redirect0 st a = { st with pc := a + 4#64 } := by
  unfold redirect0 bitAt
  rw [if_neg (by simpa only [Bool.and_eq_true, beq_iff_eq, not_and_or, Bool.not_eq_true] using h)]
  rfl

theorem Strand.advance_again (st : Strand) (hact : st.lstat.getLsbD 1 = true) (hend : st.pc = st.loops.le1) (hlc : 1 < st.loops.lc1.toNat) :
    st.advance = { st with loops := { st.loops with lc1 := st.loops.lc1 - 1#64 }, pc := st.loops.lb1 } := by
  simp only [Strand.advance, bitAt, hact, hend, BEq.rfl, Bool.and_self, if_true, hlc]
  rfl

theorem Strand.advance_ends (st : Strand) (hact : st.lstat.getLsbD 1 = true) (hend : st.pc = st.loops.le1) (hlc : st.loops.lc1.toNat ≤ 1) :
    st.advance = redirect0 { st with loops := { st.loops with lc1 := 0#64 }, lstat := st.lstat &&& 1#2 } st.pc := by
  simp only [Strand.advance, bitAt, hact, hend, BEq.rfl, Bool.and_self, if_true, Nat.not_lt.mpr hlc, if_false]
  rfl

theorem Strand.advance_passes (st : Strand) (h : st.lstat.getLsbD 1 = false ∨ st.pc ≠ st.loops.le1) : st.advance = redirect0 st st.pc := by
  unfold Strand.advance bitAt
  rw [if_neg (by simpa only [Bool.and_eq_true, beq_iff_eq, not_and_or, Bool.not_eq_true] using h)]

theorem redirect0_level1 (st : Strand) (a : Word) :
    (redirect0 st a).loops.lc1 = st.loops.lc1 ∧ ((redirect0 st a).lstat = st.lstat ∨ (redirect0 st a).lstat = st.lstat &&& 2#2) := by
  unfold redirect0
  split
  · split
    · exact ⟨rfl, .inl rfl⟩
    · exact ⟨rfl, .inr rfl⟩
  · exact ⟨rfl, .inl rfl⟩

/-- R316: where the inner level does not start its body again, the outer one is looked at as it stands. -/
theorem Strand.advance_outer (st : Strand) (h : st.lstat.getLsbD 1 = false ∨ st.pc ≠ st.loops.le1 ∨ st.loops.lc1.toNat ≤ 1) :
    ∃ x : Strand, st.advance = redirect0 x st.pc ∧ x.lstat.getLsbD 0 = st.lstat.getLsbD 0
      ∧ x.loops.lb0 = st.loops.lb0 ∧ x.loops.le0 = st.loops.le0 ∧ x.loops.lc0 = st.loops.lc0 := by
  by_cases hinner : st.lstat.getLsbD 1 = true ∧ st.pc = st.loops.le1
  · obtain ⟨hact, hend⟩ := hinner
    have hlc : st.loops.lc1.toNat ≤ 1 := (h.resolve_left (by rw [hact]; decide)).resolve_left (not_not_intro hend)
    have hbit : ∀ x : BitVec 2, (x &&& 1#2).getLsbD 0 = x.getLsbD 0 := by decide
    exact ⟨_, st.advance_ends hact hend hlc, hbit _, rfl, rfl, rfl⟩
  · have hpass : st.lstat.getLsbD 1 = false ∨ st.pc ≠ st.loops.le1 := by
      rwa [not_and_or, Bool.not_eq_true] at hinner
    exact ⟨st, st.advance_passes hpass, rfl, rfl, rfl, rfl⟩

/-- R316: the redirect, level 1 first. -/
theorem Strand.advance_spec (st : Strand) :
    (st.lstat.getLsbD 1 = true → st.pc = st.loops.le1 → 1 < st.loops.lc1.toNat →
      st.advance.pc = st.loops.lb1 ∧ st.advance.loops = { st.loops with lc1 := st.loops.lc1 - 1#64 } ∧ st.advance.lstat = st.lstat) ∧
    (st.lstat.getLsbD 1 = true → st.pc = st.loops.le1 → st.loops.lc1.toNat ≤ 1 →
      st.advance.loops.lc1 = 0#64 ∧ st.advance.lstat.getLsbD 1 = false) ∧
    ((st.lstat.getLsbD 1 = false ∨ st.pc ≠ st.loops.le1 ∨ st.loops.lc1.toNat ≤ 1) → st.lstat.getLsbD 0 = true → st.pc = st.loops.le0 →
      (1 < st.loops.lc0.toNat → st.advance.pc = st.loops.lb0 ∧ st.advance.loops.lc0 = st.loops.lc0 - 1#64
        ∧ st.advance.lstat.getLsbD 0 = true) ∧
      (st.loops.lc0.toNat ≤ 1 → st.advance.pc = st.pc + 4#64 ∧ st.advance.loops.lc0 = 0#64 ∧ st.advance.lstat.getLsbD 0 = false)) ∧
    ((st.lstat.getLsbD 1 = false ∨ st.pc ≠ st.loops.le1) → (st.lstat.getLsbD 0 = false ∨ st.pc ≠ st.loops.le0) →
      st.advance.pc = st.pc + 4#64 ∧ st.advance.loops = st.loops ∧ st.advance.lstat = st.lstat) := by
  refine ⟨fun hact hend hlc => ?_, fun hact hend hlc => ?_, fun hinner hact hend => ?_, fun hinner houter => ?_⟩
  · rw [st.advance_again hact hend hlc]
    exact ⟨rfl, rfl, rfl⟩
  · have hbit : ∀ x : BitVec 2, (x &&& 1#2).getLsbD 1 = false ∧ (x &&& 1#2 &&& 2#2).getLsbD 1 = false := by decide
    rw [st.advance_ends hact hend hlc]
    obtain ⟨hcount, hlstat | hlstat⟩ := redirect0_level1
      { st with loops := { st.loops with lc1 := 0#64 }, lstat := st.lstat &&& 1#2 } st.pc
    · exact ⟨hcount, by rw [hlstat]; exact (hbit _).1⟩
    · exact ⟨hcount, by rw [hlstat]; exact (hbit _).2⟩
  · obtain ⟨x, hadv, hbit, hlb, hle, hlc0⟩ := st.advance_outer hinner
    rw [hadv, ← hlb, ← hlc0]
    rw [← hbit] at hact
    rw [← hle] at hend
    refine ⟨fun hlc => ?_, fun hlc => ?_⟩
    · rw [redirect0_again x _ hact hend hlc]
      exact ⟨rfl, rfl, hact⟩
    · have hclear : ∀ y : BitVec 2, (y &&& 2#2).getLsbD 0 = false := by decide
      rw [redirect0_ends x _ hact hend hlc]
      exact ⟨rfl, rfl, hclear _⟩
  · rw [st.advance_passes hinner, redirect0_passes st _ houter]
    exact ⟨rfl, rfl, rfl⟩

/-- Settles O6: the instructions by the branches of their meanings, the redirect level by level. -/
theorem loopInstructions : Obligations.LoopInstructions := by
  unfold Obligations.LoopInstructions
  exact ⟨execLoop_spec, fun s a m i => ⟨execLoopx_exits s a m i, execLoopx_stays s a m i, execLclr_spec s m, execLset_activates s m,
    execLset_traps s m⟩, Strand.advance_spec⟩

/-! ### Words of the part (R326, R333) -/

theorem zext_toNat {w : Nat} (x : BitVec w) (h : w ≤ 64) : (zext x).toNat = x.toNat := by
  simp only [zext, BitVec.truncate_eq_setWidth, BitVec.toNat_setWidth]
  exact Nat.mod_eq_of_lt (x.isLt.trans_le (Nat.pow_le_pow_right (by decide) h))

/-- R326: the indices with a number of their own. -/
theorem State.capability_fixedWord (s : State) (c n x : Nat) (h : fixedWord n = some x) : s.capability c n = BitVec.ofNat 64 x := by
  unfold fixedWord at h
  split at h <;> cases h <;> rfl

theorem State.capability_peers_toNat (s : State) (c : Nat) : (s.capability c 28).toNat =
    1 + ((List.range 64).filter (fun i => (recPeers (s.job (jobOf c)).record).getLsbD i)).length := by
  have hle : ((List.range 64).filter (fun i => (recPeers (s.job (jobOf c)).record).getLsbD i)).length ≤ 64 := by
    simpa using List.length_filter_le (fun i => (recPeers (s.job (jobOf c)).record).getLsbD i) (List.range 64)
  simp only [State.capability, popcount, bitAt, BitVec.toNat_ofNat]
  omega

theorem State.capability_beyond (s : State) (c n : Nat) (h : 32 ≤ n) : s.capability c n = BitVec.ofNat 64 (2 ^ 63) := by
  obtain ⟨k, rfl⟩ := Nat.exists_eq_add_of_le' h
  rfl

theorem State.reading_beyond (s : State) (c n : Nat) (h : 7 ≤ n) : s.reading c n = BitVec.ofNat 64 (2 ^ 63) := by
  obtain ⟨k, rfl⟩ := Nat.exists_eq_add_of_le' h
  rfl

/-- A running maximum is its start or the value of a member, and bounds them all. -/
theorem foldl_max_spec {α : Type} (f : α → Int) (l : List α) (m : Int) :
    let r := l.foldl (fun x a => max x (f a)) m
    (r = m ∨ ∃ a ∈ l, f a = r) ∧ m ≤ r ∧ ∀ a ∈ l, f a ≤ r := by
  induction l generalizing m with
  | nil => simp
  | cons b t ih =>
    obtain ⟨hmem, hstart, hall⟩ := ih (max m (f b))
    refine ⟨?_, (le_max_left _ _).trans hstart, List.forall_mem_cons.mpr ⟨(le_max_right _ _).trans hstart, hall⟩⟩
    rcases hmem with h | ⟨a, ha, h⟩
    · rcases max_choice m (f b) with hm | hm
      · exact .inl (h.trans hm)
      · exact .inr ⟨b, by simp, (h.trans hm).symm⟩
    · exact .inr ⟨a, by simp [ha], h⟩

theorem State.maxTemp_spec (s : State) :
    (∃ q, q < 1024 ∧ (s.tile q).temp = s.maxTemp) ∧ ∀ q, q < 1024 → (s.tile q).temp ≤ s.maxTemp := by
  obtain ⟨hmem, -, hall⟩ := foldl_max_spec (fun p => (s.tile p).temp) (List.range 1024) (s.tile 0).temp
  refine ⟨?_, fun q hq => hall q (List.mem_range.mpr hq)⟩
  rcases hmem with h | ⟨q, hq, h⟩
  · exact ⟨0, by decide, h.symm⟩
  · exact ⟨q, List.mem_range.mp hq, h⟩

theorem getLsbD_of_toNat {v : Word} {i : Nat} {c : Bool} (h : v.toNat / 2 ^ i % 2 = c.toNat) : v.getLsbD i = c := by
  rw [← BitVec.testBit_toNat, Nat.testBit_eq_decide_div_mod_eq, h]
  cases c <;> rfl

/-- R34: every field of STATUS stands at its bits, as the word is the sum of fields of which none reaches into the next. -/
theorem State.statusWord_fields (s : State) : let st := s.status
    let v := s.statusWord
    v.getLsbD 0 = st.ready ∧ v.getLsbD 1 = st.fwerr ∧ v.getLsbD 2 = st.calerr ∧ v.getLsbD 3 = st.underbin ∧ v.getLsbD 4 = st.pwrfail
      ∧ v.getLsbD 5 = st.coolfault ∧ (v.getLsbD 6 = true ↔ ∃ q ∈ s.tiles, 1 < q.2.ric.toNat) ∧ v.getLsbD 7 = false
      ∧ v.toNat / 2 ^ 8 % 8 = st.pstate.toNat ∧ v.getLsbD 11 = false ∧ v.toNat / 2 ^ 12 % 4 = st.bin.toNat ∧ v.toNat / 2 ^ 14 % 4 = 0
      ∧ v.toNat / 2 ^ 16 = st.pool.toNat := by
  intro st v
  have hst : s.status = st := rfl
  obtain ⟨capped, hc⟩ : ∃ b, s.tiles.any (fun p => decide (1 < p.2.ric.toNat)) = b := ⟨_, rfl⟩
  have hready := st.ready.toNat_le
  have hfwerr := st.fwerr.toNat_le
  have hcalerr := st.calerr.toNat_le
  have hunderbin := st.underbin.toNat_le
  have hpwrfail := st.pwrfail.toNat_le
  have hcoolfault := st.coolfault.toNat_le
  have hcapped := capped.toNat_le
  have hpstate := st.pstate.isLt
  have hbin := st.bin.isLt
  have hpool := st.pool.isLt
  have hbit : ∀ (x : Bool) (n : Nat), (if x then 2 ^ n else 0) = 2 ^ n * x.toNat := by intro x n; cases x <;> simp
  have hv : v.toNat = st.ready.toNat + 2 * st.fwerr.toNat + 4 * st.calerr.toNat + 8 * st.underbin.toNat + 16 * st.pwrfail.toNat
      + 32 * st.coolfault.toNat + 64 * capped.toNat + 256 * st.pstate.toNat + 4096 * st.bin.toNat + 65536 * st.pool.toNat := by
    simp only [v, State.statusWord, hst, hc, hbit, BitVec.toNat_ofNat]
    rw [Nat.mod_eq_of_lt (by omega)]
    omega
  have hbit6 : v.getLsbD 6 = capped := getLsbD_of_toNat (by omega)
  have hbit7 : v.toNat / 2 ^ 7 % 2 = 0 := by omega
  have hbit11 : v.toNat / 2 ^ 11 % 2 = 0 := by omega
  refine ⟨getLsbD_of_toNat ?_, getLsbD_of_toNat ?_, getLsbD_of_toNat ?_, getLsbD_of_toNat ?_, getLsbD_of_toNat ?_,
    getLsbD_of_toNat ?_, by rw [hbit6, ← hc]; simp, getLsbD_of_toNat hbit7, ?_, getLsbD_of_toNat hbit11, ?_, ?_, ?_⟩ <;> omega

/-- Settles O32: the word each instruction writes, by its index. -/
theorem partWords : Obligations.PartWords := by
  unfold Obligations.PartWords
  intro s d a n c p j st
  constructor
  · obtain ⟨hcomputes, hholds⟩ := s.writeG_computes d (s.capability c n)
    refine ⟨_, s.capability c n, rfl, hcomputes, hholds, fun x => s.capability_fixedWord c n x, ?_, ?_, ?_, ?_, ?_, ?_,
      s.capability_beyond c n⟩
    all_goals intro hn; rw [hn]
    · rfl
    · rfl
    · exact zext_toNat _ (by decide)
    · rfl
    · exact zext_toNat _ (by decide)
    · exact s.capability_peers_toNat c
  · obtain ⟨hcomputes, hholds⟩ := s.writeG_computes d (s.reading c n)
    refine ⟨_, s.reading c n, rfl, hcomputes, hholds, ?_, ?_, ?_, ?_, ?_, ?_, ?_, s.reading_beyond c n⟩
    all_goals intro hn; rw [hn]
    · rfl
    · exact ⟨s.maxTemp, rfl, s.maxTemp_spec⟩
    · rfl
    · rfl
    · exact s.statusWord_fields
    · exact zext_toNat _ (by decide)
    · rfl

/-! ### Results of scalar floating point (R309, R310) -/

theorem fpArg_eq_typed (t : BitVec 1) (x : Word) : fpArg t x = typed t x := by
  unfold fpArg typed natAt
  split <;> simp

theorem Fmt.apply_eq_absentOr (f : Fmt) (xs : List Nat) (op : List Num → Nat × Flags) : f.apply xs op = absentOr f xs op := by
  simp [Fmt.apply, absentOr]

/-- R309: the model's operation on register operands is the one of the statement. -/
theorem State.fp_eq (s : State) (lam : Nat) (t : BitVec 1) (l : BitVec 4) (d : BitVec 5) (reads : List (BitVec 5))
    (op : Fmt → Nat → List Num → Nat × Flags) : let r := arith s.me t reads (fun f => op f s.me.frm.toNat)
    s.fp lam t l d reads op = s.longG lam l d (BitVec.ofNat 64 r.1) r.2 reads := by
  simp only [State.fp, arith, Fmt.apply_eq_absentOr, fpArg_eq_typed]
  rfl

/-- R271, R310: and so is a conversion. -/
theorem State.fpConvert_eq (s : State) (src dst : Nat) (l : BitVec 4) (d a : BitVec 5) : let r := converted s.me src dst a
    s.fpConvert src dst l d a = s.longG 24 l d (BitVec.ofNat 64 r.1) r.2 [a] := by
  simp [State.fpConvert, converted, natAt]

/-- Every scalar floating-point instruction issues a long-latency operation with its result and its flags (R150, R309, R310). -/
theorem FloatResult.exec_eq {s : State} {i : Instr} {d : BitVec 5} {l : BitVec 4} {lam : Nat} {r : Nat × Flags}
    (h : FloatResult s.me i d l lam r) : ∃ reads, exec i s = .next (s.longG lam l d (BitVec.ofNat 64 r.1) r.2 reads) := by
  cases h with
  | fadd _ a b t _ => exact ⟨[a, b], congrArg Host.Outcome.next (s.fp_eq 24 t l d [a, b] opAdd)⟩
  | fsub _ a b t _ => exact ⟨[a, b], congrArg Host.Outcome.next (s.fp_eq 24 t l d [a, b] opSub)⟩
  | fmul _ a b t _ => exact ⟨[a, b], congrArg Host.Outcome.next (s.fp_eq 24 t l d [a, b] opMul)⟩
  | fdiv _ a b t _ => exact ⟨[a, b], congrArg Host.Outcome.next (s.fp_eq 96 t l d [a, b] opDiv)⟩
  | fsqrt _ a t _ => exact ⟨[a], congrArg Host.Outcome.next (s.fp_eq 96 t l d [a] opSqrt)⟩
  | fma _ a b t _ => exact ⟨[a, b, d], congrArg Host.Outcome.next (s.fp_eq 24 t l d [a, b, d] opFma)⟩
  | fmin _ a b t _ => exact ⟨[a, b], congrArg Host.Outcome.next (s.fp_eq 24 t l d [a, b] (fun f _ => opExtreme f false))⟩
  | fmax _ a b t _ => exact ⟨[a, b], congrArg Host.Outcome.next (s.fp_eq 24 t l d [a, b] (fun f _ => opExtreme f true))⟩
  | fcvt _ a t _ =>
    refine ⟨[a], ?_⟩
    rw [show exec (.fcvt d a t l) s = .next (s.fpConvert (1 - fcOf t) (fcOf t) l d a) from rfl, s.fpConvert_eq]
    obtain rfl | rfl := BitVec.eq_zero_or_eq_one t <;> simp [fcOf]
  | fcvti _ a t _ =>
    refine ⟨[a], ?_⟩
    rw [show exec (.fcvti d a t l) s = .next (s.fpConvert (fcOf t) 11 l d a) from rfl, s.fpConvert_eq]
    obtain rfl | rfl := BitVec.eq_zero_or_eq_one t <;> simp [fcOf]
  | fcvtf _ a t _ =>
    refine ⟨[a], ?_⟩
    rw [show exec (.fcvtf d a t l) s = .next (s.fpConvert 11 (fcOf t) l d a) from rfl, s.fpConvert_eq]
    obtain rfl | rfl := BitVec.eq_zero_or_eq_one t <;> simp [fcOf]
  | fcmp _ a b t c _ =>
    have hword : ∀ x : Bool, boolWord x = BitVec.ofNat 64 (if x then 1 else 0) := by decide
    refine ⟨[a, b], ?_⟩
    rw [show exec (.fcmp d a b t c l) s = execFcmp d a b t c l s from rfl, execFcmp]
    simp only [fpArg_eq_typed, hword]
    rfl

/-- R150, R309, R310: where no enabled flag traps, the instruction is issued with its result and its flags; this part of O3 holds. -/
theorem FloatResult.issued {s : State} {i : Instr} {d : BitVec 5} {l : BitVec 4} {lam x : Nat} {f : Flags}
    (h : FloatResult s.me i d l lam (x, f)) (hf : s.quietFlags l f) :
    ∃ t, exec i s = .next t ∧ s.onlyStrand t ∧ s.issued t lam l [(d, BitVec.ofNat 64 x)] [] [] f none := by
  obtain ⟨reads, hexec⟩ := h.exec_eq
  exact ⟨_, hexec, s.issueLong_issued lam l _ (by simp) (by simp) (by simp) hf (.inr rfl) rfl⟩

/-! ### Traps of enabled flags (R215, R220) -/

theorem lowestFlag_spec (f : BitVec 6) (h : f ≠ 0#6) :
    lowestFlag f < 6 ∧ f.getLsbD (lowestFlag f) = true ∧ ∀ c, c < lowestFlag f → f.getLsbD c = false := by
  have hall : ∀ f : BitVec 6, f ≠ 0#6 →
      lowestFlag f < 6 ∧ f.getLsbD (lowestFlag f) = true ∧ ∀ c < 6, c < lowestFlag f → f.getLsbD c = false := by
    decide
  obtain ⟨hlt, hset, hbelow⟩ := hall f h
  exact ⟨hlt, hset, fun c hc => hbelow c (hc.trans hlt) hc⟩

theorem State.onlyStrand.cur_eq {s t : State} (h : s.onlyStrand t) : t.cur = s.cur := by
  rw [h.1]; rfl

theorem State.onlyStrand.trans {s t u : State} (hst : s.onlyStrand t) (htu : t.onlyStrand u) : s.onlyStrand u := by
  obtain ⟨heq, hstrands, hjobs, hbytes⟩ := hst
  obtain ⟨heq', hstrands', hjobs', hbytes'⟩ := htu
  have hcur : t.cur = s.cur := State.onlyStrand.cur_eq ⟨heq, hstrands, hjobs, hbytes⟩
  refine ⟨?_, fun k hk => (hstrands' k (by rwa [hcur])).trans (hstrands k hk), fun h => ?_, fun l => ?_⟩
  · rw [heq']; conv_lhs => rw [heq]
  · rw [hjobs' h, hjobs h]
  · exact ⟨(hbytes' l).1.trans (hbytes l).1, (hbytes' l).2.trans (hbytes l).2⟩

/-- R149: waiting for a latency changes when the strand issues again, and nothing that a trap entry has written. -/
theorem State.delay_spec (s : State) (lam : Nat) (w : StrandState) : let t := s.delay s.cur lam w
    s.onlyStrand t ∧ (s.then t).pc = s.me.pc ∧ (s.then t).trap = s.me.trap ∧ (s.then t).fflags = s.me.fflags
      ∧ ∀ r, (s.then t).rg r = s.me.rg r := by
  intro t
  refine ⟨s.modStrand_only _, ?_⟩
  rw [show t = s.modStrand s.cur _ from rfl, State.modStrand_then]
  split <;> exact ⟨rfl, rfl, rfl, fun _ => rfl⟩

/-- Leaving the lists does not look at what a step of one strand changes. -/
theorem State.onlyStrand.leaveLists {s t : State} (h : s.onlyStrand t) : (s.leaveLists s.cur).onlyStrand (t.leaveLists s.cur) := by
  obtain ⟨heq, hstrands, hjobs, hbytes⟩ := h
  refine ⟨?_, hstrands, fun j => ?_, fun l => ?_⟩
  · rw [heq]; rfl
  · have hkept : ∀ x : State, (x.leaveLists s.cur).job j = if j = jobOf (ctxOf s.cur) then { x.job j with
        gangs := tableMap {} (x.job j).gangs (fun _ g => { g with park := g.park.filter (fun e => !e.isOf s.cur) }) } else x.job j := by
      intro x
      unfold State.leaveLists
      rw [State.job_modJob]
      split
      · next hj => subst hj; rfl
      · rfl
    rw [hkept, hkept, hjobs j]
    split <;> rfl
  · have hl := hbytes l
    cases l <;> exact hl

/-- R197, R219: the waits of a strand that waits for nothing at its instruction. -/
theorem State.cancelWaits_spec (s : State) (hw : s.me.wait = .none) :
    (s.leaveLists s.cur).onlyStrand (s.cancelWaits s.cur)
      ∧ s.then (s.cancelWaits s.cur) = { s.me with state := .ready, wait := .none, cut := .none } := by
  have hwait : ((s.leaveLists s.cur).strand s.cur).wait = .none := hw
  have hcancel : s.cancelWaits s.cur =
      (s.leaveLists s.cur).modStrand s.cur (fun st => { st with state := .ready, wait := .none, cut := .none }) := by
    unfold State.cancelWaits State.modStrand
    simp only [hwait]
  rw [hcancel]
  exact ⟨(s.leaveLists s.cur).modStrand_only _, (s.leaveLists s.cur).modStrand_then _⟩

/-- R215, R220: the one operation outstanding completes and gives the trap of its enabled flag. -/
theorem State.completeOps_traps (s : State) (k : Nat) (op : OutOp) (hout : (s.strand k).out = [op]) (hstuck : op.stuck = false)
    (hf : op.flags &&& (s.strand k).fen ≠ 0#6) :
    (s.completeOps k (fun o => decide (o = op))).1 = ((s.setStrand k { (s.strand k).settle op with out := [] }).cancelWaits k).takeTrap k
      (0x10 + lowestFlag (op.flags &&& (s.strand k).fen)) op.pc (s.strand k).pc := by
  have htraps : op.traps (s.strand k).fen = true := by simpa [OutOp.traps, hstuck] using hf
  have hforce : ∀ p, s.force k p = s := fun p => s.force_performed k p (by simp [hout, hstuck])
  have hone : (s.strand k).out.filter (fun o => decide (o = op)) = [op] := by simp [hout]
  unfold State.completeOps
  simp only [hforce, hone]
  rw [if_pos (by simp [htraps]), if_neg (by simp [hout, OutOp.barred, hstuck])]
  unfold State.settleAll
  simp only [hout, List.filter_cons, List.filter_nil, hstuck, Bool.not_false, if_true, Bool.false_eq_true, if_false, List.foldl_cons,
    List.foldl_nil, List.find?_cons, htraps]

/-- A strand with nothing outstanding after an operation it has issued without a window is complete. -/
def Strand.completed (st : Strand) (op : OutOp) (c : Nat) : Strand :=
  { ({ st.advance.done c with out := [op] } : Strand).settle op with out := [] }

theorem Strand.completed_fields (st : Strand) (op : OutOp) (c : Nat) :
    (st.completed op c).wait = .none ∧ (st.completed op c).pc = st.advance.pc ∧ (st.completed op c).trap = st.trap
      ∧ (st.completed op c).fflags = st.fflags ||| op.flags := by
  unfold Strand.completed
  rw [Strand.settle_eq]
  exact ⟨rfl, rfl, st.advance_trap, congrArg (· ||| op.flags) st.advance_fflags⟩

theorem Strand.completed_rg (st : Strand) (op : OutOp) (c : Nat) (d : BitVec 5) (x : Word) (hg : op.gw = [(d, x)]) (r : BitVec 5) :
    (st.completed op c).rg r = if r = d ∧ d ≠ 0#5 then x else st.rg r := by
  show (({ st.advance.done c with out := [op] } : Strand).settle op).rg r = _
  rw [Strand.settle_rg, hg, List.foldl_cons, List.foldl_nil, Strand.rg_setG]
  split
  · rfl
  · exact Strand.rg_congr _ _ st.advance_g r

/-- R149–R151: issuing an operation without a window that raises an enabled flag is completing it and taking the trap. -/
theorem State.longG_eq_takeTrap (s : State) (lam : Nat) (d : BitVec 5) (x : Word) (f : Flags) (reads : List (BitVec 5))
    (hout : s.me.out = []) (hf : f &&& s.me.fen ≠ 0#6) :
    let op : OutOp := { kind := .long, pc := s.me.pc, window := 0, doneAt := s.cycle + lam, flags := f, gw := [(d, x)], reads := gUse reads }
    let v := (s.modStrand s.cur (fun st => st.completed op s.cycle)).progress (jobOf (ctxOf s.cur))
    s.longG lam 0#4 d x f reads =
      ((v.cancelWaits s.cur).takeTrap s.cur (0x10 + lowestFlag (f &&& s.me.fen)) s.me.pc s.me.advance.pc).delay s.cur lam .engwait := by
  intro op v
  let u := (s.modStrand s.cur (fun st => { st.advance.done s.cycle with out := [op] })).progress (jobOf (ctxOf s.cur))
  have hissue : (s.retireWith s.cur id).modStrand s.cur (fun st => { st with out := st.out ++ [op] }) = u := by
    rw [State.retireWith, State.progress_modStrand, State.modStrand_modStrand]
    simp [u, State.modStrand, Strand.done, show (s.strand s.cur).out = [] from hout]
  have hstrand : u.strand s.cur = { s.me.advance.done s.cycle with out := [op] } := s.progress_then _ _
  have hfen : (u.strand s.cur).fen = s.me.fen := by rw [hstrand]; exact s.me.advance_fen
  have hcomplete := u.completeOps_traps s.cur op (by rw [hstrand]) rfl (by rw [hfen]; exact hf)
  have hsettled : u.setStrand s.cur { (u.strand s.cur).settle op with out := [] } = v := by
    rw [hstrand]
    show ((s.modStrand s.cur (fun st => { st.advance.done s.cycle with out := [op] })).setStrand s.cur _).progress _ = v
    rw [State.modStrand_set]
    rfl
  rw [hsettled, hfen, congrArg Strand.pc hstrand] at hcomplete
  have hlong : s.longG lam 0#4 d x f reads = (u.completeOps s.cur (fun o => decide (o = op))).1.delay s.cur lam .engwait := by
    rw [← hissue]
    unfold State.longG State.issueLong
    simp only [if_true, true_or]
    rfl
  rw [hlong, hcomplete]
  rfl

/-- R149, R217: a trap entry and the wait for the latency of the operation that has caused it. -/
theorem State.takeTrap_delay (s : State) (cause lam : Nat) (val resume : Word) (hready : s.trapReady) :
    let t := (s.takeTrap s.cur cause val resume).delay s.cur lam .engwait
    s.onlyStrand t ∧ (s.then t).pc = s.me.trap.tvec ∧ (s.then t).trap.tpc = resume &&& ~~~3#64
      ∧ (s.then t).trap.tcause = BitVec.ofNat 7 cause ∧ (s.then t).trap.tval = val ∧ (s.then t).trap.ha = true
      ∧ (s.then t).fflags = s.me.fflags ∧ ∀ r, (s.then t).rg r = s.me.rg r := by
  intro t
  obtain ⟨hout, hha, htvec⟩ := hready
  obtain ⟨honly, hpc, -, htrap, -, -, hflags, hrg, -⟩ := s.takeTrap_enters cause val resume (State.performed_of_out_nil hout) hha htvec
  have hdelay := (s.takeTrap s.cur cause val resume).delay_spec lam .engwait
  have hcur := honly.cur_eq
  simp only [State.then, State.me, hcur] at hdelay hpc htrap hflags hrg ⊢
  obtain ⟨htonly, htpc, httrap, htflags, htrg⟩ := hdelay
  refine ⟨honly.trans htonly, htpc.trans hpc, ?_, ?_, ?_, ?_, htflags.trans hflags, fun r => (htrg r).trans (hrg r)⟩
  all_goals rw [httrap, htrap]

/-- R215, R220: without a window, an operation of a strand with nothing outstanding that raises an enabled flag completes and traps; on the
way the strand leaves every wait list and park queue (R197). -/
theorem State.longG_flagTrap (s : State) (lam : Nat) (d : BitVec 5) (x : Word) (f : Flags) (reads : List (BitVec 5))
    (hready : s.trapReady) (hf : f &&& s.me.fen ≠ 0#6) :
    let t := s.longG lam 0#4 d x f reads
    (s.leaveLists s.cur).onlyStrand t ∧ (s.then t).pc = s.me.trap.tvec ∧ (s.then t).trap.tpc = s.me.advance.pc &&& ~~~3#64
      ∧ (s.then t).trap.tcause = BitVec.ofNat 7 (0x10 + lowestFlag (f &&& s.me.fen)) ∧ (s.then t).trap.tval = s.me.pc
      ∧ (s.then t).trap.ha = true ∧ (s.then t).fflags = s.me.fflags ||| f
      ∧ ∀ r, (s.then t).rg r = if r = d ∧ d ≠ 0#5 then x else s.me.rg r := by
  intro t
  obtain ⟨hout, hha, htvec⟩ := hready
  let op : OutOp := { kind := .long, pc := s.me.pc, window := 0, doneAt := s.cycle + lam, flags := f, gw := [(d, x)], reads := gUse reads }
  let v := (s.modStrand s.cur (fun st => st.completed op s.cycle)).progress (jobOf (ctxOf s.cur))
  obtain ⟨hwait, hpc, htrap, hflags⟩ := s.me.completed_fields op s.cycle
  have hvonly : s.onlyStrand v := s.progress_only _ _
  have hv : v.me = s.me.completed op s.cycle := s.progress_then _ _
  obtain ⟨hwonly, hw⟩ := v.cancelWaits_spec (by rw [hv]; exact hwait)
  have ht : t = ((v.cancelWaits s.cur).takeTrap s.cur (0x10 + lowestFlag (f &&& s.me.fen)) s.me.pc s.me.advance.pc).delay s.cur lam .engwait :=
    s.longG_eq_takeTrap lam d x f reads hout hf
  have hvcur : v.cur = s.cur := rfl
  rw [hvcur, hv] at hw
  rw [hvcur] at hwonly
  rw [ht]
  generalize v.cancelWaits s.cur = w at hw hwonly ⊢
  have hwcur : w.cur = s.cur := hwonly.cur_eq
  have hwme : w.me = { s.me.completed op s.cycle with state := .ready, wait := .none, cut := .none } := by
    rw [← hw]; exact congrArg w.strand hwcur
  have hwready : w.trapReady := by
    unfold State.trapReady
    rw [hwme]
    exact ⟨rfl, by rw [← hha]; exact congrArg _ htrap, by rw [← htrap] at htvec; exact htvec⟩
  have hend := w.takeTrap_delay (0x10 + lowestFlag (f &&& s.me.fen)) lam s.me.pc s.me.advance.pc hwready
  simp only [State.then, hwcur, hwme] at hend ⊢
  obtain ⟨honly, htpc, htpc', hcause, hval, hha', hfl, hrg⟩ := hend
  refine ⟨hvonly.leaveLists.trans (hwonly.trans honly), htpc.trans (congrArg _ htrap), htpc', hcause, hval, hha', hfl.trans hflags, fun r => ?_⟩
  exact (hrg r).trans (s.me.completed_rg op s.cycle d x rfl r)

/-- R215, R220, R309: an enabled flag of an operation without a window traps after the instruction, with its result and its flags there; the
strand has then left every wait list and park queue. -/
theorem FloatResult.flagTraps {s : State} {i : Instr} {d : BitVec 5} {lam x : Nat} {f : Flags} (h : FloatResult s.me i d 0#4 lam (x, f))
    (hf : f &&& s.me.fen ≠ 0#6) (hready : s.trapReady) :
    ∃ t, exec i s = .next t ∧ (s.leaveLists s.cur).onlyStrand t ∧ (s.then t).pc = s.me.trap.tvec
      ∧ (s.then t).trap.tpc = s.me.advance.pc &&& ~~~3#64 ∧ (s.then t).trap.tval = s.me.pc ∧ (s.then t).trap.ha = true
      ∧ (s.then t).fflags = s.me.fflags ||| f ∧ (s.then t).holdsG d (BitVec.ofNat 64 x) ∧ (∀ r, r ≠ d → (s.then t).rg r = s.me.rg r)
      ∧ ∃ b, b < 6 ∧ (s.then t).trap.tcause = BitVec.ofNat 7 (0x10 + b) ∧ (f &&& s.me.fen).getLsbD b = true
          ∧ ∀ c, c < b → (f &&& s.me.fen).getLsbD c = false := by
  obtain ⟨reads, hexec⟩ := h.exec_eq
  obtain ⟨honly, hpc, htpc, hcause, hval, hha, hflags, hrg⟩ := s.longG_flagTrap lam d (BitVec.ofNat 64 x) f reads hready hf
  obtain ⟨hlt, hset, hbelow⟩ := lowestFlag_spec _ hf
  refine ⟨_, hexec, honly, hpc, htpc, hval, hha, hflags, ?_, fun r hr => ?_, _, hlt, hcause, hset, hbelow⟩
  · unfold Strand.holdsG
    rw [hrg]
    by_cases hd : d = 0#5 <;> simp [hd, Strand.rg]
  · rw [hrg, if_neg (fun hc => hr hc.1)]

/-! ### A flag trap of a strand that still stands in a wait list (R197, R207, R220) -/

/-- A request of the strand in its slot after reset, in the wait list of a word of its scratchpad. -/
def leftRequest : WaitReq := { key := State.reset.cur, acc := { op := .fullEmpty 1 0#64, loc := .spm 0 0, va := 0#64, dest := 1#5 } }

/-- The state after reset with that request in the wait list, and that strand ready to trap on invalid. -/
def requestLeft : State :=
  { State.reset.modStrand State.reset.cur (fun st => { st with fen := fInvalid, trap := { tvec := 4#64 } }) with waiters := [leftRequest] }

theorem requestLeft_trapReady : requestLeft.trapReady := by unfold State.trapReady; decide +kernel

/-- FDIV.d of 0 by 0 raises invalid. -/
theorem fdiv_zero_zero : arith requestLeft.me 0#1 [0#5, 0#5] (fun f => opDiv f requestLeft.me.frm.toNat) = (fp64.qnan, fInvalid) := by
  decide +kernel

/-- Refutes O3: on the way to the handler the strand leaves every wait list and park queue (R197, R219), where `onlyStrand` says that no wait
list changes; `trapReady` does not say that no request of the strand stands in one. Both parts hold but for that: `FloatResult.issued` is the
first, and `FloatResult.flagTraps` the second with the lists as they are after the strand has left them. -/
theorem not_floatingPoint : ¬ Obligations.FloatingPoint := by
  unfold Obligations.FloatingPoint
  rintro ⟨-, htraps⟩
  have hdiv := FloatResult.fdiv (st := requestLeft.me) 1#5 0#5 0#5 0#1 0#4
  rw [fdiv_zero_zero] at hdiv
  have hfen : fInvalid &&& requestLeft.me.fen ≠ 0#6 := by decide +kernel
  obtain ⟨t, hexec, ⟨honly, -⟩, -⟩ := htraps requestLeft _ 1#5 96 _ _ hdiv hfen requestLeft_trapReady
  obtain ⟨t', hexec', ⟨hleft, -⟩, -⟩ := hdiv.flagTraps hfen requestLeft_trapReady
  have hsame : t' = t := Host.Outcome.next.inj (hexec'.symm.trans hexec)
  have hkept : t.waiters = [leftRequest] := by rw [honly]; rfl
  have hdropped : t'.waiters = [] := by rw [hleft]; rfl
  rw [hsame, hkept] at hdropped
  exact List.cons_ne_nil _ _ hdropped

end Sys2Proof.Machine

/-! # Proofs: pegs (O28)

Handles as numbers, the release of a peg where nobody waits at it, what an instruction that changes one peg leaves, and each peg instruction
by the branches of its meaning. -/

namespace Sys2Proof.Machine

/-! ### Words and handles (R173) -/

theorem natAt_eq_div_mod {w : Nat} (lo n : Nat) (x : BitVec w) : natAt lo n x = x.toNat / 2 ^ lo % 2 ^ n := by
  rw [natAt, BitVec.extractLsb'_toNat, Nat.shiftRight_eq_div_pow]

/-- The index of a handle (R173). -/
theorem natAt_zero_five (h : Word) : natAt 0 5 h = h.toNat % 32 := by
  simp [natAt_eq_div_mod]

/-- A field equals a word of its width where their numbers do. -/
theorem eq_fieldAt_iff {w n : Nat} (lo : Nat) (x : BitVec w) (y : BitVec n) : y = fieldAt lo n x ↔ y.toNat = x.toNat / 2 ^ lo % 2 ^ n := by
  rw [← BitVec.toNat_inj, ← natAt_eq, natAt_eq_div_mod]

theorem append_toNat {m n : Nat} (x : BitVec m) (y : BitVec n) : (x ++ y).toNat = x.toNat * 2 ^ n + y.toNat := by
  rw [BitVec.toNat_append, ← Nat.shiftLeft_add_eq_or_of_lt y.isLt, Nat.shiftLeft_eq]

/-- The handle of an entry and a generation (R173), as PEGA puts it together. -/
theorem pegHandle_eq (i : Nat) (gen : BitVec 16) (hi : i < 32) :
    (0#16 ++ gen ++ 0#27 ++ BitVec.ofNat 5 i : Word) = BitVec.ofNat 64 (i + gen.toNat * 2 ^ 32) := by
  have hgen := gen.isLt
  apply BitVec.eq_of_toNat_eq
  simp only [append_toNat, BitVec.toNat_ofNat]
  omega

/-- A handle with another phase (R173). -/
def withPhase (h : Word) (ph : BitVec 16) : Word := (h &&& ~~~(0xFFFF0000#64)) ||| BitVec.ofNat 64 (ph.toNat * 65536)

/-- The handle PEGV gives (R363), as it puts it together. -/
theorem pegvHandle_eq (h : Word) (ph : BitVec 16) :
    ((fieldAt 32 32 h : BitVec 32) ++ ph ++ (fieldAt 0 16 h : BitVec 16) : Word) = withPhase h ph := by
  have hmask : ∀ k, k < 64 → (~~~(0xFFFF0000#64)).getLsbD k = decide (k < 16 ∨ 32 ≤ k) := by decide
  have hshift : BitVec.ofNat 64 (ph.toNat * 65536) = ph.setWidth 64 <<< 16 := by
    apply BitVec.eq_of_toNat_eq
    simp [Nat.shiftLeft_eq]
  apply BitVec.eq_of_getLsbD_eq
  intro k hk
  simp only [withPhase, hshift, BitVec.getLsbD_append, BitVec.getLsbD_or, BitVec.getLsbD_and, hmask k hk, fieldAt, BitVec.getLsbD_extractLsb',
    BitVec.getLsbD_shiftLeft, BitVec.getLsbD_setWidth]
  rcases lt_or_ge k 16 with hlow | hlow
  · simp [hlow]
  · rcases lt_or_ge k 32 with hmid | hhigh
    · have h16 : k - 16 < 16 := by omega
      have h64 : k - 16 < 64 := by omega
      simp [hlow.not_gt, hmid.not_ge, h16, h64, hk]
    · have h16 : ¬ k - 16 < 16 := by omega
      have hup : 32 + (k - 16 - 16) = k := by omega
      have hph : ph.getLsbD (k - 16) = false := BitVec.getLsbD_of_ge _ _ (by omega)
      have h32 : k - 16 - 16 < 32 := by omega
      simp [hlow.not_gt, hhigh, h16, h32, hup, hph]

theorem Ctx.peg_setPeg_self (c : Ctx) (i : Nat) (p : Peg) : (c.setPeg i p).peg i = p :=
  tableGet_set_self _ _ _ _

/-- The handle of a live entry with the generation it has is valid. -/
theorem Ctx.validHandle_of_live (c : Ctx) (i : Nat) (hi : i < 32) (hlive : (c.peg i).live = true) :
    c.validHandle (BitVec.ofNat 64 (i + (c.peg i).gen.toNat * 2 ^ 32)) = true := by
  have hgen := (c.peg i).gen.isLt
  have hnum : (BitVec.ofNat 64 (i + (c.peg i).gen.toNat * 2 ^ 32)).toNat = i + (c.peg i).gen.toNat * 2 ^ 32 := by
    rw [BitVec.toNat_ofNat, Nat.mod_eq_of_lt (by omega)]
  have hidx : natAt 0 5 (BitVec.ofNat 64 (i + (c.peg i).gen.toNat * 2 ^ 32)) = i := by
    rw [natAt_eq_div_mod, hnum]; omega
  have hfield : (c.peg i).gen = fieldAt 32 16 (BitVec.ofNat 64 (i + (c.peg i).gen.toNat * 2 ^ 32)) := by
    rw [eq_fieldAt_iff, hnum]; omega
  have htop : bitAt 63 (BitVec.ofNat 64 (i + (c.peg i).gen.toNat * 2 ^ 32)) = false := by
    refine getLsbD_of_toNat ?_
    rw [hnum, Bool.toNat_false]; omega
  unfold Ctx.validHandle
  rw [hidx, ← hfield, hlive, htop, natAt_eq_div_mod, natAt_eq_div_mod, hnum]
  simp only [beq_self_eq_true, Bool.and_true, Bool.not_false, Bool.and_eq_true, beq_iff_eq]
  omega

/-! ### The pool (R172, R362) -/

theorem Ctx.freePeg_eq_some (c : Ctx) {i : Nat} (hi : i < 32) (hfree : (c.peg i).live = false) (hbelow : ∀ j, j < i → (c.peg j).live = true) :
    c.freePeg = some i :=
  List.find?_range_eq_some.mpr ⟨by simp [hfree], List.mem_range.mpr hi, fun j hj => by simp [hbelow j hj]⟩

theorem Ctx.freePeg_eq_none (c : Ctx) (hfull : ∀ j, j < 32 → (c.peg j).live = true) : c.freePeg = none :=
  List.find?_range_eq_none.mpr fun j hj => by simp [hfull j hj]

/-! ### Results of a strand that changes beside (R149) -/

/-- An instruction that retires with a result in a general register, after another change of its strand. -/
theorem State.retireWith_setG_after (s : State) (f : Strand → Strand) (d : BitVec 5) (x : Word) :
    let t := s.retireWith s.cur (fun st => (f st).setG d x)
    s.onlyStrand t ∧ s.leaves t (f s.me) [d] ∧ (s.then t).holdsG d x := by
  intro t
  obtain ⟨hleaves, hholds⟩ := (s.setStrand s.cur (f s.me)).retireWith_setG d x
  unfold State.leaves at hleaves ⊢
  rw [State.retireWith_then, s.me_setStrand] at hleaves hholds
  rw [State.retireWith_then]
  exact ⟨s.retireWith_only _, hleaves, hholds⟩

/-- What a strand has acquired is no part of what an instruction leaves (R73). -/
theorem State.leaves_of_view {s t : State} {x : Strand} {w : View} {gs : List (BitVec 5)} (h : s.leaves t { x with view := w } gs) :
    s.leaves t x gs := by
  obtain ⟨hframe, hflags, hpc, hloops, hlstat⟩ := h
  obtain ⟨hpc', hloops', hlstat'⟩ := Strand.advance_congr { x with view := w } x rfl rfl rfl
  exact ⟨hframe, hflags, hpc.trans hpc', hloops.trans hloops', hlstat.trans hlstat'⟩

/-- R73: an instruction that acquires and completes with a result. -/
theorem State.acquire_setG (s : State) (v : View) (n : Nat) (d : BitVec 5) (x : Word) :
    let t := (s.acquire s.cur v n).retireWith s.cur (fun st => st.setG d x)
    s.computes t [d] ∧ (s.then t).holdsG d x := by
  intro t
  by_cases hv : v = []
  · rw [show t = s.writeG d x by simp only [t, State.acquire, hv, if_true]; rfl]
    exact s.writeG_computes d x
  · have ht : t = s.retireWith s.cur (fun st => ({ st with view := st.view.join v n } : Strand).setG d x) := by
      simp only [t, State.acquire, hv, if_false, State.retireWith, State.modStrand_modStrand]
      rfl
    obtain ⟨honly, hleaves, hholds⟩ := s.retireWith_setG_after (fun st => { st with view := st.view.join v n }) d x
    rw [ht]
    exact ⟨⟨honly, State.leaves_of_view hleaves⟩, hholds⟩

/-! ### A change of one peg (R174, R175) -/

/-- R174, R175: a peg at which no strand of its context waits releases nobody. -/
theorem State.releasePeg_of_unwaited (s : State) (c i : Nat)
    (h : ∀ n, n < 16 → ∀ ph d, (s.strand (strandKey c n)).wait ≠ .pegw i ph d) : s.releasePeg c i = s := by
  unfold State.releasePeg
  refine List.foldlRecOn (motive := fun x => x = s) _ _ rfl fun x hx n hn => ?_
  subst hx
  dsimp only
  split
  · next j ph d hwait =>
    have hj : j ≠ i := fun hj => h n (List.mem_range.mp hn) ph d (hj ▸ hwait)
    rw [if_pos hj]
  · rfl

/-- An instruction that completes with another value of one peg of its context. -/
theorem State.setPeg_retireWith (s : State) (i : Nat) (p : Peg) (f : Strand → Strand) :
    let t := (s.modCtx (ctxOf s.cur) (fun c => c.setPeg i p)).retireWith s.cur f
    s.onlyContext t (fun c => c.setPeg i p) ∧ s.sameBytes t := by
  intro t
  obtain ⟨-, hstrands, hjobs, -⟩ := (s.modCtx (ctxOf s.cur) (fun c => c.setPeg i p)).retireWith_only f
  have hctx : ∀ c, t.ctx c = if c = ctxOf s.cur then (s.ctx c).setPeg i p else s.ctx c := fun c => by
    rw [show t.ctx c = (s.modCtx (ctxOf s.cur) (fun c => c.setPeg i p)).ctx c from rfl, State.ctx_modCtx]
    split
    · next hc => rw [hc]
    · rfl
  refine ⟨⟨rfl, hstrands, hjobs, hctx⟩, fun l => ?_⟩
  cases l with
  | spm c o =>
    simp only [State.byteAt, State.fullAt, hctx]
    split <;> exact ⟨rfl, rfl⟩
  | _ => exact ⟨rfl, rfl⟩

/-- R174, R175: an instruction that completes and changes a peg at which no other strand waits: the peg alone, and nobody goes on. -/
theorem State.retireWith_releasePeg (s : State) (i : Nat) (f : Strand → Strand) (g : Ctx → Peg) (halone : s.pegAlone i) :
    ((s.retireWith s.cur f).modCtx (ctxOf s.cur) (fun c => c.setPeg i (g c))).releasePeg (ctxOf s.cur) i
      = (s.modCtx (ctxOf s.cur) (fun c => c.setPeg i (g (s.ctx (ctxOf s.cur))))).retireWith s.cur f := by
  refine State.releasePeg_of_unwaited _ _ _ fun n hn ph d => ?_
  by_cases hk : strandKey (ctxOf s.cur) n = s.cur
  · rw [hk, State.modCtx_strand_other, show (s.retireWith s.cur f).strand s.cur = _ from s.retireWith_then f]
    exact Wait.noConfusion
  · obtain ⟨-, hstrands, -⟩ := s.retireWith_only f
    rw [State.modCtx_strand_other, hstrands _ hk]
    exact halone n hn hk ph d

/-- R174: an arrival moves the phase on when it is the last of those expected; what it releases stays with the peg. -/
theorem Peg.arrive_eq (p : Peg) (u : View) : ∃ v, p.arrive u =
    if p.arrived + 1 = p.expect then { p with arrived := 0, phase := p.phase + 1#16, view := v, coming := [] }
    else { p with arrived := p.arrived + 1, coming := v } := by
  unfold Peg.arrive
  split <;> exact ⟨_, rfl⟩

theorem State.releaseThen_of_performed (s : State) (f : State → State) (h : s.performed) : s.releaseThen s.cur f = f s := by
  have hsettled : s.settleAccesses s.cur = (s, true) := by
    have hout : s.unperformed s.cur = false := h
    simp only [State.settleAccesses, s.performed_of h, hout, Bool.not_false]
  rw [State.releaseThen, hsettled]

/-! ### The peg instructions (R362–R365) -/

/-- A peg as PEGA leaves it (R172, R362). -/
def freshPeg (expect : Nat) (gen : BitVec 16) : Peg :=
  { expect := expect, arrived := 0, phase := 0#16, refs := 1, gen := gen, live := true }

theorem execPega_allocates (s : State) (d a : BitVec 5) (i : Nat) (hlow : 1 ≤ (s.me.rg a).toNat) (hhigh : (s.me.rg a).toNat ≤ 65535)
    (hi : i < 32) (hfree : ((s.ctx (ctxOf s.cur)).peg i).live = false) (hbelow : ∀ j, j < i → ((s.ctx (ctxOf s.cur)).peg j).live = true) :
    let gen := ((s.ctx (ctxOf s.cur)).peg i).gen + 1#16
    let h := BitVec.ofNat 64 (i + gen.toNat * 2 ^ 32)
    ∃ t, exec (.pega d a) s = .next t ∧ s.leaves t s.me [d] ∧ s.sameBytes t
      ∧ s.onlyContext t (fun c => c.setPeg i (freshPeg (s.me.rg a).toNat gen))
      ∧ (s.then t).holdsG d h ∧ (t.ctx (ctxOf s.cur)).validHandle h = true := by
  intro gen h
  have hexec : exec (.pega d a) s = .next ((s.modCtx (ctxOf s.cur) (fun c => c.setPeg i (freshPeg (s.me.rg a).toNat gen))).retireWith
      s.cur (fun st => st.setG d h)) := by
    change execPega d a s = _
    unfold execPega
    simp only [(s.ctx (ctxOf s.cur)).freePeg_eq_some hi hfree hbelow, pegHandle_eq i _ hi]
    rw [if_neg (by omega)]
    rfl
  obtain ⟨honly, hbytes⟩ := s.setPeg_retireWith i (freshPeg (s.me.rg a).toNat gen) (fun st => st.setG d h)
  obtain ⟨hleaves, hholds⟩ := s.retireWith_setG d h
  refine ⟨_, hexec, hleaves, hbytes, honly, hholds, ?_⟩
  obtain ⟨-, -, -, hctx⟩ := honly
  have hpeg := (s.ctx (ctxOf s.cur)).peg_setPeg_self i (freshPeg (s.me.rg a).toNat gen)
  have hvalid := ((s.ctx (ctxOf s.cur)).setPeg i (freshPeg (s.me.rg a).toNat gen)).validHandle_of_live i hi (by rw [hpeg]; rfl)
  rw [hpeg] at hvalid
  rw [hctx, if_pos rfl]
  exact hvalid

theorem execPega_full (s : State) (d a : BitVec 5) (hlow : 1 ≤ (s.me.rg a).toNat) (hhigh : (s.me.rg a).toNat ≤ 65535)
    (hfull : ∀ j, j < 32 → ((s.ctx (ctxOf s.cur)).peg j).live = true) :
    ∃ t, exec (.pega d a) s = .next t ∧ s.computes t [d] ∧ (s.then t).holdsG d (BitVec.ofNat 64 (2 ^ 63)) := by
  refine ⟨_, ?_, s.writeG_computes d _⟩
  change execPega d a s = _
  unfold execPega
  simp only [(s.ctx (ctxOf s.cur)).freePeg_eq_none hfull]
  rw [if_neg (by omega)]
  rfl

theorem execPega_traps (s : State) (d a : BitVec 5) (he : (s.me.rg a).toNat < 1 ∨ 65535 < (s.me.rg a).toNat) (hready : s.trapReady) :
    ∃ t, exec (.pega d a) s = .next t ∧ s.takesTrap t 0x48 (s.me.rg a) :=
  ⟨_, if_pos he, s.trapP_takesTrap 0x48 _ hready rfl⟩

/-- The peg of the executing strand's context that the handle in a register names. -/
def State.pegAt (s : State) (a : BitVec 5) : Peg := (s.ctx (ctxOf s.cur)).peg ((s.me.rg a).toNat % 32)

theorem State.peg_eq_pegAt (s : State) (a : BitVec 5) : (s.ctx (ctxOf s.cur)).peg (natAt 0 5 (s.me.rg a)) = s.pegAt a := by
  rw [natAt_zero_five, State.pegAt]

section ValidHandle
variable (s : State) (d a : BitVec 5) (hvalid : (s.ctx (ctxOf s.cur)).validHandle (s.me.rg a) = true)
include hvalid

theorem execPegv_arrives (hperformed : s.performed) (halone : s.pegAlone ((s.me.rg a).toNat % 32)) :
    let p := s.pegAt a
    ∃ t, exec (.pegv d a) s = .next t ∧ s.leaves t s.me [d] ∧ s.sameBytes t ∧ (s.then t).holdsG d (withPhase (s.me.rg a) p.phase)
      ∧ ∃ v, s.onlyContext t (fun x => x.setPeg ((s.me.rg a).toNat % 32)
          (if p.arrived + 1 = p.expect then { p with arrived := 0, phase := p.phase + 1#16, view := v, coming := [] }
           else { p with arrived := p.arrived + 1, coming := v })) := by
  intro p
  have hexec : exec (.pegv d a) s = .next ((s.modCtx (ctxOf s.cur) (fun c => c.setPeg ((s.me.rg a).toNat % 32)
      (p.arrive (View.join [] (s.viewOf s.cur) 1)))).retireWith s.cur (fun st => st.setG d (withPhase (s.me.rg a) p.phase))) := by
    change execPegv d a s = _
    unfold execPegv
    simp only [hvalid, Bool.not_true, Bool.false_eq_true, if_false, s.releaseThen_of_performed _ hperformed, s.peg_eq_pegAt, pegvHandle_eq]
    rw [natAt_zero_five, State.pegArrive, s.retireWith_releasePeg _ _ _ halone]
    rfl
  obtain ⟨v, harrive⟩ := p.arrive_eq (View.join [] (s.viewOf s.cur) 1)
  rw [harrive] at hexec
  obtain ⟨honly, hbytes⟩ := s.setPeg_retireWith ((s.me.rg a).toNat % 32) _ (fun st => st.setG d (withPhase (s.me.rg a) p.phase))
  obtain ⟨hleaves, hholds⟩ := s.retireWith_setG d (withPhase (s.me.rg a) p.phase)
  exact ⟨_, hexec, hleaves, hbytes, hholds, v, honly⟩

theorem execPegw_passes (hfreed : s.me.pegfreed = false) (hphase : (s.pegAt a).phase.toNat ≠ (s.me.rg a).toNat / 65536 % 65536) :
    ∃ t, exec (.pegw d a) s = .next t ∧ s.computes t [d] ∧ (s.then t).holdsG d 1#64 := by
  refine ⟨_, ?_, s.acquire_setG (s.pegAt a).view 5 d 1#64⟩
  change execPegw d a s = _
  unfold execPegw
  simp only [hvalid, hfreed, Bool.not_true, Bool.false_eq_true, if_false, s.peg_eq_pegAt]
  rw [if_neg (fun hfield => hphase ((eq_fieldAt_iff 16 _ _).mp hfield))]

theorem execPegw_waits (hfreed : s.me.pegfreed = false) (hphase : (s.pegAt a).phase.toNat = (s.me.rg a).toNat / 65536 % 65536) :
    ∃ t, exec (.pegw d a) s = .next t ∧ s.waitsIn t .engwait (.pegw ((s.me.rg a).toNat % 32) (s.pegAt a).phase d) := by
  have hfield := (eq_fieldAt_iff 16 (s.me.rg a) _).mpr hphase
  refine ⟨_, ?_, s.block_waits _ _⟩
  change execPegw d a s = _
  unfold execPegw
  simp only [hvalid, hfreed, Bool.not_true, Bool.false_eq_true, if_false, s.peg_eq_pegAt, ← hfield, if_true]
  rw [natAt_zero_five]

theorem execPegf_unrefs (halone : s.pegAlone ((s.me.rg a).toNat % 32)) :
    let p := s.pegAt a
    ∃ t, exec (.pegf a) s = .next t ∧ s.leaves t s.me [] ∧ s.sameBytes t
      ∧ s.onlyContext t (fun x => x.setPeg ((s.me.rg a).toNat % 32)
          (if p.refs ≤ 1 then { p with refs := 0, live := false } else { p with refs := p.refs - 1 })) := by
  intro p
  have hexec : exec (.pegf a) s =
      .next ((s.modCtx (ctxOf s.cur) (fun c => c.setPeg ((s.me.rg a).toNat % 32) p.unref)).retireWith s.cur id) := by
    change execPegf a s = _
    unfold execPegf
    simp only [hvalid, Bool.not_true, Bool.false_eq_true, if_false, natAt_zero_five]
    rw [State.pegUnref, s.retireWith_releasePeg _ _ _ halone]
    rfl
  obtain ⟨honly, hbytes⟩ := s.setPeg_retireWith ((s.me.rg a).toNat % 32) p.unref id
  exact ⟨_, hexec, s.retireWith_leaves id, hbytes, honly⟩

theorem execPegq_counts :
    let p := s.pegAt a
    ∃ t, exec (.pegq d a) s = .next t ∧ s.computes t [d]
      ∧ (s.then t).holdsG d (BitVec.ofNat 64 (p.arrived + p.expect * 2 ^ 16 + p.phase.toNat * 2 ^ 32 + p.refs % 2 ^ 15 * 2 ^ 48)) := by
  intro p
  refine ⟨_, ?_, s.writeG_computes d _⟩
  change execPegq d a s = _
  unfold execPegq
  simp only [hvalid, Bool.not_true, Bool.false_eq_true, if_false, s.peg_eq_pegAt]
  rw [Nat.mul_comm 65536, Nat.mul_comm 4294967296, Nat.mul_comm 281474976710656]
  rfl

end ValidHandle

/-- R364: a PEGW that was stopped while its peg went back to the pool. -/
theorem execPegw_freed (s : State) (d a : BitVec 5) (hfreed : s.me.pegfreed = true) :
    ∃ t, exec (.pegw d a) s = .next t ∧ s.onlyStrand t ∧ s.leaves t { s.me with pegfreed := false } [d] ∧ (s.then t).holdsG d 0#64 := by
  have hcomm : ∀ st : Strand, ({ st.setG d 0#64 with pegfreed := false } : Strand) = ({ st with pegfreed := false } : Strand).setG d 0#64 := by
    intro st
    unfold Strand.setG
    split <;> rfl
  refine ⟨_, ?_, s.retireWith_setG_after (fun st => { st with pegfreed := false }) d 0#64⟩
  change execPegw d a s = _
  unfold execPegw
  simp only [hfreed, if_true, hcomm]

section InvalidHandle
variable (s : State) (d a : BitVec 5) (hinvalid : (s.ctx (ctxOf s.cur)).validHandle (s.me.rg a) = false)
include hinvalid

theorem execPegq_fails :
    ∃ t, exec (.pegq d a) s = .next t ∧ s.computes t [d] ∧ (s.then t).holdsG d (BitVec.ofNat 64 (2 ^ 63)) :=
  ⟨_, if_pos (by rw [hinvalid]; rfl), s.writeG_computes d _⟩

/-- R173: PEGV, PEGF and PEGW refuse the handle alike. -/
theorem execPeg_traps (hready : s.trapReady) :
    (∃ t, exec (.pegv d a) s = .next t ∧ s.takesTrap t 0x48 (s.me.rg a)) ∧
    (∃ t, exec (.pegf a) s = .next t ∧ s.takesTrap t 0x48 (s.me.rg a)) ∧
    (s.me.pegfreed = false → ∃ t, exec (.pegw d a) s = .next t ∧ s.takesTrap t 0x48 (s.me.rg a)) := by
  have htrap := s.trapP_takesTrap 0x48 (s.me.rg a) hready rfl
  have hrefused : (!(s.ctx (ctxOf s.cur)).validHandle (s.me.rg a)) = true := by rw [hinvalid]; rfl
  exact ⟨⟨_, if_pos hrefused, htrap⟩, ⟨_, if_pos hrefused, htrap⟩,
    fun hfreed => ⟨_, (if_neg (by rw [hfreed]; decide)).trans (if_pos hrefused), htrap⟩⟩

end InvalidHandle

/-- Settles O28: PEGA by the state of the pool, the others by their handle; a peg at which nobody else waits changes alone. -/
theorem pegsWork : Obligations.PegsWork := by
  unfold Obligations.PegsWork
  exact ⟨fun s d a => ⟨execPega_allocates s d a, execPega_full s d a, execPega_traps s d a⟩,
    fun s d a hvalid => ⟨execPegv_arrives s d a hvalid, execPegw_passes s d a hvalid, execPegw_waits s d a hvalid,
      execPegf_unrefs s a hvalid, execPegq_counts s d a hvalid⟩,
    fun s d a => ⟨execPegw_freed s d a, fun hinvalid => ⟨execPegq_fails s d a hinvalid, execPeg_traps s d a hinvalid⟩⟩⟩

end Sys2Proof.Machine

/-! # Proofs: vectors and predicates (O16)

What a vector operation leaves once the acceptance queue has taken it, for every operation with at most one result of a kind; what an
instruction with a predicate result leaves; and the reads of R374 and the predicate instructions of R395 from these. -/

namespace Sys2Proof.Machine

/-! ### The acceptance queue (R169) -/

/-- R169: the pipeline takes an instruction after the cycle in which it issues. -/
theorem lt_acceptCycle (c : Nat) (pend : List Nat) : c < acceptCycle c pend := by
  unfold acceptCycle
  refine List.foldlRecOn (motive := fun m => c < m) _ _ ?_ fun m hm t _ => lt_of_lt_of_le hm (Nat.le_max_left _ _)
  split <;> omega

/-- A change of the strand's context that keeps its scratchpad, and after it one of the strand alone. -/
theorem State.onlyContext_of_modCtx {s t : State} {f : Ctx → Ctx} (h : (s.modCtx (ctxOf s.cur) f).onlyStrand t)
    (hspm : ∀ c, (f c).spm = c.spm) (hspfe : ∀ c, (f c).spfe = c.spfe) : s.onlyContext t f ∧ s.sameBytes t := by
  obtain ⟨heq, hstrands, hjobs, hbytes⟩ := h
  have hctxs : t.ctxs = (s.modCtx (ctxOf s.cur) f).ctxs := (congrArg State.ctxs heq :)
  have hctx : ∀ c, (s.modCtx (ctxOf s.cur) f).ctx c = if c = ctxOf s.cur then f (s.ctx c) else s.ctx c := fun c => by
    rw [State.ctx_modCtx]
    split
    · next hc => rw [hc]
    · rfl
  refine ⟨⟨?_, hstrands, hjobs, fun c => ?_⟩, fun l => ?_⟩
  · rw [hctxs]
    exact heq
  · rw [← hctx c, State.ctx, hctxs, State.ctx]
  · rw [(hbytes l).1, (hbytes l).2]
    cases l with
    | spm c o =>
      simp only [State.byteAt, State.fullAt, hctx]
      split
      · rw [hspm, hspfe]
        exact ⟨rfl, rfl⟩
      · exact ⟨rfl, rfl⟩
    | _ => exact ⟨rfl, rfl⟩

/-- R169: an instruction that changes its strand alone, once it stands in the acceptance queue of its context. -/
theorem State.onlyContext_of_queued {s t : State} {q : List Nat}
    (h : (s.modCtx (ctxOf s.cur) (fun c => { c with vq := q })).onlyStrand t) :
    s.onlyContext t (fun c => { c with vq := (t.ctx (ctxOf s.cur)).vq }) ∧ s.sameBytes t := by
  have hcontext := State.onlyContext_of_modCtx h (fun _ => rfl) (fun _ => rfl)
  have hq : (t.ctx (ctxOf s.cur)).vq = q := by
    obtain ⟨⟨-, -, -, hctx⟩, -⟩ := hcontext
    rw [hctx, if_pos rfl]
  rw [hq]
  exact hcontext

/-- R150, R169: a vector operation with at most one result of a kind is accepted where the queue has room and no flag of it traps. -/
theorem State.vectorOp_accepted (s : State) (lam : Nat) (l : BitVec 4) (reads : List Nat) (r : VecResult) (hroom : s.vectorRoom)
    (hg : r.gw.length ≤ 1) (hv : r.vw.length ≤ 1) (hk : r.kw.length ≤ 1) (hf : s.quietFlags l r.flags) :
    s.accepted (s.vectorOp lam l reads r) lam l r.gw r.vw r.kw r.flags := by
  unfold State.vectorOp
  rw [if_neg (Nat.not_le.mpr hroom)]
  set pend := (s.ctx (ctxOf s.cur)).vq.filter (fun t => decide (s.cycle < t))
  set n := acceptCycle s.cycle pend - s.cycle + lam
  have hn : lam < n := Nat.lt_add_of_pos_left (Nat.sub_pos_of_lt (lt_acceptCycle s.cycle pend))
  obtain ⟨honly, hissued⟩ := (s.modCtx (ctxOf s.cur) (fun c => { c with vq := pend ++ [acceptCycle s.cycle pend] })).issueLong_issued n l
    { kind := .vector, pc := 0, window := 0, doneAt := 0, flags := r.flags, gw := r.gw, vw := r.vw, kw := r.kw, reads := reads }
    hg hv hk hf (.inr rfl) rfl
  obtain ⟨hcontext, hbytes⟩ := State.onlyContext_of_queued honly
  exact ⟨hcontext, hbytes, n, hn, hissued⟩

/-! ### Reads (R374) -/

theorem execVlen_reads (s : State) (a l : BitVec 4) :
    ∃ t, exec (.vlen a l) s = .next t ∧ s.computes t [gr a] ∧ (s.then t).holdsG (gr a) 2048#64 :=
  ⟨_, rfl, s.writeG_computes (gr a) 2048#64⟩

/-- R374: the model's lane of 64 bits is the element of the statement. -/
theorem lane_eq_element (i : Nat) (x : Row) : lane 64 i x = element 8 x i := natAt_eq_div_mod (64 * i) 64 x

theorem execVmovVg_accepted (s : State) (d a b l : BitVec 4) (hroom : s.vectorRoom) :
    ∃ t, exec (.vmovVg d a b l) s = .next t ∧ s.accepted t 40 l
      [(gr a, if (s.me.rg (gr b)).toNat < 32 then BitVec.ofNat 64 (element 8 (s.me.rv d) (s.me.rg (gr b)).toNat) else 0#64)] [] [] 0#6 := by
  rw [← lane_eq_element]
  exact ⟨_, rfl, s.vectorOp_accepted 40 l _ { gw := [(gr a, _)] } hroom (by simp) (by simp) (by simp) (.inr BitVec.zero_and)⟩

/-! ### Predicate results (R395) -/

/-- R395: each predicate instruction completes with its predicate as the result. -/
theorem PredicateResult.exec_eq {s : State} {i : Instr} {d : BitVec 3} {x : Pred} (h : PredicateResult s.me i d x) :
    exec i s = .next (s.writeK d x) := by
  cases h <;> rfl

/-- R152: what a write of a predicate leaves to be read; a write of k0 is ignored. -/
theorem Strand.setK_holdsK (st : Strand) (d : BitVec 3) (x : Pred) : (st.setK d x).holdsK d x := by
  unfold Strand.holdsK
  rw [Strand.rk_setK]
  by_cases hd : d = 0#3 <;> simp [hd, Strand.rk]

/-- A write of a predicate changes no other register. -/
theorem Strand.setK_frame (st : Strand) (d : BitVec 3) (x : Pred) : st.frame (st.setK d x) [] [] [d] := by
  refine ⟨?_, fun r _ => rg_setK st d x r, fun r _ => rv_setK st d x r, fun r hr => ?_⟩
  · rw [Strand.setK_eq]
    rfl
  · rw [Strand.rk_setK, if_neg fun h => hr (List.mem_singleton.mpr h.1)]

/-- The end of an instruction that completes with a predicate as its result. -/
theorem State.writeK_spec (s : State) (d : BitVec 3) (x : Pred) : let t := s.writeK d x
    s.onlyStrand t ∧ s.me.frame (s.then t) [] [] [d] ∧ (s.then t).holdsK d x ∧ (s.then t).fflags = s.me.fflags
      ∧ s.me.movesOn (s.then t) := by
  intro t
  obtain ⟨⟨hspecial, hg, hv, hk⟩, hflags, hpc, hloops, hlstat⟩ := s.retireWith_leaves (fun st => st.setK d x)
  obtain ⟨hspecial', hg', hv', hk'⟩ := s.me.setK_frame d x
  obtain ⟨hpc', hloops', hlstat'⟩ := Strand.advance_congr (s.me.setK d x) s.me (by rw [Strand.setK_eq]) (by rw [Strand.setK_eq])
    (by rw [Strand.setK_eq])
  refine ⟨s.retireWith_only _, ⟨hspecial.trans hspecial', fun r hr => (hg r hr).trans (hg' r hr), fun r hr => (hv r hr).trans (hv' r hr),
    fun r hr => (hk r List.not_mem_nil).trans (hk' r hr)⟩, (hk d List.not_mem_nil).trans (s.me.setK_holdsK d x), ?_,
    hpc.trans hpc', hloops.trans hloops', hlstat.trans hlstat'⟩
  rw [show (s.then t).fflags = (s.me.setK d x).fflags from hflags, Strand.setK_eq]

/-- Settles O16: the reads by what they write, the predicate instructions by their one way of completing. -/
theorem readsAndPredicates : Obligations.ReadsAndPredicates := by
  unfold Obligations.ReadsAndPredicates
  exact ⟨fun s d a b l => ⟨execVlen_reads s a l, execVmovVg_accepted s d a b l⟩,
    fun s i d x h => ⟨_, h.exec_eq, s.writeK_spec d x⟩⟩

end Sys2Proof.Machine
